-- ==== Sys2Proof/Word.lean ====
section
/-! DEFINITION. The word types of the B4: bytes, 32-bit instruction words, 64-bit registers, and the widths that
00_scope R2 and 08_encoding R184, R185 give. -/

namespace Sys2Proof

/-- One byte of memory. -/
abbrev Byte := BitVec 8
/-- One 64-bit register value. -/
abbrev Word := BitVec 64
/-- A general register number, g0-g31 (R185). -/
abbrev GReg := Fin 32
/-- A vector register number, v0-v31 (R185). -/
abbrev VReg := Fin 32
/-- A mask register number, m0-m15 (R185). -/
abbrev MReg := Fin 16
/-- A fibre register number, f0-f7 (R185). -/
abbrev FReg := Fin 8
/-- An accumulator descriptor number, d0-d7 (R185). -/
abbrev DReg := Fin 8
/-- A canonical reduction register number, k0-k3 (R92). -/
abbrev KReg := Fin 4
/-- A context identifier: module-wide core number times 8 plus strand context (R231, Table 8). -/
abbrev Ctx := Fin 32768
/-- A die or stack number (R4). -/
abbrev Die := Fin 16
/-- A module number (R12). -/
abbrev ModNum := Fin 4096

end Sys2Proof
end

