-- ==== Sys2Proof/Syntax.lean ====
section
/-! DEFINITION. The one inductive of the B4's steps: every row of spec/opcode_table.json is a constructor, with the
operand fields that 08_encoding (R184, R185) gives its word.  The rows without a word are the machine's own events
(95_what_each_step_holds); their operands say where the event happens and what arrives with it.  Instructions that a replay or a Sirmal block may hold come first (before constructor 244), so that
their decoder can be compiled. -/

namespace Sys2Proof

/-- Who executes instructions: a device strand in a context (R160) or a control complex core (R422). -/
inductive Agent where
  /-- the strand bound to a context -/
  | strand (ctx : Ctx)
  /-- a control complex core -/
  | cc (core : Fin 32)
deriving DecidableEq, Repr

/-- Every instruction and every event of the B4, one constructor per row of the opcode table. -/
inductive Instr where
  /-- ADD (R204): Writes the sum of ga and gb modulo 2^64 to gd. -/
  | add (d : GReg) (a : GReg) (b : GReg)
  /-- SUB (R204): Writes ga minus gb modulo 2^64 to gd. -/
  | sub (d : GReg) (a : GReg) (b : GReg)
  /-- MUL (R204): Writes the low 64 bits of ga times gb to gd. -/
  | mul (d : GReg) (a : GReg) (b : GReg)
  /-- MULH (R204): Writes the high 64 bits of the signed 128-bit product to gd. -/
  | mulh (d : GReg) (a : GReg) (b : GReg)
  /-- MULHN (R204): Writes the high 64 bits of the unsigned 128-bit product to gd. -/
  | mulhn (d : GReg) (a : GReg) (b : GReg)
  /-- DIV (R205): Writes the signed quotient to gd, truncated toward zero; division never traps. -/
  | div (d : GReg) (a : GReg) (b : GReg)
  /-- DIVN (R205): Writes the unsigned quotient to gd; division by zero gives all ones. -/
  | divn (d : GReg) (a : GReg) (b : GReg)
  /-- REM (R205): Writes the signed remainder to gd, with the sign of ga. -/
  | rem (d : GReg) (a : GReg) (b : GReg)
  /-- REMN (R205): Writes the unsigned remainder to gd. -/
  | remn (d : GReg) (a : GReg) (b : GReg)
  /-- AND (R204): Writes the bitwise AND of ga and gb to gd. -/
  | and (d : GReg) (a : GReg) (b : GReg)
  /-- OR (R204): Writes the bitwise OR of ga and gb to gd. -/
  | or (d : GReg) (a : GReg) (b : GReg)
  /-- XOR (R204): Writes the bitwise XOR of ga and gb to gd. -/
  | xor (d : GReg) (a : GReg) (b : GReg)
  /-- SHL (R204): Shifts ga left by gb[5:0]. -/
  | shl (d : GReg) (a : GReg) (b : GReg)
  /-- SHR (R204): Shifts ga right logically by gb[5:0]. -/
  | shr (d : GReg) (a : GReg) (b : GReg)
  /-- SRA (R204): Shifts ga right arithmetically by gb[5:0]. -/
  | sra (d : GReg) (a : GReg) (b : GReg)
  /-- SLT (R204): Writes 1 to gd if ga is less than gb as signed values, else 0. -/
  | slt (d : GReg) (a : GReg) (b : GReg)
  /-- SLTN (R204): Writes 1 to gd if ga is less than gb as unsigned values, else 0. -/
  | sltn (d : GReg) (a : GReg) (b : GReg)
  /-- MIN (R204): Writes the signed minimum of ga and gb to gd. -/
  | min (d : GReg) (a : GReg) (b : GReg)
  /-- MAX (R204): Writes the signed maximum of ga and gb to gd. -/
  | max (d : GReg) (a : GReg) (b : GReg)
  /-- CLZ (R204): Writes the number of leading zeros of ga to gd. -/
  | clz (d : GReg) (a : GReg)
  /-- CTZ (R204): Writes the number of trailing zeros of ga to gd. -/
  | ctz (d : GReg) (a : GReg)
  /-- POPC (R204): Writes the number of set bits of ga to gd. -/
  | popc (d : GReg) (a : GReg)
  /-- LDL (R211): Loads the 8-byte word at ga and sets the strand's reservation on it. -/
  | ldl (d : GReg) (a : GReg)
  /-- STC (R211): Stores gb at ga if the reservation is still valid, writes the outcome to gd and clears the reservation. -/
  | stc (d : GReg) (a : GReg) (b : GReg)
  /-- ADDI (R206): Adds the sign-extended immediate to ga. -/
  | addi (d : GReg) (a : GReg) (imm : BitVec 15)
  /-- ANDI (R206): Takes the bitwise AND of ga and the zero-extended immediate. -/
  | andi (d : GReg) (a : GReg) (imm : BitVec 15)
  /-- ORI (R206): Takes the bitwise OR of ga and the zero-extended immediate. -/
  | ori (d : GReg) (a : GReg) (imm : BitVec 15)
  /-- XORI (R206): Takes the bitwise XOR of ga and the zero-extended immediate. -/
  | xori (d : GReg) (a : GReg) (imm : BitVec 15)
  /-- SHLI (R206): Shifts ga left by imm[5:0]. -/
  | shli (d : GReg) (a : GReg) (imm : BitVec 6)
  /-- SHRI (R206): Shifts ga right logically by imm[5:0]. -/
  | shri (d : GReg) (a : GReg) (imm : BitVec 6)
  /-- SRAI (R206): Shifts ga right arithmetically by imm[5:0]. -/
  | srai (d : GReg) (a : GReg) (imm : BitVec 6)
  /-- SLTI (R206): Writes 1 to gd if ga is less than the immediate as signed values, else 0. -/
  | slti (d : GReg) (a : GReg) (imm : BitVec 15)
  /-- LUI (R206): Writes the sign-extended immediate times 2^15 to gd. -/
  | lui (d : GReg) (imm : BitVec 15)
  /-- ADDPC (R206): Writes its own address plus the immediate times 2^15 to gd. -/
  | addpc (d : GReg) (imm : BitVec 15)
  /-- LD_B (R208): Loads 1 byte into gd, sign-extended. -/
  | ldB (d : GReg) (a : GReg) (imm : BitVec 15)
  /-- LD_H (R208): Loads 2 bytes into gd, sign-extended. -/
  | ldH (d : GReg) (a : GReg) (imm : BitVec 15)
  /-- LD_W (R208): Loads 4 bytes into gd, sign-extended. -/
  | ldW (d : GReg) (a : GReg) (imm : BitVec 15)
  /-- LD_D (R208): Loads 8 bytes into gd. -/
  | ldD (d : GReg) (a : GReg) (imm : BitVec 15)
  /-- LD_B_N (R208): Loads 1 byte into gd, zero-extended. -/
  | ldBN (d : GReg) (a : GReg) (imm : BitVec 15)
  /-- LD_H_N (R208): Loads 2 bytes into gd, zero-extended. -/
  | ldHN (d : GReg) (a : GReg) (imm : BitVec 15)
  /-- LD_W_N (R208): Loads 4 bytes into gd, zero-extended. -/
  | ldWN (d : GReg) (a : GReg) (imm : BitVec 15)
  /-- ST_B (R208): Stores the low byte of gd. -/
  | stB (d : GReg) (a : GReg) (imm : BitVec 15)
  /-- ST_H (R208): Stores the low 2 bytes of gd. -/
  | stH (d : GReg) (a : GReg) (imm : BitVec 15)
  /-- ST_W (R208): Stores the low 4 bytes of gd. -/
  | stW (d : GReg) (a : GReg) (imm : BitVec 15)
  /-- ST_D (R208): Stores all 8 bytes of gd. -/
  | stD (d : GReg) (a : GReg) (imm : BitVec 15)
  /-- SRD (R194): Reads a strand special register into gd, resynchronising the sides for VPROG and STATUS. -/
  | srd (d : GReg) (n : Fin 1024)
  /-- SWR (R194): Writes a strand special register from ga under its access codes. -/
  | swr (a : GReg) (n : Fin 1024)
  /-- BEQ (R220): Branches if ga equals gb. -/
  | beq (a : GReg) (b : GReg) (off : BitVec 15)
  /-- BNE (R220): Branches if ga differs from gb. -/
  | bne (a : GReg) (b : GReg) (off : BitVec 15)
  /-- BLT (R220): Branches if ga is less than gb as signed values. -/
  | blt (a : GReg) (b : GReg) (off : BitVec 15)
  /-- BGE (R220): Branches if ga is greater than or equal to gb as signed values. -/
  | bge (a : GReg) (b : GReg) (off : BitVec 15)
  /-- BLTN (R220): Branches if ga is less than gb as unsigned values. -/
  | bltn (a : GReg) (b : GReg) (off : BitVec 15)
  /-- BGEN (R220): Branches if ga is greater than or equal to gb as unsigned values. -/
  | bgen (a : GReg) (b : GReg) (off : BitVec 15)
  /-- JAL (R220): Writes the return address to g1 and jumps. -/
  | jal (off : BitVec 25)
  /-- JALR (R221): Writes the return address to gd and jumps to ga. -/
  | jalr (d : GReg) (a : GReg)
  /-- LOOP (R222): Starts a hardware loop of L instructions that runs ga[31:0] times. -/
  | loop (h : Fin 32) (a : GReg) (l : Fin 32)
  /-- VREP (R223): Captures a loop body in the replay buffer and runs it ga[31:0] times. -/
  | vrep (l : Fin 32) (a : GReg)
  /-- YIELD (R224): Gives up the strand's current issue slot at the partition arbiter. -/
  | yield
  /-- SEXIT (R224): Ends the strand once its execute side and its path operations have completed, then frees the context. -/
  | sexit
  /-- SCALL (R225): Takes the system-call trap with the code in TVAL. -/
  | scall (h : Fin 32) (l : Fin 32)
  /-- BRK (R225): Takes the breakpoint trap with the code in TVAL. -/
  | brk (h : Fin 32) (l : Fin 32)
  /-- QW (R226): Appends ga to queue q0-q3, sleeping while the queue is full. -/
  | qw (q : Fin 32) (a : GReg)
  /-- QR (R226): Pops the head of q6 or q7 into gd, sleeping while the queue is empty. -/
  | qr (d : GReg) (q : Fin 32)
  /-- QPEEK (R226): Copies the head of q6 or q7 into gd without popping it. -/
  | qpeek (d : GReg) (q : Fin 32)
  /-- QSTAT (R226): Writes a queue's entry count to gd. -/
  | qstat (d : GReg) (q : Fin 32)
  /-- VADD (R259): Adds vector elements. -/
  | vadd (d : VReg) (a : VReg) (b : VReg) (mk : MReg) (me : Bool)
  /-- VSUB (R259): Subtracts vector elements. -/
  | vsub (d : VReg) (a : VReg) (b : VReg) (mk : MReg) (me : Bool)
  /-- VMUL (R259): Multiplies vector elements. -/
  | vmul (d : VReg) (a : VReg) (b : VReg) (mk : MReg) (me : Bool)
  /-- VDIV (R259): Divides vector elements. -/
  | vdiv (d : VReg) (a : VReg) (b : VReg) (mk : MReg) (me : Bool)
  /-- VMIN (R259): Takes the element-wise minimum. -/
  | vmin (d : VReg) (a : VReg) (b : VReg) (mk : MReg) (me : Bool)
  /-- VMAX (R259): Takes the element-wise maximum. -/
  | vmax (d : VReg) (a : VReg) (b : VReg) (mk : MReg) (me : Bool)
  /-- VAND (R259): Takes the element-wise bitwise AND. -/
  | vand (d : VReg) (a : VReg) (b : VReg) (mk : MReg) (me : Bool)
  /-- VOR (R259): Takes the element-wise bitwise OR. -/
  | vor (d : VReg) (a : VReg) (b : VReg) (mk : MReg) (me : Bool)
  /-- VXOR (R259): Takes the element-wise bitwise XOR. -/
  | vxor (d : VReg) (a : VReg) (b : VReg) (mk : MReg) (me : Bool)
  /-- VSHL (R259): Shifts elements left. -/
  | vshl (d : VReg) (a : VReg) (b : VReg) (mk : MReg) (me : Bool)
  /-- VSHR (R259): Shifts elements right logically. -/
  | vshr (d : VReg) (a : VReg) (b : VReg) (mk : MReg) (me : Bool)
  /-- VSRA (R259): Shifts elements right arithmetically. -/
  | vsra (d : VReg) (a : VReg) (b : VReg) (mk : MReg) (me : Bool)
  /-- VWMUL (R260): Multiplies elements into the wide type. -/
  | vwmul (d : VReg) (a : VReg) (b : VReg) (mk : MReg) (me : Bool)
  /-- VWADD (R260): Adds elements into the wide type. -/
  | vwadd (d : VReg) (a : VReg) (b : VReg) (mk : MReg) (me : Bool)
  /-- VFMA (R259): Computes a×b+d with one rounding. -/
  | vfma (d : VReg) (a : VReg) (b : VReg) (mk : MReg) (me : Bool)
  /-- VFMS (R259): Computes a×b−d with one rounding. -/
  | vfms (d : VReg) (a : VReg) (b : VReg) (mk : MReg) (me : Bool)
  /-- VFNMA (R259): Computes −(a×b)+d with one rounding. -/
  | vfnma (d : VReg) (a : VReg) (b : VReg) (mk : MReg) (me : Bool)
  /-- VSQRT (R259): Takes the element-wise square root. -/
  | vsqrt (d : VReg) (a : VReg) (mk : MReg) (me : Bool)
  /-- VRCP (R259): Takes the element-wise reciprocal. -/
  | vrcp (d : VReg) (a : VReg) (mk : MReg) (me : Bool)
  /-- VABS (R259): Takes the element-wise absolute value. -/
  | vabs (d : VReg) (a : VReg) (mk : MReg) (me : Bool)
  /-- VNEG (R259): Negates elements. -/
  | vneg (d : VReg) (a : VReg) (mk : MReg) (me : Bool)
  /-- VMOV (R259): Copies elements bit-exactly, packed blocks included. -/
  | vmov (d : VReg) (a : VReg) (mk : MReg) (me : Bool)
  /-- VCLASS (R264): Writes a class word for each floating-point element. -/
  | vclass (d : VReg) (a : VReg) (mk : MReg) (me : Bool)
  /-- VIOTA (R264): Writes element i := i mod 2^w. -/
  | viota (d : VReg) (mk : MReg) (me : Bool)
  /-- VSPLAT (R264): Writes gb to every selected element. -/
  | vsplat (d : VReg) (b : GReg) (mk : MReg) (me : Bool)
  /-- VMOV_Q (R264): Appends one element of va to q6 or q7. -/
  | vmovQ (q : Fin 2) (a : VReg) (b : GReg)
  /-- VNARROW (R260): Narrows elements from the wide type, saturating. -/
  | vnarrow (d : VReg) (a : VReg) (mk : MReg) (me : Bool)
  /-- VADD_S (R259): Adds a scalar to vector elements. -/
  | vaddS (d : VReg) (a : VReg) (b : GReg) (mk : MReg) (me : Bool)
  /-- VSUB_S (R259): Subtracts a scalar from vector elements. -/
  | vsubS (d : VReg) (a : VReg) (b : GReg) (mk : MReg) (me : Bool)
  /-- VMUL_S (R259): Multiplies vector elements by a scalar. -/
  | vmulS (d : VReg) (a : VReg) (b : GReg) (mk : MReg) (me : Bool)
  /-- VDIV_S (R259): Divides vector elements by a scalar. -/
  | vdivS (d : VReg) (a : VReg) (b : GReg) (mk : MReg) (me : Bool)
  /-- VMIN_S (R259): Takes the minimum of each element and a scalar. -/
  | vminS (d : VReg) (a : VReg) (b : GReg) (mk : MReg) (me : Bool)
  /-- VMAX_S (R259): Takes the maximum of each element and a scalar. -/
  | vmaxS (d : VReg) (a : VReg) (b : GReg) (mk : MReg) (me : Bool)
  /-- VAND_S (R259): Takes the bitwise AND of each element and a scalar. -/
  | vandS (d : VReg) (a : VReg) (b : GReg) (mk : MReg) (me : Bool)
  /-- VOR_S (R259): Takes the bitwise OR of each element and a scalar. -/
  | vorS (d : VReg) (a : VReg) (b : GReg) (mk : MReg) (me : Bool)
  /-- VXOR_S (R259): Takes the bitwise XOR of each element and a scalar. -/
  | vxorS (d : VReg) (a : VReg) (b : GReg) (mk : MReg) (me : Bool)
  /-- VSHL_S (R259): Shifts elements left by a scalar. -/
  | vshlS (d : VReg) (a : VReg) (b : GReg) (mk : MReg) (me : Bool)
  /-- VSHR_S (R259): Shifts elements right logically by a scalar. -/
  | vshrS (d : VReg) (a : VReg) (b : GReg) (mk : MReg) (me : Bool)
  /-- VSRA_S (R259): Shifts elements right arithmetically by a scalar. -/
  | vsraS (d : VReg) (a : VReg) (b : GReg) (mk : MReg) (me : Bool)
  /-- VWMUL_S (R260): Multiplies elements by a scalar into the wide type. -/
  | vwmulS (d : VReg) (a : VReg) (b : GReg) (mk : MReg) (me : Bool)
  /-- VWADD_S (R260): Adds a scalar to elements into the wide type. -/
  | vwaddS (d : VReg) (a : VReg) (b : GReg) (mk : MReg) (me : Bool)
  /-- VFMA_S (R259): Computes a×scalar+d with one rounding. -/
  | vfmaS (d : VReg) (a : VReg) (b : GReg) (mk : MReg) (me : Bool)
  /-- VFMS_S (R259): Computes a×scalar−d with one rounding. -/
  | vfmsS (d : VReg) (a : VReg) (b : GReg) (mk : MReg) (me : Bool)
  /-- VFNMA_S (R259): Computes −(a×scalar)+d with one rounding. -/
  | vfnmaS (d : VReg) (a : VReg) (b : GReg) (mk : MReg) (me : Bool)
  /-- VCVT (R260): Converts elements from type T to VTYPE.ET, rounding and saturating. -/
  | vcvt (d : VReg) (a : VReg) (t : Fin 32) (mk : MReg) (me : Bool)
  /-- VQNT (R261): Quantises elements into packed blocks of type T. -/
  | vqnt (d : VReg) (a : VReg) (t : Fin 32) (mk : MReg)
  /-- VDQNT (R261): Decodes packed blocks of type T into elements. -/
  | vdqnt (d : VReg) (a : VReg) (t : Fin 32) (mk : MReg)
  /-- VSAT (R260): Clamps elements to the range of type T and sets their SATM bits. -/
  | vsat (d : VReg) (a : VReg) (t : Fin 32) (mk : MReg) (me : Bool)
  /-- VCMP (R262): Compares vector elements under condition cc into a mask. -/
  | vcmp (d : MReg) (a : VReg) (b : VReg) (mk : MReg) (me : Bool) (c : Fin 8)
  /-- VCMP_S (R262): Compares vector elements with a scalar under condition cc into a mask. -/
  | vcmpS (d : MReg) (a : VReg) (b : GReg) (mk : MReg) (me : Bool) (c : Fin 8)
  /-- VSEL (R263): Selects va or vb for each element under the mask. -/
  | vsel (d : VReg) (a : VReg) (b : VReg) (mk : MReg)
  /-- VMERGE (R263): Applies the FM test, then writes va to the selected elements. -/
  | vmerge (d : VReg) (a : VReg) (mk : MReg)
  /-- VLD (R250): Loads unit-stride elements, converting under MFMT. -/
  | vld (d : VReg) (a : GReg) (mk : MReg) (me : Bool)
  /-- VLDS (R250): Loads strided elements. -/
  | vlds (d : VReg) (a : GReg) (b : GReg) (mk : MReg) (me : Bool)
  /-- VLDX (R250): Gathers elements through INT32 byte offsets. -/
  | vldx (d : VReg) (a : GReg) (b : VReg) (mk : MReg) (me : Bool)
  /-- VLDX_D (R250): Gathers elements through INT64 byte offsets. -/
  | vldxD (d : VReg) (a : GReg) (b : VReg) (mk : MReg) (me : Bool)
  /-- VLDQ (R251): Loads a unit-stride vector as one entry of q4 or q5. -/
  | vldq (q : Fin 2) (a : GReg) (mk : MReg)
  /-- VLDL (R254): Gathers elements through INT32 indices and sets the vector reservation set. -/
  | vldl (d : VReg) (a : GReg) (b : VReg) (mk : MReg) (me : Bool)
  /-- VLDL_D (R254): Gathers elements through INT64 indices and sets the vector reservation set. -/
  | vldlD (d : VReg) (a : GReg) (b : VReg) (mk : MReg) (me : Bool)
  /-- VLDZ (R256): Expands blocks of a compressed stream into vd, setting VL, the cursor and VPROG. -/
  | vldz (d : VReg) (a : GReg) (b : Fin 16)
  /-- VPF (R252): Prefetches the lines that a load of the given kind would read. -/
  | vpf (k : Fin 4) (a : GReg) (b : GReg) (mk : MReg) (me : Bool)
  /-- VST (R250): Stores unit-stride elements, converting under MFMT. -/
  | vst (s : VReg) (a : GReg) (mk : MReg) (me : Bool)
  /-- VSTS (R250): Stores strided elements. -/
  | vsts (s : VReg) (a : GReg) (b : GReg) (mk : MReg) (me : Bool)
  /-- VSTX (R250): Scatters elements through INT32 byte offsets. -/
  | vstx (s : VReg) (a : GReg) (b : VReg) (mk : MReg) (me : Bool)
  /-- VSTX_D (R250): Scatters elements through INT64 byte offsets. -/
  | vstxD (s : VReg) (a : GReg) (b : VReg) (mk : MReg) (me : Bool)
  /-- VSTC (R253): Stores the selected elements contiguously. -/
  | vstc (s : VReg) (a : GReg) (mk : MReg) (me : Bool)
  /-- VSCC (R254): Stores elements whose reservations still hold, with INT32 indices, and rewrites the mask. -/
  | vscc (s : VReg) (a : GReg) (b : VReg) (mk : MReg)
  /-- VSCC_D (R254): Stores elements whose reservations still hold, with INT64 indices, and rewrites the mask. -/
  | vsccD (s : VReg) (a : GReg) (b : VReg) (mk : MReg)
  /-- VSETL (R241): Sets VTYPE and grants VL and VPAD from the request. -/
  | vsetl (d : GReg) (a : GReg) (b : GReg)
  /-- VSETMF (R243): Sets MFMT.FMT. -/
  | vsetmf (a : GReg)
  /-- VSPLIT (R244): Sets LGMAP.PSIZE and PART, re-forming the core's partitions. -/
  | vsplit (a : GReg) (b : GReg)
  /-- VFUSE (R244): Sets LGMAP.PSIZE to eight lane groups. -/
  | vfuse
  /-- MPOPV (R266): Writes, for each element, the count of lower set mask bits. -/
  | mpopv (d : VReg) (a : MReg) (mk : MReg) (me : Bool)
  /-- MAND (R265): Takes the AND of two masks. -/
  | mand (d : MReg) (a : MReg) (b : MReg)
  /-- MOR (R265): Takes the OR of two masks. -/
  | mor (d : MReg) (a : MReg) (b : MReg)
  /-- MXOR (R265): Takes the XOR of two masks. -/
  | mxor (d : MReg) (a : MReg) (b : MReg)
  /-- MNOT (R265): Inverts a mask. -/
  | mnot (d : MReg) (a : MReg)
  /-- MSET (R265): Sets mask bits below n. -/
  | mset (d : MReg)
  /-- MCLR (R265): Clears every bit of a mask register. -/
  | mclr (d : MReg)
  /-- MFROMFM (R265): Copies FM into a mask register and clears FM. -/
  | mfromfm (d : MReg)
  /-- MCNT (R227): Writes the count of set mask bits below VL to gd, resynchronising the sides. -/
  | mcnt (d : GReg) (a : MReg)
  /-- MANY (R227): Writes 1 to gd if any mask bit below VL is set, resynchronising the sides. -/
  | many (d : GReg) (a : MReg)
  /-- MFIRST (R227): Writes the lowest set mask index to gd, resynchronising the sides. -/
  | mfirst (d : GReg) (a : MReg)
  /-- VSLIDEUP (R267): Slides elements up by gb. -/
  | vslideup (d : VReg) (a : VReg) (b : GReg) (mk : MReg) (me : Bool)
  /-- VSLIDEDN (R267): Slides elements down by gb. -/
  | vslidedn (d : VReg) (a : VReg) (b : GReg) (mk : MReg) (me : Bool)
  /-- VSHUF (R267): Permutes elements by an index vector. -/
  | vshuf (d : VReg) (a : VReg) (b : VReg) (mk : MReg) (me : Bool)
  /-- VREV (R267): Reverses the elements below n. -/
  | vrev (d : VReg) (a : VReg) (mk : MReg) (me : Bool)
  /-- VCOMPRESS (R268): Packs the selected elements to the front and sets VL, resynchronising the sides. -/
  | vcompress (d : VReg) (a : VReg) (mk : MReg)
  /-- VEXPAND (R268): Spreads consecutive source elements into the selected positions. -/
  | vexpand (d : VReg) (a : VReg) (mk : MReg)
  /-- VSCAN (R269): Computes an inclusive add scan over the selected elements. -/
  | vscan (d : VReg) (a : VReg) (mk : MReg) (me : Bool)
  /-- VSCAN_MIN (R269): Computes an inclusive minimum scan. -/
  | vscanMin (d : VReg) (a : VReg) (mk : MReg) (me : Bool)
  /-- VSCAN_MAX (R269): Computes an inclusive maximum scan. -/
  | vscanMax (d : VReg) (a : VReg) (mk : MReg) (me : Bool)
  /-- VREDSUM (R270): Sums the elements in C64 order, with a start value, into element 0. -/
  | vredsum (d : VReg) (a : VReg) (b : VReg) (mk : MReg) (me : Bool)
  /-- VREDSUM_F (R270): Sums the elements in a hardware-chosen order; refused in Reproducible mode. -/
  | vredsumF (d : VReg) (a : VReg) (b : VReg) (mk : MReg) (me : Bool)
  /-- VREDMAX (R270): Reduces to the maximum. -/
  | vredmax (d : VReg) (a : VReg) (b : VReg) (mk : MReg) (me : Bool)
  /-- VREDMIN (R270): Reduces to the minimum. -/
  | vredmin (d : VReg) (a : VReg) (b : VReg) (mk : MReg) (me : Bool)
  /-- VREDSUM_Q (R270): Sums in C64 order and appends the result to q6 or q7. -/
  | vredsumQ (q : Fin 2) (a : VReg) (b : VReg) (mk : MReg) (me : Bool)
  /-- VREDSUM_F_Q (R270): Sums in a hardware-chosen order and appends the result to q6 or q7. -/
  | vredsumFQ (q : Fin 2) (a : VReg) (b : VReg) (mk : MReg) (me : Bool)
  /-- VREDMAX_Q (R270): Reduces to the maximum and appends it to q6 or q7. -/
  | vredmaxQ (q : Fin 2) (a : VReg) (b : VReg) (mk : MReg) (me : Bool)
  /-- VREDMIN_Q (R270): Reduces to the minimum and appends it to q6 or q7. -/
  | vredminQ (q : Fin 2) (a : VReg) (b : VReg) (mk : MReg) (me : Bool)
  /-- VFOLD (R271): Pushes the elements into a k register in C64 order. -/
  | vfold (k : KReg) (a : VReg) (mk : MReg) (me : Bool)
  /-- VFOLD_FIN (R271): Writes the C64 result of a k register to element 0. -/
  | vfoldFin (d : VReg) (k : KReg)
  /-- VFOLD_CLR (R271): Clears a k register. -/
  | vfoldClr (k : KReg)
  /-- VFOLD_FIN_Q (R271): Appends the C64 result of a k register to q6 or q7. -/
  | vfoldFinQ (q : Fin 2) (k : KReg)
  /-- VCONFLICT (R272): Writes, for each element, the index of the nearest lower element with an equal value. -/
  | vconflict (d : VReg) (a : VReg) (mk : MReg) (me : Bool)
  /-- FLD (R281): Loads a fibre from coordinate and value arrays. -/
  | fld (d : FReg) (s : GReg)
  /-- FST (R281): Stores a fibre to coordinate and value arrays. -/
  | fst (a : FReg) (s : GReg)
  /-- FLDLV (R283): Loads the children of a parent position from one compressed level. -/
  | fldlv (d : FReg) (s : GReg)
  /-- FSCAT (R284): Adds each fibre entry's value into a dense array. -/
  | fscat (a : FReg) (g : GReg)
  /-- FINT_A (R287): Intersects two fibres, keeping fa's value. -/
  | fintA (d : FReg) (a : FReg) (b : FReg)
  /-- FINT_B (R287): Intersects two fibres, keeping fb's value. -/
  | fintB (d : FReg) (a : FReg) (b : FReg)
  /-- FINT_ADD (R287): Intersects two fibres, adding the values. -/
  | fintAdd (d : FReg) (a : FReg) (b : FReg)
  /-- FINT_MUL (R287): Intersects two fibres, multiplying the values. -/
  | fintMul (d : FReg) (a : FReg) (b : FReg)
  /-- FINT_MIN (R287): Intersects two fibres, keeping the lesser value. -/
  | fintMin (d : FReg) (a : FReg) (b : FReg)
  /-- FINT_MAX (R287): Intersects two fibres, keeping the greater value. -/
  | fintMax (d : FReg) (a : FReg) (b : FReg)
  /-- FUNI_A (R288): Unites two fibres, keeping fa's value where both hold the coordinate. -/
  | funiA (d : FReg) (a : FReg) (b : FReg)
  /-- FUNI_B (R288): Unites two fibres, keeping fb's value where both hold the coordinate. -/
  | funiB (d : FReg) (a : FReg) (b : FReg)
  /-- FUNI_ADD (R288): Unites two fibres, adding the values where both hold the coordinate. -/
  | funiAdd (d : FReg) (a : FReg) (b : FReg)
  /-- FUNI_MUL (R288): Unites two fibres, multiplying the values where both hold the coordinate. -/
  | funiMul (d : FReg) (a : FReg) (b : FReg)
  /-- FUNI_MIN (R288): Unites two fibres, keeping the lesser value where both hold the coordinate. -/
  | funiMin (d : FReg) (a : FReg) (b : FReg)
  /-- FUNI_MAX (R288): Unites two fibres, keeping the greater value where both hold the coordinate. -/
  | funiMax (d : FReg) (a : FReg) (b : FReg)
  /-- FMRG (R289): Merges two fibres, keeping every entry. -/
  | fmrg (d : FReg) (a : FReg) (b : FReg)
  /-- FSORT (R290): Sorts a fibre stably by coordinate. -/
  | fsort (d : FReg) (a : FReg)
  /-- FSORT_A (R290): Sorts a fibre and keeps the first value of each run. -/
  | fsortA (d : FReg) (a : FReg)
  /-- FSORT_B (R290): Sorts a fibre and keeps the last value of each run. -/
  | fsortB (d : FReg) (a : FReg)
  /-- FSORT_ADD (R290): Sorts a fibre and sums each run. -/
  | fsortAdd (d : FReg) (a : FReg)
  /-- FSORT_MUL (R290): Sorts a fibre and multiplies each run. -/
  | fsortMul (d : FReg) (a : FReg)
  /-- FSORT_MIN (R290): Sorts a fibre and keeps the minimum of each run. -/
  | fsortMin (d : FReg) (a : FReg)
  /-- FSORT_MAX (R290): Sorts a fibre and keeps the maximum of each run. -/
  | fsortMax (d : FReg) (a : FReg)
  /-- FCPT (R292): Keeps the fibre entries whose mask bit is set. -/
  | fcpt (d : FReg) (a : FReg) (m : MReg)
  /-- FCPT_Z (R292): Keeps the fibre entries whose value is not zero. -/
  | fcptZ (d : FReg) (a : FReg)
  /-- FEXP (R294): Sets VL and writes a dense window of a fibre to a vector. -/
  | fexp (a : FReg) (v : VReg) (s : GReg)
  /-- FFROMV (R293): Builds a fibre from the dense elements of a vector. -/
  | ffromv (d : FReg) (v : VReg) (g : GReg)
  /-- FCRD (R295): Extracts a fibre's coordinates into a vector. -/
  | fcrd (a : FReg) (v : VReg)
  /-- FVAL (R295): Extracts a fibre's values into a vector. -/
  | fval (a : FReg) (v : VReg)
  /-- FCNT (R296): Appends a fibre's FOCC to q6 or q7. -/
  | fcnt (q : Fin 2) (a : FReg)
  /-- MMA_T (R306): Multiplies A by B from a tile store into an accumulator tile. -/
  | mmaT (d : DReg) (a : VReg) (g : GReg)
  /-- MMA_M (R306): Multiplies A by B from memory into an accumulator tile. -/
  | mmaM (d : DReg) (a : VReg) (g : GReg)
  /-- MMAX_T (R307): Multiplies with gathered rows of B from a tile store. -/
  | mmaxT (d : DReg) (a : VReg) (b : VReg) (g : GReg)
  /-- MMAX_M (R307): Multiplies with gathered rows of B from memory. -/
  | mmaxM (d : DReg) (a : VReg) (b : VReg) (g : GReg)
  /-- MMAS_T (R308): Multiplies a 2-of-4 sparse A by B from a tile store. -/
  | mmasT (d : DReg) (a : VReg) (b : VReg) (g : GReg)
  /-- MMAS_M (R308): Multiplies a 2-of-4 sparse A by B from memory. -/
  | mmasM (d : DReg) (a : VReg) (b : VReg) (g : GReg)
  /-- TSHAPE (R301): Negotiates the tile-shape grants TM, TN and TK from the requests. -/
  | tshape (g : GReg)
  /-- ACCZ (R311): Zeroes an accumulator tile. -/
  | accz (d : DReg) (g : GReg)
  /-- ACCLD (R311): Loads an accumulator tile from memory. -/
  | accld (d : DReg) (g : GReg)
  /-- ACCST (R311): Stores an accumulator tile to memory. -/
  | accst (d : DReg) (g : GReg)
  /-- ACCRD (R312): Copies an accumulator tile into a vector register. -/
  | accrd (d : DReg) (a : VReg) (g : GReg)
  /-- ACCWR (R312): Copies a vector register into an accumulator tile. -/
  | accwr (d : DReg) (a : VReg) (g : GReg)
  /-- ACCCVT (R313): Converts an accumulator tile into a vector of VTYPE.ET. -/
  | acccvt (d : DReg) (a : VReg) (g : GReg)
  /-- ACCRED (R314): Combines split-K partial tiles in C64 order into partial 0. -/
  | accred (d : DReg) (g : GReg)
  /-- ACCRD_D (R312): Appends an accumulator descriptor to q6 or q7. -/
  | accrdD (d : DReg) (q : Fin 2)
  /-- ACCWR_D (R312): Writes an accumulator descriptor from a general register. -/
  | accwrD (d : DReg) (g : GReg)
  /-- TLUF (R319): LU-factorises a tile in place with partial pivoting. -/
  | tluf (d : DReg) (a : VReg) (g : GReg)
  /-- TCHOL (R320): Cholesky-factorises the lower triangle of a tile in place. -/
  | tchol (d : DReg) (g : GReg)
  /-- TTRS_L (R321): Solves a lower-triangular system. -/
  | ttrsL (d : DReg) (s : DReg) (g : GReg)
  /-- TTRS_U (R321): Solves an upper-triangular system. -/
  | ttrsU (d : DReg) (s : DReg) (g : GReg)
  /-- TTRS_L1 (R321): Solves a unit lower-triangular system. -/
  | ttrsL1 (d : DReg) (s : DReg) (g : GReg)
  /-- TTRS_U1 (R321): Solves a unit upper-triangular system. -/
  | ttrsU1 (d : DReg) (s : DReg) (g : GReg)
  /-- TTRS_LP (R321): Applies row interchanges, then solves a lower-triangular system. -/
  | ttrsLp (d : DReg) (a : VReg) (s : DReg) (g : GReg)
  /-- TTRS_L1P (R321): Applies row interchanges, then solves a unit lower-triangular system. -/
  | ttrsL1p (d : DReg) (a : VReg) (s : DReg) (g : GReg)
  /-- TRES (R322): Forms the residual B − A×X and appends its infinity norm to q6 or q7. -/
  | tres (d : DReg) (b : DReg) (x : DReg) (g : GReg) (q : Fin 2)
  /-- TITER (R323): Refines a solution iteratively up to a cap, tolerance or pending pre-emption. -/
  | titer (d : Fin 4) (a : VReg) (g : GReg) (q : Fin 2)
  /-- RSTV (R348): Stores a vector to a remote or local destination as one REM operation. -/
  | rstv (s : VReg) (a : GReg) (mk : MReg) (me : Bool) (q : Fin 2) (l : Fin 4)
  /-- RSTV_MC (R348): Stores a vector as several copies at a spacing, accepted or refused whole. -/
  | rstvMc (s : VReg) (a : GReg) (b : GReg) (mk : MReg) (me : Bool) (q : Fin 2) (l : Fin 4)
  /-- RSTV_ADD (R351): Atomically adds vector elements to remote destination elements. -/
  | rstvAdd (s : VReg) (a : GReg) (mk : MReg) (me : Bool) (q : Fin 2)
  /-- BNKEXA (R337): Adds each selected element exactly into a bank slot. -/
  | bnkexa (s : VReg) (a : GReg) (b : VReg) (mk : MReg) (me : Bool)
  /-- CDEP (R367): Deposits part of an expert row to a Caldera slot and queues a status entry. -/
  | cdep (s : VReg) (a : GReg) (b : Fin 16) (q : Fin 2)
  /-- CTAS (R327): Obtains a quad semaphore bit, sleeping while it is held. -/
  | ctas (b : Fin 32)
  /-- CCLR (R327): Clears a quad semaphore bit as a QUAD-scope release. -/
  | cclr (b : Fin 32)
  /-- CRD (R327): Reads a quad data register into gd. -/
  | crd (d : GReg) (r : Fin 16)
  /-- CWR (R327): Writes ga to a quad data register. -/
  | cwr (a : GReg) (r : Fin 16)
  /-- BAR (R329): Releases, then arrives at a barrier of the given scope and sleeps until the episode completes. -/
  | bar (a : GReg) (b : Fin 16) (s : Fin 8)
  /-- FENCE_AV (R141): Orders earlier ACS accesses before later EXS accesses. -/
  | fenceAv
  /-- FENCE_VA (R141): Orders earlier EXS accesses before later ACS accesses. -/
  | fenceVa
  /-- FENCE_VV (R141): Orders earlier EXS accesses before later EXS accesses. -/
  | fenceVv
  /-- FENCE_ALL (R141): Orders all earlier ACS and EXS accesses before all later ones. -/
  | fenceAll
  /-- XFENCE (R143): Orders producer-class operations within a scope before later consumer-class ones. -/
  | xfence (p : Fin 8) (c : Fin 8) (s : Fin 8)
  /-- SIGINC (R332): Atomically adds gb to a 64-bit word. -/
  | siginc (a : GReg) (b : GReg)
  /-- SIGINC_R (R332): Releases at its scope, then atomically adds gb to a 64-bit word. -/
  | sigincR (a : GReg) (b : GReg) (s : Fin 8)
  /-- SIGWAIT (R333): Sleeps until a word reaches a value, then returns it as an acquire. -/
  | sigwait (d : GReg) (a : GReg) (b : GReg) (s : Fin 8)
  /-- TIMERD (R334): Reads TIME into gd. -/
  | timerd (d : GReg)
  /-- WAITT (R334): Sleeps until TIME reaches ga, then returns TIME. -/
  | waitt (d : GReg) (a : GReg)
  /-- BNKOP_ADD (R335): Performs a bank-ALU add and returns the old value. -/
  | bnkopAdd (d : GReg) (a : GReg) (b : GReg)
  /-- BNKOP_MIN (R335): Performs a bank-ALU signed minimum. -/
  | bnkopMin (d : GReg) (a : GReg) (b : GReg)
  /-- BNKOP_MAX (R335): Performs a bank-ALU signed maximum. -/
  | bnkopMax (d : GReg) (a : GReg) (b : GReg)
  /-- BNKOP_MINN (R335): Performs a bank-ALU unsigned minimum. -/
  | bnkopMinn (d : GReg) (a : GReg) (b : GReg)
  /-- BNKOP_MAXN (R335): Performs a bank-ALU unsigned maximum. -/
  | bnkopMaxn (d : GReg) (a : GReg) (b : GReg)
  /-- BNKOP_AND (R335): Performs a bank-ALU AND. -/
  | bnkopAnd (d : GReg) (a : GReg) (b : GReg)
  /-- BNKOP_OR (R335): Performs a bank-ALU OR. -/
  | bnkopOr (d : GReg) (a : GReg) (b : GReg)
  /-- BNKOP_XOR (R335): Performs a bank-ALU XOR. -/
  | bnkopXor (d : GReg) (a : GReg) (b : GReg)
  /-- BNKOP_SWAP (R335): Performs a bank-ALU swap. -/
  | bnkopSwap (d : GReg) (a : GReg) (b : GReg)
  /-- BNKOP_CAS (R335): Performs a bank-ALU compare-and-swap against gd. -/
  | bnkopCas (d : GReg) (a : GReg) (b : GReg)
  /-- BNKOP_FADD32 (R335): Performs an arrival-order FP32 add at the bank. -/
  | bnkopFadd32 (d : GReg) (a : GReg) (b : GReg)
  /-- BNKOP_FADD64 (R335): Performs an arrival-order FP64 add at the bank. -/
  | bnkopFadd64 (d : GReg) (a : GReg) (b : GReg)
  /-- BNKRD_F32 (R336): Reads a 64-byte exact-accumulate slot as FP32. -/
  | bnkrdF32 (d : GReg) (a : GReg)
  /-- BNKRD_BF16 (R336): Reads a 64-byte exact-accumulate slot as BF16. -/
  | bnkrdBf16 (d : GReg) (a : GReg)
  /-- BNKRD_F64 (R336): Reads a 320-byte exact-accumulate slot as FP64. -/
  | bnkrdF64 (d : GReg) (a : GReg)
  /-- BNKRD_F32_Z (R336): Reads a 64-byte slot as FP32 and zeroes it. -/
  | bnkrdF32Z (d : GReg) (a : GReg)
  /-- BNKRD_BF16_Z (R336): Reads a 64-byte slot as BF16 and zeroes it. -/
  | bnkrdBf16Z (d : GReg) (a : GReg)
  /-- BNKRD_F64_Z (R336): Reads a 320-byte slot as FP64 and zeroes it. -/
  | bnkrdF64Z (d : GReg) (a : GReg)
  /-- GSTR (R341): Reads a stream descriptor and starts a Geyser stream. -/
  | gstr (d : GReg) (a : GReg)
  /-- GSTOP (R345): Ends a numbered Geyser stream. -/
  | gstop (a : GReg)
  /-- COPY (R347): Copies bytes from memory to memory. -/
  | copy (d : GReg) (a : GReg) (b : GReg)
  /-- COPY_MT (R347): Copies bytes from memory to a tile store. -/
  | copyMt (d : GReg) (a : GReg) (b : GReg)
  /-- COPY_TM (R347): Copies bytes from a tile store to memory. -/
  | copyTm (d : GReg) (a : GReg) (b : GReg)
  /-- COPY_TT (R347): Copies bytes from a tile store to a tile store. -/
  | copyTt (d : GReg) (a : GReg) (b : GReg)
  /-- CPLW (R352): Sleeps until operations up to n on a path are complete. -/
  | cplw (p : Fin 8) (a : GReg)
  /-- ONCPL (R353): Arms a completion upcall for operation n of a path. -/
  | oncpl (p : Fin 8) (a : GReg) (b : GReg)
  /-- UPRET (R354): Leaves an upcall handler and continues at UPRA. -/
  | upret
  /-- RESID (R355): Fills the lines of a range into their memory-side caches. -/
  | resid (a : GReg) (b : GReg)
  /-- DEMOTE (R356): Issues a DEMOTE of a chain to all sixteen stacks. -/
  | demote (a : GReg)
  /-- DISCARD (R357): Marks whole pages dead and drops their lines without write-back. -/
  | discard (a : GReg) (b : GReg)
  /-- PGHINT (R358): Raises the frame-use class of the frames of a range. -/
  | pghint (c : Fin 4) (a : GReg) (b : GReg)
  /-- GATH (R346): Hands a Fumarole gather request to the entry stack, resynchronising the sides. -/
  | gath (d : GReg) (a : GReg) (b : VReg) (mk : MReg) (me : Bool) (x : Fin 2) (l : Fin 16)
  /-- CCFG (R365): Configures, replaces or removes a Caldera. -/
  | ccfg (d : GReg) (a : GReg) (b : GReg)
  /-- CAP (R360): Claims the next capacity position of an expert, or records a refusal. -/
  | cap (d : GReg) (a : GReg) (b : GReg)
  /-- CAP_P (R360): Claims a pre-counted capacity position. -/
  | capP (d : GReg) (a : GReg) (b : GReg)
  /-- CSLOT (R366): Allocates the lowest free Caldera slot for a token and returns a ticket. -/
  | cslot (d : GReg) (a : GReg) (b : GReg)
  /-- CSLOT_FREE (R366): Frees a taken slot and advances its generation. -/
  | cslotFree (d : GReg) (a : GReg) (b : GReg)
  /-- CTAKE (R370): Takes a released Caldera slot, acquiring towards its deposits. -/
  | ctake (d : GReg) (a : GReg)
  /-- CSTAT (R371): Reads one Caldera counter. -/
  | cstat (d : GReg) (a : GReg) (c : Fin 32)
  /-- FADD (R216): Adds two scalar floating-point values of type T. -/
  | fadd (d : GReg) (a : GReg) (b : GReg) (r : Fin 8) (t : Fin 8)
  /-- FSUB (R216): Subtracts two scalar floating-point values. -/
  | fsub (d : GReg) (a : GReg) (b : GReg) (r : Fin 8) (t : Fin 8)
  /-- FMUL (R216): Multiplies two scalar floating-point values. -/
  | fmul (d : GReg) (a : GReg) (b : GReg) (r : Fin 8) (t : Fin 8)
  /-- FFMA (R216): Computes ga×gb+gd with one rounding. -/
  | ffma (d : GReg) (a : GReg) (b : GReg) (r : Fin 8) (t : Fin 8)
  /-- FDIV (R216): Divides two scalar floating-point values. -/
  | fdiv (d : GReg) (a : GReg) (b : GReg) (r : Fin 8) (t : Fin 8)
  /-- FSQRT (R216): Takes the scalar square root. -/
  | fsqrt (d : GReg) (a : GReg) (r : Fin 8) (t : Fin 8)
  /-- FCMP (R217): Writes the 4-bit relation of two scalar floating-point values. -/
  | fcmp (d : GReg) (a : GReg) (b : GReg) (t : Fin 8)
  /-- FCVT (R218): Converts a scalar between floating-point and integer types. -/
  | fcvt (d : GReg) (a : GReg) (s : Fin 8) (r : Fin 8) (t : Fin 8)
  /-- MFS (R229): Reads any assigned special register into gd at system privilege. -/
  | mfs (d : GReg) (n : Fin 1024)
  /-- MTS (R229): Writes any assigned special register at system privilege. -/
  | mts (a : GReg) (n : Fin 1024)
  /-- TRET (R230): Returns from a trap handler to TPC, restoring privilege, interrupt and loop state. -/
  | tret
  /-- LAUNCH (R233): Reads a launch descriptor and accepts or refuses a new launch. -/
  | launch (d : GReg) (a : GReg)
  /-- LAUNCH_ABORT (R378): A descriptor with OP = 1 stops every strand of the target launch and retires it FAILED. -/
  | launchAbort (d : GReg) (a : GReg)
  /-- PREEMPT (R400): Stops a strand precisely and waits until it has stopped. -/
  | preempt (d : GReg) (a : GReg)
  /-- CTXSAVE (R232): Writes the portable save layout of a stopped strand and frees its context. -/
  | ctxsave (d : GReg) (a : GReg) (b : GReg)
  /-- CTXLOAD (R404): Loads a portable layout into a free context, regranting, and makes the strand runnable at RESUME. -/
  | ctxload (d : GReg) (a : GReg) (b : GReg)
  /-- FRESTORE (R399): Resumes a stopped strand in place, or from a fault frame. -/
  | frestore (d : GReg) (a : GReg) (b : GReg)
  /-- XLINV (R234): Invalidates a page's translation-cache entries and L1 lines within a scope, and waits for completion. -/
  | xlinv (a : GReg) (b : GReg) (s : Fin 8)
  /-- IDLE (R235): Puts the issuer to sleep until an interrupt, an upcall or a pre-emption. -/
  | idle
  /-- SETPRI (R233): Sets the priority of a launch that the issuing module issued. -/
  | setpri (d : GReg) (a : GReg) (b : GReg)
  /-- LGRETIRE (R236): Retires a lane group of a core and re-forms its partitions. -/
  | lgretire (d : GReg) (a : GReg) (b : GReg)
  /-- SBLK (R177): Runs a Sirmal block over its streams in linear iteration order. -/
  | sblk (count : Fin 32) (len : Fin 32)
  /-- CC_INTERRUPT_ENTRY (R424): A control complex core with IE = 1 takes an interrupt between instructions. -/
  | ccInterruptEntry (core : Fin 32)
  /-- TRAP_NOTICE_DELIVER (R427): A die writes a held trap notice into the notice ring and raises interrupt source 0. -/
  | trapNoticeDeliver (die : Die)
  /-- NQPTR_CONS_WRITE (R427): The supervisor advances CONS, freeing ring entries for held notices. -/
  | nqptrConsWrite (cons : BitVec 10)
  /-- NQCTL_WRITE (R427): Sets the ring base, the interrupt core and the enable that lets dies deliver notices. -/
  | nqctlWrite (v : Word)
  /-- PAGE_WALK (R29): A walker reads the page-table levels for a translation-cache miss and installs the entry or faults. -/
  | pageWalk (ctx : Ctx) (va : Word)
  /-- MSC_FILL (R58): A DRAM line is filled into the memory-side cache at its priority class, evicting a victim. -/
  | mscFill (stack : Die) (line : Nat) (chain : BitVec 8) (uo : Bool)
  /-- REFRESH_WINDOW_END (R67): At the end of a 32 ms window, counts reset, pinned lines are released and the reservation empties. -/
  | refreshWindowEnd (stack : Die)
  /-- DEMOTE_APPLY (R61): A stack increments a chain's generation, waiting for a running scrub of that chain first. -/
  | demoteApply (stack : Die)
  /-- DEMOTE_SCRUB_END (R62): A stack finishes scrubbing stale chain identifiers after a DEMOTE. -/
  | demoteScrubEnd (stack : Die) (chain : BitVec 8)
  /-- SCFG_CARVE_WRITE (R74): Records a requested carve-out change. -/
  | scfgCarveWrite (stack : Die) (carve : Fin 8)
  /-- CARVE_CHANGE (R74): Once no launch is resident, the base die writes back the changed ways, zeroes the new resident memory, releases pins and sets ACT. -/
  | carveChange (stack : Die)
  /-- HRCTL_WRITE (R76): Sets hot-row capture control, effective for the next activation. -/
  | hrctlWrite (stack : Die) (v : Word)
  /-- FUMAROLE_FORWARD_RECEIVE (R70): A stack receives a forwarded gather element, reads it at its cache and returns it along the ring. -/
  | fumaroleForwardReceive (stack : Die)
  /-- FUMAROLE_RETURN_RECEIVE (R70): Returned gather data arrives at or passes through a stack on the ring. -/
  | fumaroleReturnReceive (stack : Die)
  /-- GEYSER_ENTRY_DELIVER (R342): A Geyser stream places a queue entry or writes its elements once they arrive and room exists. -/
  | geyserEntryDeliver (ctx : Ctx) (n : BitVec 32)
  /-- PATH_OPERATION_COMPLETE (R131): An engine or path operation completes and DONE advances past complete predecessors. -/
  | pathOperationComplete (ctx : Ctx) (path : Fin 6) (n : BitVec 32)
  /-- UPCALL_ENTRY (R133): The access side takes a pending upcall, swaps the shadow registers and enters the handler. -/
  | upcallEntry (ctx : Ctx)
  /-- QUEUE_WAKE (R165): A side sleeping on a full or empty queue wakes when the queue changes. -/
  | queueWake (ctx : Ctx)
  /-- QUEUE_DEADLOCK (R165): Both sides of a strand sleep on each other's queues, and the watchdog trap is taken. -/
  | queueDeadlock (ctx : Ctx)
  /-- SEMAPHORE_GRANT (R128): A strand sleeping in CTAS obtains the bit as a QUAD-scope acquire. -/
  | semaphoreGrant (quad : Fin 1024) (bit : Fin 32)
  /-- SIGWAIT_WAKE (R333): A sleeping SIGWAIT finds its condition met and returns as an acquire. -/
  | sigwaitWake (who : Agent)
  /-- BARRIER_EPISODE_COMPLETE (R329): The last arrival completes an episode; every participant acquires and continues. -/
  | barrierEpisodeComplete (scope : Fin 5) (inst : Nat) (bar : Fin 16) (job : BitVec 16)
  /-- WAITT_WAKE (R334): A sleeping WAITT wakes once TIME reaches its target. -/
  | waittWake (who : Agent)
  /-- CPLW_WAKE (R352): A sleeping CPLW returns once its wait is satisfied. -/
  | cplwWake (ctx : Ctx)
  /-- IDLE_WAKE (R235): An idle device strand wakes on a pending upcall or a pre-emption. -/
  | idleWake (ctx : Ctx)
  /-- RSTV_OUTCOME (R350): An RSTV's status entry is filled once the destinations accept or refuse it. -/
  | rstvOutcome (ctx : Ctx) (n : BitVec 32) (refused : Option (Fin 64))
  /-- REMOTE_STORE_PACKET (R350): A destination hub receives a remote store train, reserving buffer or refusing it. -/
  | remoteStorePacket (src : ModNum) (op : BitVec 32) (writes : List (Nat × Byte))
  /-- REMOTE_ADD_PACKET (R351): A destination receives a remote add and performs atomic adds at the elements. -/
  | remoteAddPacket (src : ModNum) (op : BitVec 32) (width : Nat) (adds : List (Nat × Word))
  /-- SIGNAL_PACKET (R332): A destination receives a SIGINC and performs the atomic add, as a release if marked. -/
  | signalPacket (src : ModNum) (op : BitVec 32) (addr : Nat) (addend : Word) (release : Bool)
  /-- TOKEN_ROW_PACKET (R367): A remote CDEP arrives at the Caldera's module. -/
  | tokenRowPacket (src : ModNum) (op : BitVec 32) (addr : Nat) (ticket : Word) (gate : Word) (row : List (BitVec 16))
  /-- ACK_PACKET (R350): An acknowledgement or refusal returns to the issuing module for a REM operation. -/
  | ackPacket (ctx : Ctx) (path : Fin 6) (n : BitVec 32) (code : Word)
  /-- REMOTE_READ_PACKET (R43): A module receives a remote read and returns read data. -/
  | remoteReadPacket (src : ModNum) (addr : Nat) (len : Nat)
  /-- READ_DATA_PACKET (R43): Read data for a remote access arrives at the requesting module. -/
  | readDataPacket (src : ModNum) (addr : Nat) (bytes : List Byte)
  /-- REMOTE_BANK_REQUEST (R372): A remote Caldera or capacity request is accepted at the target bank after that cycle's local requests. -/
  | remoteBankRequest (src : ModNum) (kind : Fin 6) (addr : Nat) (operand : Word)
  /-- REMOTE_BANK_REPLY (R372): The result of a remote bank request returns to the issuer's gd. -/
  | remoteBankReply (ctx : Ctx) (v : Word)
  /-- RD_WRITE_FAULT_REPORT (R49): The home receives a write fault on a read-duplicate page and collapses, splits or queues it. -/
  | rdWriteFaultReport (page : Nat) (writer : ModNum) (split : Bool)
  /-- RD_SPLIT_RECEIVE (R50): A holder replaces its 2 MiB leaf with 32 leaves of 64 KiB, performs XLINV and sends ACK. -/
  | rdSplitReceive (home : ModNum) (page : Nat) (ptbase : Word) (va : Word) (table : Nat)
  /-- RD_INV_RECEIVE (R48): A holder invalidates its leaf, performs XLINV and sends ACK. -/
  | rdInvReceive (home : ModNum) (page : Nat) (ptbase : Word) (va : Word)
  /-- RD_ACK_RECEIVE (R49): The home counts an ACK; the last one completes a split, collapse or transfer. -/
  | rdAckReceive (page : Nat) (holder : ModNum)
  /-- RD_RELEASED_RETIRED (R49): The owner reports its released write retired, and the home starts a transfer to a queued writer. -/
  | rdReleasedRetired (page : Nat) (writer : ModNum)
  /-- RD_FORMER_HOLDER_FAULT (R49): A former holder's translation fault is resolved by pointing its leaf at the owner's frame. -/
  | rdFormerHolderFault (page : Nat) (holder : ModNum) (ptbase : Word) (va : Word)
  /-- CALDERA_DEPOSIT (R367): The Caldera takes a deposit whole at its bank and queues a status code. -/
  | calderaDeposit (die : Die)
  /-- CALDERA_TIMEOUT_RELEASE (R368): A slot's time-out expires; it is combined, released and counted in NTO. -/
  | calderaTimeoutRelease (die : Die) (base : Nat) (slot : Fin 65536)
  /-- CALDERA_TIMEOUT_TRAP (R396): The CCFG strand takes a pending Caldera time-out trap at its next access-side boundary. -/
  | calderaTimeoutTrap (ctx : Ctx)
  /-- LAUNCH_ENTER_DISPATCH (R376): A launch whose predecessors have retired enters its priority queue on each die. -/
  | launchEnterDispatch (issuer : ModNum) (launch : BitVec 32)
  /-- DISPATCH_PLACE (R380): The dispatch unit places a head share whole on free contexts. -/
  | dispatchPlace (die : Die)
  /-- DISPATCH_PREEMPT (R381): The dispatch unit pre-empts lower-priority shares to make room for the head share. -/
  | dispatchPreempt (die : Die)
  /-- QUANTUM_EXPIRY (R381): A strand's 100 µs quantum expires, and the unit re-examines the head share. -/
  | quantumExpiry (ctx : Ctx)
  /-- LAUNCH_RETIRE (R376): A launch retires with its outcome, as a POD-scope release. -/
  | launchRetire (issuer : ModNum) (launch : BitVec 32)
  /-- UNCORRECTABLE_ERROR (R412): An uncorrectable error is detected and retried once by the structure's action. -/
  | uncorrectableError (struct : BitVec 8) (place : BitVec 32) (addr : Nat) (ctx : Option Ctx) (elem : BitVec 16)
  /-- ERROR_RETRY_RESULT (R412): The retry completes; the event is logged transient or becomes lasting. -/
  | errorRetryResult (ok : Bool)
  /-- LINK_CRC_RESEND (R411): A flit with a CRC error is resent from the link's replay buffer. -/
  | linkCrcResend (port : BitVec 8)
  /-- LINK_RETRAIN (R416): A link retrains with one fewer lane, or is disabled, and resends the flit. -/
  | linkRetrain (port : BitVec 8) (ok : Bool)
  /-- TUFF_STREAM_SEND (R419): The hub sends unsent Tuff entries to the collector in UDP datagrams. -/
  | tuffStreamSend
  /-- TUFFCTL_FRZ_SET (R420): Writing 1 to FRZ freezes the record as a fatal event. -/
  | tuffctlFrzSet
  /-- TUFFCTL_FRZ_CLEAR (R421): Writing 0 to FRZ unfreezes the record and lets a waiting warm reset start. -/
  | tuffctlFrzClear
  /-- TUFFCTL_STREAM_WRITE (R419): Enables or disables sending entries over the management port. -/
  | tuffctlStreamWrite (on : Bool)
  /-- TUFFPUT_COMMIT (R421): A write to the last TUFFPUT register commits a supervisor entry with a new SEQ and TIME. -/
  | tuffputCommit (w3 : Word)
  /-- MEXT_EXTEND (R438): The eighth store to MEXT extends the measurement register. -/
  | mextExtend (w : Word)
  /-- ATTEST_REQUEST (R438): The hub fills a request with M, the count and a signature by the identity key. -/
  | attestRequest (va : Word)
  /-- MODULE_RESET (R435): Power-on or the reset input resets the whole module and runs the boot ROM. -/
  | moduleReset
  /-- TFTP_IMAGE_RECEIVE (R437): The boot ROM receives an image by TFTP, checks it, and writes and boots it or discards it. -/
  | tftpImageReceive (image : List Byte)
  /-- RSTCTL_WARM_WRITE (R435): Writing 1 to WARM requests a warm reset of the compute dies. -/
  | rstctlWarmWrite
  /-- WARM_RESET (R435): Once FRZ is clear, the hub aborts resident launches, writes back the caches and resets the compute dies. -/
  | warmReset
  /-- TIMECTL_GM_WRITE (R432): Marks the module as grandmaster and starts the 1 s release timer. -/
  | timectlGmWrite (v : Bool)
  /-- TIMECTL_REL_WRITE (R432): Writing 1 to REL releases the compute dies at once without a lock. -/
  | timectlRelWrite
  /-- GM_RELEASE_TIMEOUT (R432): One second after GM is set, the grandmaster releases its compute dies. -/
  | gmReleaseTimeout
  /-- TIME_EVENT_MESSAGE (R432): A timestamped time packet updates the module's offset estimate and slews or steps TIME. -/
  | timeEventMessage (offset : BitVec 32) (adjust : Int)
  /-- TIME_LOCK_CHANGE (R433): LOCK changes with the offset estimate and raises interrupt source 3. -/
  | timeLockChange
  /-- PWRCTL_REQ_WRITE (R434): A write of REQ starts a change of power mode on all dies. -/
  | pwrctlReqWrite (req : Fin 4)
  /-- POWER_MODE_CHANGE_END (R434): The held clocks restart at the new rate, and interrupt source 4 is raised. -/
  | powerModeChangeEnd
  /-- THERMAL_THROTTLE (R434): A die reaching 100 °C lowers the module to the Efficient rate and sets THR. -/
  | thermalThrottle
  /-- THERMAL_UNTHROTTLE (R434): With every die at or below 95 °C, the mode's rate is restored. -/
  | thermalUnthrottle
  /-- THERMAL_POWER_OFF (R434): At 115 °C the carrier removes power from the module. -/
  | thermalPowerOff
  /-- PCIE_INBOUND_DMA (R428): A root port performs an inbound DMA request at its point of coherence or completes it as Unsupported Request. -/
  | pcieInboundDma (port : Fin 2) (addr : Nat) (len : Nat) (write : Option (List Byte)) (msix : Option (BitVec 16))
  /-- REGISTER_WRITE (R426): A write to a system-space register without a row of its own. -/
  | registerWrite (addr : Nat) (v : Word)
  /-- POWER_LOSS (R417): The module loses its supply, and everything but the collector's copy of the Tuff record is lost. -/
  | powerLoss
  /-- MANAGEMENT_PORT_LINK_CHANGE (R419): The management port goes down or comes back up, holding or resuming the Tuff stream. -/
  | managementPortLinkChange (up : Bool)
  /-- MANAGEMENT_PORT_RECEIVE (R424): A frame arrives at the management port after boot and raises interrupt source 5. -/
  | managementPortReceive (frame : List Byte)
  /-- BANK_RESULT_RETURN (R336): The value of a local BNKRD, CAP, CAP.P, CSLOT, CSLOT.FREE, CTAKE or CSTAT returns from the bank into gd. -/
  | bankResultReturn (ctx : Ctx)
deriving DecidableEq, Repr

end Sys2Proof
end

