-- ==== Sys2Proof/WellFormed.lean ====
section
/-! DEFINITION. Which operand values of each form the encoding admits: the operand modifiers of R188, register pairs and
quads, literal ranges, reserved scopes and rounding modes.  A word whose operands break one takes the
illegal-instruction trap (R189, row 4). -/

namespace Sys2Proof

/-- The modifier rule of R188.  `va`, `vb` and `sb` say that the form has that source and its field is zero; `sp` that
R174 lists the form. -/
def modOk (me : Bool) (mk : MReg) (va vb sb sp : Bool) : Bool :=
  me || mk.val == 0 || (va && (mk.val == 1 || mk.val == 2)) || (vb && (mk.val == 3 || mk.val == 4)) ||
    (sb && decide (8 ≤ mk.val) && decide (mk.val ≤ 11)) || (sp && mk.val == 15)

/-- Class X of R239: every non-packed type of R192. -/
def classX (t : Fin 32) : Bool := decide (t.val ≤ 5) || (decide (8 ≤ t.val) && decide (t.val ≤ 16))

/-- Class P of R239: the packed-block types 0x16-0x1C. -/
def classP (t : Fin 32) : Bool := decide (22 ≤ t.val) && decide (t.val ≤ 28)

/-- A register pair of R279 and R310: an even first register from 2 to 30. -/
def pairOk (g : GReg) : Bool := g.val % 2 == 0 && g.val != 0

/-- Whether the operands of an instruction are ones its encoding admits (R186, R188, R189 row 4). -/
def Instr.wf (i : Instr) : Bool :=
  match i with
  | .add _ _ _ => true
  | .sub _ _ _ => true
  | .mul _ _ _ => true
  | .mulh _ _ _ => true
  | .mulhn _ _ _ => true
  | .div _ _ _ => true
  | .divn _ _ _ => true
  | .rem _ _ _ => true
  | .remn _ _ _ => true
  | .and _ _ _ => true
  | .or _ _ _ => true
  | .xor _ _ _ => true
  | .shl _ _ _ => true
  | .shr _ _ _ => true
  | .sra _ _ _ => true
  | .slt _ _ _ => true
  | .sltn _ _ _ => true
  | .min _ _ _ => true
  | .max _ _ _ => true
  | .clz _ _ => true
  | .ctz _ _ => true
  | .popc _ _ => true
  | .ldl _ _ => true
  | .stc _ _ _ => true
  | .addi _ _ _ => true
  | .andi _ _ _ => true
  | .ori _ _ _ => true
  | .xori _ _ _ => true
  | .shli _ _ _ => true
  | .shri _ _ _ => true
  | .srai _ _ _ => true
  | .slti _ _ _ => true
  | .lui _ _ => true
  | .addpc _ _ => true
  | .ldB _ _ _ => true
  | .ldH _ _ _ => true
  | .ldW _ _ _ => true
  | .ldD _ _ _ => true
  | .ldBN _ _ _ => true
  | .ldHN _ _ _ => true
  | .ldWN _ _ _ => true
  | .stB _ _ _ => true
  | .stH _ _ _ => true
  | .stW _ _ _ => true
  | .stD _ _ _ => true
  | .srd _ _ => true
  | .swr _ _ => true
  | .beq _ _ _ => true
  | .bne _ _ _ => true
  | .blt _ _ _ => true
  | .bge _ _ _ => true
  | .bltn _ _ _ => true
  | .bgen _ _ _ => true
  | .jal _ => true
  | .jalr _ _ => true
  | .loop _ _ _ => true
  | .vrep _ _ => true
  | .yield => true
  | .sexit => true
  | .scall _ _ => true
  | .brk _ _ => true
  | .qw q _ => decide (q.val < 4)
  | .qr _ q => (q.val == 6 || q.val == 7)
  | .qpeek _ q => (q.val == 6 || q.val == 7)
  | .qstat _ q => decide (q.val < 8)
  | .vadd _ a b mk me => modOk me mk (a.val == 0) (b.val == 0) false true
  | .vsub _ a b mk me => modOk me mk (a.val == 0) (b.val == 0) false true
  | .vmul _ a b mk me => modOk me mk (a.val == 0) (b.val == 0) false true
  | .vdiv _ a b mk me => modOk me mk (a.val == 0) (b.val == 0) false true
  | .vmin _ a b mk me => modOk me mk (a.val == 0) (b.val == 0) false true
  | .vmax _ a b mk me => modOk me mk (a.val == 0) (b.val == 0) false true
  | .vand _ a b mk me => modOk me mk (a.val == 0) (b.val == 0) false true
  | .vor _ a b mk me => modOk me mk (a.val == 0) (b.val == 0) false true
  | .vxor _ a b mk me => modOk me mk (a.val == 0) (b.val == 0) false true
  | .vshl _ a b mk me => modOk me mk (a.val == 0) (b.val == 0) false true
  | .vshr _ a b mk me => modOk me mk (a.val == 0) (b.val == 0) false true
  | .vsra _ a b mk me => modOk me mk (a.val == 0) (b.val == 0) false true
  | .vwmul _ a b mk me => modOk me mk (a.val == 0) (b.val == 0) false true
  | .vwadd _ a b mk me => modOk me mk (a.val == 0) (b.val == 0) false true
  | .vfma _ a b mk me => modOk me mk (a.val == 0) (b.val == 0) false true
  | .vfms _ a b mk me => modOk me mk (a.val == 0) (b.val == 0) false true
  | .vfnma _ a b mk me => modOk me mk (a.val == 0) (b.val == 0) false true
  | .vsqrt _ a mk me => modOk me mk (a.val == 0) false false true
  | .vrcp _ a mk me => modOk me mk (a.val == 0) false false true
  | .vabs _ a mk me => modOk me mk (a.val == 0) false false true
  | .vneg _ a mk me => modOk me mk (a.val == 0) false false true
  | .vmov _ a mk me => modOk me mk (a.val == 0) false false true
  | .vclass _ a mk me => modOk me mk (a.val == 0) false false true
  | .viota _ mk me => modOk me mk false false false true
  | .vsplat _ b mk me => modOk me mk false false (b.val == 0) true
  | .vmovQ _ _ _ => true
  | .vnarrow _ a mk me => modOk me mk (a.val == 0) false false true
  | .vaddS _ a b mk me => modOk me mk (a.val == 0) false (b.val == 0) true
  | .vsubS _ a b mk me => modOk me mk (a.val == 0) false (b.val == 0) true
  | .vmulS _ a b mk me => modOk me mk (a.val == 0) false (b.val == 0) true
  | .vdivS _ a b mk me => modOk me mk (a.val == 0) false (b.val == 0) true
  | .vminS _ a b mk me => modOk me mk (a.val == 0) false (b.val == 0) true
  | .vmaxS _ a b mk me => modOk me mk (a.val == 0) false (b.val == 0) true
  | .vandS _ a b mk me => modOk me mk (a.val == 0) false (b.val == 0) true
  | .vorS _ a b mk me => modOk me mk (a.val == 0) false (b.val == 0) true
  | .vxorS _ a b mk me => modOk me mk (a.val == 0) false (b.val == 0) true
  | .vshlS _ a b mk me => modOk me mk (a.val == 0) false (b.val == 0) true
  | .vshrS _ a b mk me => modOk me mk (a.val == 0) false (b.val == 0) true
  | .vsraS _ a b mk me => modOk me mk (a.val == 0) false (b.val == 0) true
  | .vwmulS _ a b mk me => modOk me mk (a.val == 0) false (b.val == 0) true
  | .vwaddS _ a b mk me => modOk me mk (a.val == 0) false (b.val == 0) true
  | .vfmaS _ a b mk me => modOk me mk (a.val == 0) false (b.val == 0) true
  | .vfmsS _ a b mk me => modOk me mk (a.val == 0) false (b.val == 0) true
  | .vfnmaS _ a b mk me => modOk me mk (a.val == 0) false (b.val == 0) true
  | .vcvt _ a t mk me => modOk me mk (a.val == 0) false false true && classX t
  | .vqnt _ a t mk => modOk false mk (a.val == 0) false false true && classP t
  | .vdqnt _ a t mk => modOk false mk (a.val == 0) false false true && classP t
  | .vsat _ a t mk me => modOk me mk (a.val == 0) false false true && classX t
  | .vcmp _ a b mk me c => modOk me mk (a.val == 0) (b.val == 0) false true && decide (c.val ≤ 6)
  | .vcmpS _ a b mk me c => modOk me mk (a.val == 0) false (b.val == 0) true && decide (c.val ≤ 6)
  | .vsel _ _ _ _ => true
  | .vmerge _ _ _ => true
  | .vld _ _ mk me => modOk me mk false false false true
  | .vlds _ _ _ mk me => modOk me mk false false false true
  | .vldx _ _ _ mk me => modOk me mk false false false true
  | .vldxD _ _ _ mk me => modOk me mk false false false true
  | .vldq _ _ mk => modOk false mk false false false true
  | .vldl _ _ _ mk me => modOk me mk false false false false
  | .vldlD _ _ _ mk me => modOk me mk false false false false
  | .vldz _ _ b => b.val != 0
  | .vpf k _ b mk me => modOk me mk false false false false && (k.val != 0 || b.val == 0)
  | .vst _ _ mk me => modOk me mk false false false false
  | .vsts _ _ _ mk me => modOk me mk false false false false
  | .vstx _ _ _ mk me => modOk me mk false false false false
  | .vstxD _ _ _ mk me => modOk me mk false false false false
  | .vstc _ _ mk me => modOk me mk false false false false
  | .vscc _ _ _ _ => true
  | .vsccD _ _ _ _ => true
  | .vsetl _ _ _ => true
  | .vsetmf _ => true
  | .vsplit _ _ => true
  | .vfuse => true
  | .mpopv _ _ mk me => modOk me mk false false false false
  | .mand _ _ _ => true
  | .mor _ _ _ => true
  | .mxor _ _ _ => true
  | .mnot _ _ => true
  | .mset _ => true
  | .mclr _ => true
  | .mfromfm _ => true
  | .mcnt _ _ => true
  | .many _ _ => true
  | .mfirst _ _ => true
  | .vslideup _ a b mk me => modOk me mk (a.val == 0) false (b.val == 0) false
  | .vslidedn _ a b mk me => modOk me mk (a.val == 0) false (b.val == 0) false
  | .vshuf _ a b mk me => modOk me mk (a.val == 0) (b.val == 0) false false
  | .vrev _ a mk me => modOk me mk (a.val == 0) false false false
  | .vcompress _ _ _ => true
  | .vexpand _ _ _ => true
  | .vscan _ a mk me => modOk me mk (a.val == 0) false false false
  | .vscanMin _ a mk me => modOk me mk (a.val == 0) false false false
  | .vscanMax _ a mk me => modOk me mk (a.val == 0) false false false
  | .vredsum _ a b mk me => modOk me mk (a.val == 0) (b.val == 0) false false
  | .vredsumF _ a b mk me => modOk me mk (a.val == 0) (b.val == 0) false false
  | .vredmax _ a b mk me => modOk me mk (a.val == 0) (b.val == 0) false false
  | .vredmin _ a b mk me => modOk me mk (a.val == 0) (b.val == 0) false false
  | .vredsumQ _ a b mk me => modOk me mk (a.val == 0) (b.val == 0) false false
  | .vredsumFQ _ a b mk me => modOk me mk (a.val == 0) (b.val == 0) false false
  | .vredmaxQ _ a b mk me => modOk me mk (a.val == 0) (b.val == 0) false false
  | .vredminQ _ a b mk me => modOk me mk (a.val == 0) (b.val == 0) false false
  | .vfold _ a mk me => modOk me mk (a.val == 0) false false false
  | .vfoldFin _ _ => true
  | .vfoldClr _ => true
  | .vfoldFinQ _ _ => true
  | .vconflict _ a mk me => modOk me mk (a.val == 0) false false false
  | .fld _ s => pairOk s
  | .fst _ s => pairOk s
  | .fldlv _ s => (s.val % 4 == 0 && s.val != 0)
  | .fscat _ _ => true
  | .fintA _ _ _ => true
  | .fintB _ _ _ => true
  | .fintAdd _ _ _ => true
  | .fintMul _ _ _ => true
  | .fintMin _ _ _ => true
  | .fintMax _ _ _ => true
  | .funiA d a b => (d != a && d != b)
  | .funiB d a b => (d != a && d != b)
  | .funiAdd d a b => (d != a && d != b)
  | .funiMul d a b => (d != a && d != b)
  | .funiMin d a b => (d != a && d != b)
  | .funiMax d a b => (d != a && d != b)
  | .fmrg d a b => (d != a && d != b)
  | .fsort _ _ => true
  | .fsortA _ _ => true
  | .fsortB _ _ => true
  | .fsortAdd _ _ => true
  | .fsortMul _ _ => true
  | .fsortMin _ _ => true
  | .fsortMax _ _ => true
  | .fcpt _ _ _ => true
  | .fcptZ _ _ => true
  | .fexp _ _ s => pairOk s
  | .ffromv _ _ _ => true
  | .fcrd _ _ => true
  | .fval _ _ => true
  | .fcnt _ _ => true
  | .mmaT _ a _ => a.val % 8 == 0
  | .mmaM _ a _ => a.val % 8 == 0
  | .mmaxT _ a _ _ => a.val % 8 == 0
  | .mmaxM _ a _ _ => a.val % 8 == 0
  | .mmasT _ a _ _ => a.val % 8 == 0
  | .mmasM _ a _ _ => a.val % 8 == 0
  | .tshape g => (decide (1 ≤ g.val) && decide (g.val ≤ 29))
  | .accz _ _ => true
  | .accld _ g => pairOk g
  | .accst _ g => pairOk g
  | .accrd _ _ _ => true
  | .accwr _ _ _ => true
  | .acccvt _ _ _ => true
  | .accred _ _ => true
  | .accrdD _ _ => true
  | .accwrD _ _ => true
  | .tluf _ a _ => a.val % 2 == 0
  | .tchol _ _ => true
  | .ttrsL _ _ _ => true
  | .ttrsU _ _ _ => true
  | .ttrsL1 _ _ _ => true
  | .ttrsU1 _ _ _ => true
  | .ttrsLp _ a _ _ => a.val % 2 == 0
  | .ttrsL1p _ a _ _ => a.val % 2 == 0
  | .tres _ _ _ _ _ => true
  | .titer _ a g _ => a.val % 2 == 0 && pairOk g
  | .ctas _ => true
  | .cclr _ => true
  | .crd _ _ => true
  | .cwr _ _ => true
  | .bar _ _ s => decide (s.val ≤ 4)
  | .fenceAv => true
  | .fenceVa => true
  | .fenceVv => true
  | .fenceAll => true
  | .xfence _ _ s => decide (s.val ≤ 4)
  | .siginc _ _ => true
  | .sigincR _ _ s => decide (s.val ≤ 4)
  | .sigwait _ _ _ s => decide (s.val ≤ 4)
  | .timerd _ => true
  | .waitt _ _ => true
  | .bnkopAdd _ _ _ => true
  | .bnkopMin _ _ _ => true
  | .bnkopMax _ _ _ => true
  | .bnkopMinn _ _ _ => true
  | .bnkopMaxn _ _ _ => true
  | .bnkopAnd _ _ _ => true
  | .bnkopOr _ _ _ => true
  | .bnkopXor _ _ _ => true
  | .bnkopSwap _ _ _ => true
  | .bnkopCas _ _ _ => true
  | .bnkopFadd32 _ _ _ => true
  | .bnkopFadd64 _ _ _ => true
  | .bnkrdF32 _ _ => true
  | .bnkrdBf16 _ _ => true
  | .bnkrdF64 _ _ => true
  | .bnkrdF32Z _ _ => true
  | .bnkrdBf16Z _ _ => true
  | .bnkrdF64Z _ _ => true
  | .gstr _ _ => true
  | .gstop _ => true
  | .copy _ _ _ => true
  | .copyMt _ _ _ => true
  | .copyTm _ _ _ => true
  | .copyTt _ _ _ => true
  | .cplw p _ => decide (p.val ≤ 5)
  | .oncpl p _ _ => decide (p.val ≤ 5)
  | .upret => true
  | .resid _ _ => true
  | .demote _ => true
  | .discard _ _ => true
  | .pghint c _ _ => c.val != 0
  | .gath _ _ _ mk me _ l => modOk me mk false false false false && decide (l.val ≤ 8)
  | .rstv _ _ mk me _ l => modOk me mk false false false false && decide (l.val ≤ 2)
  | .rstvMc _ _ b mk me _ l => modOk me mk false false false false && decide (l.val ≤ 2) && pairOk b
  | .rstvAdd _ _ mk me _ => modOk me mk false false false false
  | .bnkexa _ _ _ mk me => modOk me mk false false false false
  | .ccfg _ _ _ => true
  | .cap _ _ _ => true
  | .capP _ _ _ => true
  | .cslot _ _ _ => true
  | .cslotFree _ _ _ => true
  | .ctake _ _ => true
  | .cstat _ _ c => decide (c.val ≤ 5)
  | .cdep _ _ b _ => b.val != 0
  | .fadd _ _ _ r t => (decide (r.val ≤ 3) && decide (t.val ≤ 3))
  | .fsub _ _ _ r t => (decide (r.val ≤ 3) && decide (t.val ≤ 3))
  | .fmul _ _ _ r t => (decide (r.val ≤ 3) && decide (t.val ≤ 3))
  | .ffma _ _ _ r t => (decide (r.val ≤ 3) && decide (t.val ≤ 3))
  | .fdiv _ _ _ r t => (decide (r.val ≤ 3) && decide (t.val ≤ 3))
  | .fsqrt _ _ r t => (decide (r.val ≤ 3) && decide (t.val ≤ 3))
  | .fcmp _ _ _ t => decide (t.val ≤ 3)
  | .fcvt _ _ s r t => (decide (r.val ≤ 3) && (decide (s.val ≤ 3) || decide (t.val ≤ 3)))
  | .mfs _ _ => true
  | .mts _ _ => true
  | .tret => true
  | .launch _ _ => true
  | .launchAbort _ _ => true
  | .preempt _ _ => true
  | .ctxsave _ _ _ => true
  | .ctxload _ _ _ => true
  | .frestore _ _ _ => true
  | .xlinv _ _ s => decide (s.val ≤ 4)
  | .idle => true
  | .setpri _ _ _ => true
  | .lgretire _ _ _ => true
  | .sblk count _ => decide (1 ≤ count.val) && decide (count.val ≤ 16)
  | .ccInterruptEntry _ => true
  | .trapNoticeDeliver _ => true
  | .nqptrConsWrite _ => true
  | .nqctlWrite _ => true
  | .pageWalk _ _ => true
  | .mscFill _ _ _ _ => true
  | .refreshWindowEnd _ => true
  | .demoteApply _ => true
  | .demoteScrubEnd _ _ => true
  | .scfgCarveWrite _ _ => true
  | .carveChange _ => true
  | .hrctlWrite _ _ => true
  | .fumaroleForwardReceive _ => true
  | .fumaroleReturnReceive _ => true
  | .geyserEntryDeliver _ _ => true
  | .pathOperationComplete _ _ _ => true
  | .upcallEntry _ => true
  | .queueWake _ => true
  | .queueDeadlock _ => true
  | .semaphoreGrant _ _ => true
  | .sigwaitWake _ => true
  | .barrierEpisodeComplete _ _ _ _ => true
  | .waittWake _ => true
  | .cplwWake _ => true
  | .idleWake _ => true
  | .rstvOutcome _ _ _ => true
  | .remoteStorePacket _ _ _ => true
  | .remoteAddPacket _ _ _ _ => true
  | .signalPacket _ _ _ _ _ => true
  | .tokenRowPacket _ _ _ _ _ _ => true
  | .ackPacket _ _ _ _ => true
  | .remoteReadPacket _ _ _ => true
  | .readDataPacket _ _ _ => true
  | .remoteBankRequest _ _ _ _ => true
  | .remoteBankReply _ _ => true
  | .rdWriteFaultReport _ _ _ => true
  | .rdSplitReceive _ _ _ _ _ => true
  | .rdInvReceive _ _ _ _ => true
  | .rdAckReceive _ _ => true
  | .rdReleasedRetired _ _ => true
  | .rdFormerHolderFault _ _ _ _ => true
  | .calderaDeposit _ => true
  | .calderaTimeoutRelease _ _ _ => true
  | .calderaTimeoutTrap _ => true
  | .launchEnterDispatch _ _ => true
  | .dispatchPlace _ => true
  | .dispatchPreempt _ => true
  | .quantumExpiry _ => true
  | .launchRetire _ _ => true
  | .uncorrectableError _ _ _ _ _ => true
  | .errorRetryResult _ => true
  | .linkCrcResend _ => true
  | .linkRetrain _ _ => true
  | .tuffStreamSend => true
  | .tuffctlFrzSet => true
  | .tuffctlFrzClear => true
  | .tuffctlStreamWrite _ => true
  | .tuffputCommit _ => true
  | .mextExtend _ => true
  | .attestRequest _ => true
  | .moduleReset => true
  | .tftpImageReceive _ => true
  | .rstctlWarmWrite => true
  | .warmReset => true
  | .timectlGmWrite _ => true
  | .timectlRelWrite => true
  | .gmReleaseTimeout => true
  | .timeEventMessage _ _ => true
  | .timeLockChange => true
  | .pwrctlReqWrite _ => true
  | .powerModeChangeEnd => true
  | .thermalThrottle => true
  | .thermalUnthrottle => true
  | .thermalPowerOff => true
  | .pcieInboundDma _ _ _ _ _ => true
  | .registerWrite _ _ => true
  | .powerLoss => true
  | .managementPortLinkChange _ => true
  | .managementPortReceive _ => true
  | .bankResultReturn _ => true

/-- Whether an instruction has a 32-bit word of its own: not the events, and not LAUNCH_ABORT, whose word is LAUNCH's
and whose descriptor (R373) makes the difference. -/
def Instr.hasWord (i : Instr) : Bool :=
  match i with
  | .add _ _ _ => true
  | .sub _ _ _ => true
  | .mul _ _ _ => true
  | .mulh _ _ _ => true
  | .mulhn _ _ _ => true
  | .div _ _ _ => true
  | .divn _ _ _ => true
  | .rem _ _ _ => true
  | .remn _ _ _ => true
  | .and _ _ _ => true
  | .or _ _ _ => true
  | .xor _ _ _ => true
  | .shl _ _ _ => true
  | .shr _ _ _ => true
  | .sra _ _ _ => true
  | .slt _ _ _ => true
  | .sltn _ _ _ => true
  | .min _ _ _ => true
  | .max _ _ _ => true
  | .clz _ _ => true
  | .ctz _ _ => true
  | .popc _ _ => true
  | .ldl _ _ => true
  | .stc _ _ _ => true
  | .addi _ _ _ => true
  | .andi _ _ _ => true
  | .ori _ _ _ => true
  | .xori _ _ _ => true
  | .shli _ _ _ => true
  | .shri _ _ _ => true
  | .srai _ _ _ => true
  | .slti _ _ _ => true
  | .lui _ _ => true
  | .addpc _ _ => true
  | .ldB _ _ _ => true
  | .ldH _ _ _ => true
  | .ldW _ _ _ => true
  | .ldD _ _ _ => true
  | .ldBN _ _ _ => true
  | .ldHN _ _ _ => true
  | .ldWN _ _ _ => true
  | .stB _ _ _ => true
  | .stH _ _ _ => true
  | .stW _ _ _ => true
  | .stD _ _ _ => true
  | .srd _ _ => true
  | .swr _ _ => true
  | .beq _ _ _ => true
  | .bne _ _ _ => true
  | .blt _ _ _ => true
  | .bge _ _ _ => true
  | .bltn _ _ _ => true
  | .bgen _ _ _ => true
  | .jal _ => true
  | .jalr _ _ => true
  | .loop _ _ _ => true
  | .vrep _ _ => true
  | .yield => true
  | .sexit => true
  | .scall _ _ => true
  | .brk _ _ => true
  | .qw _ _ => true
  | .qr _ _ => true
  | .qpeek _ _ => true
  | .qstat _ _ => true
  | .vadd _ _ _ _ _ => true
  | .vsub _ _ _ _ _ => true
  | .vmul _ _ _ _ _ => true
  | .vdiv _ _ _ _ _ => true
  | .vmin _ _ _ _ _ => true
  | .vmax _ _ _ _ _ => true
  | .vand _ _ _ _ _ => true
  | .vor _ _ _ _ _ => true
  | .vxor _ _ _ _ _ => true
  | .vshl _ _ _ _ _ => true
  | .vshr _ _ _ _ _ => true
  | .vsra _ _ _ _ _ => true
  | .vwmul _ _ _ _ _ => true
  | .vwadd _ _ _ _ _ => true
  | .vfma _ _ _ _ _ => true
  | .vfms _ _ _ _ _ => true
  | .vfnma _ _ _ _ _ => true
  | .vsqrt _ _ _ _ => true
  | .vrcp _ _ _ _ => true
  | .vabs _ _ _ _ => true
  | .vneg _ _ _ _ => true
  | .vmov _ _ _ _ => true
  | .vclass _ _ _ _ => true
  | .viota _ _ _ => true
  | .vsplat _ _ _ _ => true
  | .vmovQ _ _ _ => true
  | .vnarrow _ _ _ _ => true
  | .vaddS _ _ _ _ _ => true
  | .vsubS _ _ _ _ _ => true
  | .vmulS _ _ _ _ _ => true
  | .vdivS _ _ _ _ _ => true
  | .vminS _ _ _ _ _ => true
  | .vmaxS _ _ _ _ _ => true
  | .vandS _ _ _ _ _ => true
  | .vorS _ _ _ _ _ => true
  | .vxorS _ _ _ _ _ => true
  | .vshlS _ _ _ _ _ => true
  | .vshrS _ _ _ _ _ => true
  | .vsraS _ _ _ _ _ => true
  | .vwmulS _ _ _ _ _ => true
  | .vwaddS _ _ _ _ _ => true
  | .vfmaS _ _ _ _ _ => true
  | .vfmsS _ _ _ _ _ => true
  | .vfnmaS _ _ _ _ _ => true
  | .vcvt _ _ _ _ _ => true
  | .vqnt _ _ _ _ => true
  | .vdqnt _ _ _ _ => true
  | .vsat _ _ _ _ _ => true
  | .vcmp _ _ _ _ _ _ => true
  | .vcmpS _ _ _ _ _ _ => true
  | .vsel _ _ _ _ => true
  | .vmerge _ _ _ => true
  | .vld _ _ _ _ => true
  | .vlds _ _ _ _ _ => true
  | .vldx _ _ _ _ _ => true
  | .vldxD _ _ _ _ _ => true
  | .vldq _ _ _ => true
  | .vldl _ _ _ _ _ => true
  | .vldlD _ _ _ _ _ => true
  | .vldz _ _ _ => true
  | .vpf _ _ _ _ _ => true
  | .vst _ _ _ _ => true
  | .vsts _ _ _ _ _ => true
  | .vstx _ _ _ _ _ => true
  | .vstxD _ _ _ _ _ => true
  | .vstc _ _ _ _ => true
  | .vscc _ _ _ _ => true
  | .vsccD _ _ _ _ => true
  | .vsetl _ _ _ => true
  | .vsetmf _ => true
  | .vsplit _ _ => true
  | .vfuse => true
  | .mpopv _ _ _ _ => true
  | .mand _ _ _ => true
  | .mor _ _ _ => true
  | .mxor _ _ _ => true
  | .mnot _ _ => true
  | .mset _ => true
  | .mclr _ => true
  | .mfromfm _ => true
  | .mcnt _ _ => true
  | .many _ _ => true
  | .mfirst _ _ => true
  | .vslideup _ _ _ _ _ => true
  | .vslidedn _ _ _ _ _ => true
  | .vshuf _ _ _ _ _ => true
  | .vrev _ _ _ _ => true
  | .vcompress _ _ _ => true
  | .vexpand _ _ _ => true
  | .vscan _ _ _ _ => true
  | .vscanMin _ _ _ _ => true
  | .vscanMax _ _ _ _ => true
  | .vredsum _ _ _ _ _ => true
  | .vredsumF _ _ _ _ _ => true
  | .vredmax _ _ _ _ _ => true
  | .vredmin _ _ _ _ _ => true
  | .vredsumQ _ _ _ _ _ => true
  | .vredsumFQ _ _ _ _ _ => true
  | .vredmaxQ _ _ _ _ _ => true
  | .vredminQ _ _ _ _ _ => true
  | .vfold _ _ _ _ => true
  | .vfoldFin _ _ => true
  | .vfoldClr _ => true
  | .vfoldFinQ _ _ => true
  | .vconflict _ _ _ _ => true
  | .fld _ _ => true
  | .fst _ _ => true
  | .fldlv _ _ => true
  | .fscat _ _ => true
  | .fintA _ _ _ => true
  | .fintB _ _ _ => true
  | .fintAdd _ _ _ => true
  | .fintMul _ _ _ => true
  | .fintMin _ _ _ => true
  | .fintMax _ _ _ => true
  | .funiA _ _ _ => true
  | .funiB _ _ _ => true
  | .funiAdd _ _ _ => true
  | .funiMul _ _ _ => true
  | .funiMin _ _ _ => true
  | .funiMax _ _ _ => true
  | .fmrg _ _ _ => true
  | .fsort _ _ => true
  | .fsortA _ _ => true
  | .fsortB _ _ => true
  | .fsortAdd _ _ => true
  | .fsortMul _ _ => true
  | .fsortMin _ _ => true
  | .fsortMax _ _ => true
  | .fcpt _ _ _ => true
  | .fcptZ _ _ => true
  | .fexp _ _ _ => true
  | .ffromv _ _ _ => true
  | .fcrd _ _ => true
  | .fval _ _ => true
  | .fcnt _ _ => true
  | .mmaT _ _ _ => true
  | .mmaM _ _ _ => true
  | .mmaxT _ _ _ _ => true
  | .mmaxM _ _ _ _ => true
  | .mmasT _ _ _ _ => true
  | .mmasM _ _ _ _ => true
  | .tshape _ => true
  | .accz _ _ => true
  | .accld _ _ => true
  | .accst _ _ => true
  | .accrd _ _ _ => true
  | .accwr _ _ _ => true
  | .acccvt _ _ _ => true
  | .accred _ _ => true
  | .accrdD _ _ => true
  | .accwrD _ _ => true
  | .tluf _ _ _ => true
  | .tchol _ _ => true
  | .ttrsL _ _ _ => true
  | .ttrsU _ _ _ => true
  | .ttrsL1 _ _ _ => true
  | .ttrsU1 _ _ _ => true
  | .ttrsLp _ _ _ _ => true
  | .ttrsL1p _ _ _ _ => true
  | .tres _ _ _ _ _ => true
  | .titer _ _ _ _ => true
  | .ctas _ => true
  | .cclr _ => true
  | .crd _ _ => true
  | .cwr _ _ => true
  | .bar _ _ _ => true
  | .fenceAv => true
  | .fenceVa => true
  | .fenceVv => true
  | .fenceAll => true
  | .xfence _ _ _ => true
  | .siginc _ _ => true
  | .sigincR _ _ _ => true
  | .sigwait _ _ _ _ => true
  | .timerd _ => true
  | .waitt _ _ => true
  | .bnkopAdd _ _ _ => true
  | .bnkopMin _ _ _ => true
  | .bnkopMax _ _ _ => true
  | .bnkopMinn _ _ _ => true
  | .bnkopMaxn _ _ _ => true
  | .bnkopAnd _ _ _ => true
  | .bnkopOr _ _ _ => true
  | .bnkopXor _ _ _ => true
  | .bnkopSwap _ _ _ => true
  | .bnkopCas _ _ _ => true
  | .bnkopFadd32 _ _ _ => true
  | .bnkopFadd64 _ _ _ => true
  | .bnkrdF32 _ _ => true
  | .bnkrdBf16 _ _ => true
  | .bnkrdF64 _ _ => true
  | .bnkrdF32Z _ _ => true
  | .bnkrdBf16Z _ _ => true
  | .bnkrdF64Z _ _ => true
  | .gstr _ _ => true
  | .gstop _ => true
  | .copy _ _ _ => true
  | .copyMt _ _ _ => true
  | .copyTm _ _ _ => true
  | .copyTt _ _ _ => true
  | .cplw _ _ => true
  | .oncpl _ _ _ => true
  | .upret => true
  | .resid _ _ => true
  | .demote _ => true
  | .discard _ _ => true
  | .pghint _ _ _ => true
  | .gath _ _ _ _ _ _ _ => true
  | .rstv _ _ _ _ _ _ => true
  | .rstvMc _ _ _ _ _ _ _ => true
  | .rstvAdd _ _ _ _ _ => true
  | .bnkexa _ _ _ _ _ => true
  | .ccfg _ _ _ => true
  | .cap _ _ _ => true
  | .capP _ _ _ => true
  | .cslot _ _ _ => true
  | .cslotFree _ _ _ => true
  | .ctake _ _ => true
  | .cstat _ _ _ => true
  | .cdep _ _ _ _ => true
  | .fadd _ _ _ _ _ => true
  | .fsub _ _ _ _ _ => true
  | .fmul _ _ _ _ _ => true
  | .ffma _ _ _ _ _ => true
  | .fdiv _ _ _ _ _ => true
  | .fsqrt _ _ _ _ => true
  | .fcmp _ _ _ _ => true
  | .fcvt _ _ _ _ _ => true
  | .mfs _ _ => true
  | .mts _ _ => true
  | .tret => true
  | .launch _ _ => true
  | .launchAbort _ _ => false
  | .preempt _ _ => true
  | .ctxsave _ _ _ => true
  | .ctxload _ _ _ => true
  | .frestore _ _ _ => true
  | .xlinv _ _ _ => true
  | .idle => true
  | .setpri _ _ _ => true
  | .lgretire _ _ _ => true
  | .sblk _ _ => true
  | .ccInterruptEntry _ => false
  | .trapNoticeDeliver _ => false
  | .nqptrConsWrite _ => false
  | .nqctlWrite _ => false
  | .pageWalk _ _ => false
  | .mscFill _ _ _ _ => false
  | .refreshWindowEnd _ => false
  | .demoteApply _ => false
  | .demoteScrubEnd _ _ => false
  | .scfgCarveWrite _ _ => false
  | .carveChange _ => false
  | .hrctlWrite _ _ => false
  | .fumaroleForwardReceive _ => false
  | .fumaroleReturnReceive _ => false
  | .geyserEntryDeliver _ _ => false
  | .pathOperationComplete _ _ _ => false
  | .upcallEntry _ => false
  | .queueWake _ => false
  | .queueDeadlock _ => false
  | .semaphoreGrant _ _ => false
  | .sigwaitWake _ => false
  | .barrierEpisodeComplete _ _ _ _ => false
  | .waittWake _ => false
  | .cplwWake _ => false
  | .idleWake _ => false
  | .rstvOutcome _ _ _ => false
  | .remoteStorePacket _ _ _ => false
  | .remoteAddPacket _ _ _ _ => false
  | .signalPacket _ _ _ _ _ => false
  | .tokenRowPacket _ _ _ _ _ _ => false
  | .ackPacket _ _ _ _ => false
  | .remoteReadPacket _ _ _ => false
  | .readDataPacket _ _ _ => false
  | .remoteBankRequest _ _ _ _ => false
  | .remoteBankReply _ _ => false
  | .rdWriteFaultReport _ _ _ => false
  | .rdSplitReceive _ _ _ _ _ => false
  | .rdInvReceive _ _ _ _ => false
  | .rdAckReceive _ _ => false
  | .rdReleasedRetired _ _ => false
  | .rdFormerHolderFault _ _ _ _ => false
  | .calderaDeposit _ => false
  | .calderaTimeoutRelease _ _ _ => false
  | .calderaTimeoutTrap _ => false
  | .launchEnterDispatch _ _ => false
  | .dispatchPlace _ => false
  | .dispatchPreempt _ => false
  | .quantumExpiry _ => false
  | .launchRetire _ _ => false
  | .uncorrectableError _ _ _ _ _ => false
  | .errorRetryResult _ => false
  | .linkCrcResend _ => false
  | .linkRetrain _ _ => false
  | .tuffStreamSend => false
  | .tuffctlFrzSet => false
  | .tuffctlFrzClear => false
  | .tuffctlStreamWrite _ => false
  | .tuffputCommit _ => false
  | .mextExtend _ => false
  | .attestRequest _ => false
  | .moduleReset => false
  | .tftpImageReceive _ => false
  | .rstctlWarmWrite => false
  | .warmReset => false
  | .timectlGmWrite _ => false
  | .timectlRelWrite => false
  | .gmReleaseTimeout => false
  | .timeEventMessage _ _ => false
  | .timeLockChange => false
  | .pwrctlReqWrite _ => false
  | .powerModeChangeEnd => false
  | .thermalThrottle => false
  | .thermalUnthrottle => false
  | .thermalPowerOff => false
  | .pcieInboundDma _ _ _ _ _ => false
  | .registerWrite _ _ => false
  | .powerLoss => false
  | .managementPortLinkChange _ => false
  | .managementPortReceive _ => false
  | .bankResultReturn _ => false

end Sys2Proof
end

