-- ==== Sys2Proof/Decode.lean ====
section
/-! DEFINITION. The decoder, total on every 32-bit word and rejecting by name (R184-R189, R195), and the encoder written
from the same tables.  Decoding goes by the major opcode in bits 31:25 (R187), then by function code. -/

namespace Sys2Proof

noncomputable section

/-- Why a word is no instruction (R189 rows 2 to 4). -/
inductive DecodeError where
  /-- majors 0x78-0x7E: the reserved-space trap -/
  | reservedSpace
  /-- an unassigned word of majors 0x68-0x6F: privilege trap outside a system segment, else illegal instruction -/
  | systemUnassigned
  /-- every other word that is no instruction: the illegal-instruction trap -/
  | illegal
deriving DecidableEq, Repr

/-- Bits lo + len - 1 : lo of a word. -/
def wordBits (w lo len : Nat) : Nat := w / 2 ^ lo % 2 ^ len

/-- A register or literal field of a word, as a number below n. -/
def wordFin (n : Nat) [NeZero n] (w lo : Nat) : Fin n := Fin.ofNat n (w / 2 ^ lo)

/-- Major 0x00. -/
def decodeMajor00 (w : Nat) : Option Instr :=
  match wordBits w 0 10 with
  | 1 => some (.add (wordFin 32 w 20) (wordFin 32 w 15) (wordFin 32 w 10))
  | 2 => some (.sub (wordFin 32 w 20) (wordFin 32 w 15) (wordFin 32 w 10))
  | 3 => some (.mul (wordFin 32 w 20) (wordFin 32 w 15) (wordFin 32 w 10))
  | 4 => some (.mulh (wordFin 32 w 20) (wordFin 32 w 15) (wordFin 32 w 10))
  | 5 => some (.mulhn (wordFin 32 w 20) (wordFin 32 w 15) (wordFin 32 w 10))
  | 6 => some (.div (wordFin 32 w 20) (wordFin 32 w 15) (wordFin 32 w 10))
  | 7 => some (.divn (wordFin 32 w 20) (wordFin 32 w 15) (wordFin 32 w 10))
  | 8 => some (.rem (wordFin 32 w 20) (wordFin 32 w 15) (wordFin 32 w 10))
  | 9 => some (.remn (wordFin 32 w 20) (wordFin 32 w 15) (wordFin 32 w 10))
  | 10 => some (.and (wordFin 32 w 20) (wordFin 32 w 15) (wordFin 32 w 10))
  | 11 => some (.or (wordFin 32 w 20) (wordFin 32 w 15) (wordFin 32 w 10))
  | 12 => some (.xor (wordFin 32 w 20) (wordFin 32 w 15) (wordFin 32 w 10))
  | 13 => some (.shl (wordFin 32 w 20) (wordFin 32 w 15) (wordFin 32 w 10))
  | 14 => some (.shr (wordFin 32 w 20) (wordFin 32 w 15) (wordFin 32 w 10))
  | 15 => some (.sra (wordFin 32 w 20) (wordFin 32 w 15) (wordFin 32 w 10))
  | 16 => some (.slt (wordFin 32 w 20) (wordFin 32 w 15) (wordFin 32 w 10))
  | 17 => some (.sltn (wordFin 32 w 20) (wordFin 32 w 15) (wordFin 32 w 10))
  | 18 => some (.min (wordFin 32 w 20) (wordFin 32 w 15) (wordFin 32 w 10))
  | 19 => some (.max (wordFin 32 w 20) (wordFin 32 w 15) (wordFin 32 w 10))
  | 20 => if wordBits w 10 5 = 0 then some (.clz (wordFin 32 w 20) (wordFin 32 w 15))
    else none
  | 21 => if wordBits w 10 5 = 0 then some (.ctz (wordFin 32 w 20) (wordFin 32 w 15))
    else none
  | 22 => if wordBits w 10 5 = 0 then some (.popc (wordFin 32 w 20) (wordFin 32 w 15))
    else none
  | 32 => if wordBits w 10 5 = 0 then some (.ldl (wordFin 32 w 20) (wordFin 32 w 15))
    else none
  | 33 => some (.stc (wordFin 32 w 20) (wordFin 32 w 15) (wordFin 32 w 10))
  | _ => none

/-- Major 0x01. -/
def decodeMajor01 (w : Nat) : Option Instr :=
  some (.addi (wordFin 32 w 20) (wordFin 32 w 15) (BitVec.ofNat 15 (wordBits w 0 15)))

/-- Major 0x02. -/
def decodeMajor02 (w : Nat) : Option Instr :=
  some (.andi (wordFin 32 w 20) (wordFin 32 w 15) (BitVec.ofNat 15 (wordBits w 0 15)))

/-- Major 0x03. -/
def decodeMajor03 (w : Nat) : Option Instr :=
  some (.ori (wordFin 32 w 20) (wordFin 32 w 15) (BitVec.ofNat 15 (wordBits w 0 15)))

/-- Major 0x04. -/
def decodeMajor04 (w : Nat) : Option Instr :=
  some (.xori (wordFin 32 w 20) (wordFin 32 w 15) (BitVec.ofNat 15 (wordBits w 0 15)))

/-- Major 0x05. -/
def decodeMajor05 (w : Nat) : Option Instr :=
  if wordBits w 6 9 = 0 then some (.shli (wordFin 32 w 20) (wordFin 32 w 15) (BitVec.ofNat 6 (wordBits w 0 6)))
  else none

/-- Major 0x06. -/
def decodeMajor06 (w : Nat) : Option Instr :=
  if wordBits w 6 9 = 0 then some (.shri (wordFin 32 w 20) (wordFin 32 w 15) (BitVec.ofNat 6 (wordBits w 0 6)))
  else none

/-- Major 0x07. -/
def decodeMajor07 (w : Nat) : Option Instr :=
  if wordBits w 6 9 = 0 then some (.srai (wordFin 32 w 20) (wordFin 32 w 15) (BitVec.ofNat 6 (wordBits w 0 6)))
  else none

/-- Major 0x08. -/
def decodeMajor08 (w : Nat) : Option Instr :=
  some (.slti (wordFin 32 w 20) (wordFin 32 w 15) (BitVec.ofNat 15 (wordBits w 0 15)))

/-- Major 0x09. -/
def decodeMajor09 (w : Nat) : Option Instr :=
  if wordBits w 15 5 = 0 then some (.lui (wordFin 32 w 20) (BitVec.ofNat 15 (wordBits w 0 15)))
  else none

/-- Major 0x0A. -/
def decodeMajor0A (w : Nat) : Option Instr :=
  if wordBits w 15 5 = 0 then some (.addpc (wordFin 32 w 20) (BitVec.ofNat 15 (wordBits w 0 15)))
  else none

/-- Major 0x0B. -/
def decodeMajor0B (w : Nat) : Option Instr :=
  some (.ldB (wordFin 32 w 20) (wordFin 32 w 15) (BitVec.ofNat 15 (wordBits w 0 15)))

/-- Major 0x0C. -/
def decodeMajor0C (w : Nat) : Option Instr :=
  some (.ldH (wordFin 32 w 20) (wordFin 32 w 15) (BitVec.ofNat 15 (wordBits w 0 15)))

/-- Major 0x0D. -/
def decodeMajor0D (w : Nat) : Option Instr :=
  some (.ldW (wordFin 32 w 20) (wordFin 32 w 15) (BitVec.ofNat 15 (wordBits w 0 15)))

/-- Major 0x0E. -/
def decodeMajor0E (w : Nat) : Option Instr :=
  some (.ldD (wordFin 32 w 20) (wordFin 32 w 15) (BitVec.ofNat 15 (wordBits w 0 15)))

/-- Major 0x0F. -/
def decodeMajor0F (w : Nat) : Option Instr :=
  some (.ldBN (wordFin 32 w 20) (wordFin 32 w 15) (BitVec.ofNat 15 (wordBits w 0 15)))

/-- Major 0x10. -/
def decodeMajor10 (w : Nat) : Option Instr :=
  some (.ldHN (wordFin 32 w 20) (wordFin 32 w 15) (BitVec.ofNat 15 (wordBits w 0 15)))

/-- Major 0x11. -/
def decodeMajor11 (w : Nat) : Option Instr :=
  some (.ldWN (wordFin 32 w 20) (wordFin 32 w 15) (BitVec.ofNat 15 (wordBits w 0 15)))

/-- Major 0x12. -/
def decodeMajor12 (w : Nat) : Option Instr :=
  some (.stB (wordFin 32 w 20) (wordFin 32 w 15) (BitVec.ofNat 15 (wordBits w 0 15)))

/-- Major 0x13. -/
def decodeMajor13 (w : Nat) : Option Instr :=
  some (.stH (wordFin 32 w 20) (wordFin 32 w 15) (BitVec.ofNat 15 (wordBits w 0 15)))

/-- Major 0x14. -/
def decodeMajor14 (w : Nat) : Option Instr :=
  some (.stW (wordFin 32 w 20) (wordFin 32 w 15) (BitVec.ofNat 15 (wordBits w 0 15)))

/-- Major 0x15. -/
def decodeMajor15 (w : Nat) : Option Instr :=
  some (.stD (wordFin 32 w 20) (wordFin 32 w 15) (BitVec.ofNat 15 (wordBits w 0 15)))

/-- Major 0x16. -/
def decodeMajor16 (w : Nat) : Option Instr :=
  if wordBits w 10 10 = 0 then some (.srd (wordFin 32 w 20) (wordFin 1024 w 0))
  else none

/-- Major 0x17. -/
def decodeMajor17 (w : Nat) : Option Instr :=
  if wordBits w 10 5 = 0 ∧ wordBits w 20 5 = 0 then some (.swr (wordFin 32 w 15) (wordFin 1024 w 0))
  else none

/-- Major 0x18. -/
def decodeMajor18 (w : Nat) : Option Instr :=
  some (.beq (wordFin 32 w 20) (wordFin 32 w 15) (BitVec.ofNat 15 (wordBits w 0 15)))

/-- Major 0x19. -/
def decodeMajor19 (w : Nat) : Option Instr :=
  some (.bne (wordFin 32 w 20) (wordFin 32 w 15) (BitVec.ofNat 15 (wordBits w 0 15)))

/-- Major 0x1A. -/
def decodeMajor1A (w : Nat) : Option Instr :=
  some (.blt (wordFin 32 w 20) (wordFin 32 w 15) (BitVec.ofNat 15 (wordBits w 0 15)))

/-- Major 0x1B. -/
def decodeMajor1B (w : Nat) : Option Instr :=
  some (.bge (wordFin 32 w 20) (wordFin 32 w 15) (BitVec.ofNat 15 (wordBits w 0 15)))

/-- Major 0x1C. -/
def decodeMajor1C (w : Nat) : Option Instr :=
  some (.bltn (wordFin 32 w 20) (wordFin 32 w 15) (BitVec.ofNat 15 (wordBits w 0 15)))

/-- Major 0x1D. -/
def decodeMajor1D (w : Nat) : Option Instr :=
  some (.bgen (wordFin 32 w 20) (wordFin 32 w 15) (BitVec.ofNat 15 (wordBits w 0 15)))

/-- Major 0x1E. -/
def decodeMajor1E (w : Nat) : Option Instr :=
  some (.jal (BitVec.ofNat 25 (wordBits w 0 25)))

/-- Major 0x1F. -/
def decodeMajor1F (w : Nat) : Option Instr :=
  match wordBits w 0 10 with
  | 1 => if wordBits w 10 5 = 0 then some (.jalr (wordFin 32 w 20) (wordFin 32 w 15))
    else none
  | 2 => some (.loop (wordFin 32 w 20) (wordFin 32 w 15) (wordFin 32 w 10))
  | 3 => if wordBits w 10 5 = 0 then some (.vrep (wordFin 32 w 20) (wordFin 32 w 15))
    else none
  | 4 => if wordBits w 10 15 = 0 then some .yield
    else none
  | 5 => if wordBits w 10 15 = 0 then some .sexit
    else none
  | 6 => if wordBits w 15 5 = 0 then some (.scall (wordFin 32 w 20) (wordFin 32 w 10))
    else none
  | 7 => if wordBits w 15 5 = 0 then some (.brk (wordFin 32 w 20) (wordFin 32 w 10))
    else none
  | 16 => if wordBits w 10 5 = 0 then some (.qw (wordFin 32 w 20) (wordFin 32 w 15))
    else none
  | 17 => if wordBits w 10 5 = 0 then some (.qr (wordFin 32 w 20) (wordFin 32 w 15))
    else none
  | 18 => if wordBits w 10 5 = 0 then some (.qpeek (wordFin 32 w 20) (wordFin 32 w 15))
    else none
  | 19 => if wordBits w 10 5 = 0 then some (.qstat (wordFin 32 w 20) (wordFin 32 w 15))
    else none
  | _ => none

/-- Major 0x20. -/
def decodeMajor20 (w : Nat) : Option Instr :=
  match wordBits w 0 5 with
  | 0 => some (.vadd (wordFin 32 w 20) (wordFin 32 w 15) (wordFin 32 w 10) (wordFin 16 w 6) (wordBits w 5 1 == 1))
  | 1 => some (.vsub (wordFin 32 w 20) (wordFin 32 w 15) (wordFin 32 w 10) (wordFin 16 w 6) (wordBits w 5 1 == 1))
  | 2 => some (.vmul (wordFin 32 w 20) (wordFin 32 w 15) (wordFin 32 w 10) (wordFin 16 w 6) (wordBits w 5 1 == 1))
  | 3 => some (.vdiv (wordFin 32 w 20) (wordFin 32 w 15) (wordFin 32 w 10) (wordFin 16 w 6) (wordBits w 5 1 == 1))
  | 4 => some (.vmin (wordFin 32 w 20) (wordFin 32 w 15) (wordFin 32 w 10) (wordFin 16 w 6) (wordBits w 5 1 == 1))
  | 5 => some (.vmax (wordFin 32 w 20) (wordFin 32 w 15) (wordFin 32 w 10) (wordFin 16 w 6) (wordBits w 5 1 == 1))
  | 6 => some (.vand (wordFin 32 w 20) (wordFin 32 w 15) (wordFin 32 w 10) (wordFin 16 w 6) (wordBits w 5 1 == 1))
  | 7 => some (.vor (wordFin 32 w 20) (wordFin 32 w 15) (wordFin 32 w 10) (wordFin 16 w 6) (wordBits w 5 1 == 1))
  | 8 => some (.vxor (wordFin 32 w 20) (wordFin 32 w 15) (wordFin 32 w 10) (wordFin 16 w 6) (wordBits w 5 1 == 1))
  | 9 => some (.vshl (wordFin 32 w 20) (wordFin 32 w 15) (wordFin 32 w 10) (wordFin 16 w 6) (wordBits w 5 1 == 1))
  | 10 => some (.vshr (wordFin 32 w 20) (wordFin 32 w 15) (wordFin 32 w 10) (wordFin 16 w 6) (wordBits w 5 1 == 1))
  | 11 => some (.vsra (wordFin 32 w 20) (wordFin 32 w 15) (wordFin 32 w 10) (wordFin 16 w 6) (wordBits w 5 1 == 1))
  | 12 => some (.vwmul (wordFin 32 w 20) (wordFin 32 w 15) (wordFin 32 w 10) (wordFin 16 w 6) (wordBits w 5 1 == 1))
  | 13 => some (.vwadd (wordFin 32 w 20) (wordFin 32 w 15) (wordFin 32 w 10) (wordFin 16 w 6) (wordBits w 5 1 == 1))
  | _ => none

/-- Major 0x21. -/
def decodeMajor21 (w : Nat) : Option Instr :=
  match wordBits w 0 5 with
  | 0 => some (.vfma (wordFin 32 w 20) (wordFin 32 w 15) (wordFin 32 w 10) (wordFin 16 w 6) (wordBits w 5 1 == 1))
  | 1 => some (.vfms (wordFin 32 w 20) (wordFin 32 w 15) (wordFin 32 w 10) (wordFin 16 w 6) (wordBits w 5 1 == 1))
  | 2 => some (.vfnma (wordFin 32 w 20) (wordFin 32 w 15) (wordFin 32 w 10) (wordFin 16 w 6) (wordBits w 5 1 == 1))
  | _ => none

/-- Major 0x22. -/
def decodeMajor22 (w : Nat) : Option Instr :=
  match wordBits w 0 5 with
  | 0 => if wordBits w 10 5 = 0 then some (.vsqrt (wordFin 32 w 20) (wordFin 32 w 15) (wordFin 16 w 6) (wordBits w 5 1 == 1))
    else none
  | 1 => if wordBits w 10 5 = 0 then some (.vrcp (wordFin 32 w 20) (wordFin 32 w 15) (wordFin 16 w 6) (wordBits w 5 1 == 1))
    else none
  | 2 => if wordBits w 10 5 = 0 then some (.vabs (wordFin 32 w 20) (wordFin 32 w 15) (wordFin 16 w 6) (wordBits w 5 1 == 1))
    else none
  | 3 => if wordBits w 10 5 = 0 then some (.vneg (wordFin 32 w 20) (wordFin 32 w 15) (wordFin 16 w 6) (wordBits w 5 1 == 1))
    else none
  | 4 => if wordBits w 10 5 = 0 then some (.vmov (wordFin 32 w 20) (wordFin 32 w 15) (wordFin 16 w 6) (wordBits w 5 1 == 1))
    else none
  | 5 => if wordBits w 10 5 = 0 then some (.vclass (wordFin 32 w 20) (wordFin 32 w 15) (wordFin 16 w 6) (wordBits w 5 1 == 1))
    else none
  | 6 => if wordBits w 10 10 = 0 then some (.viota (wordFin 32 w 20) (wordFin 16 w 6) (wordBits w 5 1 == 1))
    else none
  | 7 => if wordBits w 15 5 = 0 then some (.vsplat (wordFin 32 w 20) (wordFin 32 w 10) (wordFin 16 w 6) (wordBits w 5 1 == 1))
    else none
  | 8 => if wordBits w 5 5 = 0 ∧ wordBits w 21 4 = 3 then some (.vmovQ (wordFin 2 w 20) (wordFin 32 w 15) (wordFin 32 w 10))
    else none
  | 9 => if wordBits w 10 5 = 0 then some (.vnarrow (wordFin 32 w 20) (wordFin 32 w 15) (wordFin 16 w 6) (wordBits w 5 1 == 1))
    else none
  | _ => none

/-- Major 0x23. -/
def decodeMajor23 (w : Nat) : Option Instr :=
  match wordBits w 0 5 with
  | 0 => some (.vaddS (wordFin 32 w 20) (wordFin 32 w 15) (wordFin 32 w 10) (wordFin 16 w 6) (wordBits w 5 1 == 1))
  | 1 => some (.vsubS (wordFin 32 w 20) (wordFin 32 w 15) (wordFin 32 w 10) (wordFin 16 w 6) (wordBits w 5 1 == 1))
  | 2 => some (.vmulS (wordFin 32 w 20) (wordFin 32 w 15) (wordFin 32 w 10) (wordFin 16 w 6) (wordBits w 5 1 == 1))
  | 3 => some (.vdivS (wordFin 32 w 20) (wordFin 32 w 15) (wordFin 32 w 10) (wordFin 16 w 6) (wordBits w 5 1 == 1))
  | 4 => some (.vminS (wordFin 32 w 20) (wordFin 32 w 15) (wordFin 32 w 10) (wordFin 16 w 6) (wordBits w 5 1 == 1))
  | 5 => some (.vmaxS (wordFin 32 w 20) (wordFin 32 w 15) (wordFin 32 w 10) (wordFin 16 w 6) (wordBits w 5 1 == 1))
  | 6 => some (.vandS (wordFin 32 w 20) (wordFin 32 w 15) (wordFin 32 w 10) (wordFin 16 w 6) (wordBits w 5 1 == 1))
  | 7 => some (.vorS (wordFin 32 w 20) (wordFin 32 w 15) (wordFin 32 w 10) (wordFin 16 w 6) (wordBits w 5 1 == 1))
  | 8 => some (.vxorS (wordFin 32 w 20) (wordFin 32 w 15) (wordFin 32 w 10) (wordFin 16 w 6) (wordBits w 5 1 == 1))
  | 9 => some (.vshlS (wordFin 32 w 20) (wordFin 32 w 15) (wordFin 32 w 10) (wordFin 16 w 6) (wordBits w 5 1 == 1))
  | 10 => some (.vshrS (wordFin 32 w 20) (wordFin 32 w 15) (wordFin 32 w 10) (wordFin 16 w 6) (wordBits w 5 1 == 1))
  | 11 => some (.vsraS (wordFin 32 w 20) (wordFin 32 w 15) (wordFin 32 w 10) (wordFin 16 w 6) (wordBits w 5 1 == 1))
  | 12 => some (.vwmulS (wordFin 32 w 20) (wordFin 32 w 15) (wordFin 32 w 10) (wordFin 16 w 6) (wordBits w 5 1 == 1))
  | 13 => some (.vwaddS (wordFin 32 w 20) (wordFin 32 w 15) (wordFin 32 w 10) (wordFin 16 w 6) (wordBits w 5 1 == 1))
  | _ => none

/-- Major 0x24. -/
def decodeMajor24 (w : Nat) : Option Instr :=
  match wordBits w 0 5 with
  | 0 => some (.vfmaS (wordFin 32 w 20) (wordFin 32 w 15) (wordFin 32 w 10) (wordFin 16 w 6) (wordBits w 5 1 == 1))
  | 1 => some (.vfmsS (wordFin 32 w 20) (wordFin 32 w 15) (wordFin 32 w 10) (wordFin 16 w 6) (wordBits w 5 1 == 1))
  | 2 => some (.vfnmaS (wordFin 32 w 20) (wordFin 32 w 15) (wordFin 32 w 10) (wordFin 16 w 6) (wordBits w 5 1 == 1))
  | _ => none

/-- Major 0x25. -/
def decodeMajor25 (w : Nat) : Option Instr :=
  match wordBits w 0 5 with
  | 0 => some (.vcvt (wordFin 32 w 20) (wordFin 32 w 15) (wordFin 32 w 10) (wordFin 16 w 6) (wordBits w 5 1 == 1))
  | 1 => if wordBits w 5 1 = 0 then some (.vqnt (wordFin 32 w 20) (wordFin 32 w 15) (wordFin 32 w 10) (wordFin 16 w 6))
    else none
  | 2 => if wordBits w 5 1 = 0 then some (.vdqnt (wordFin 32 w 20) (wordFin 32 w 15) (wordFin 32 w 10) (wordFin 16 w 6))
    else none
  | 3 => some (.vsat (wordFin 32 w 20) (wordFin 32 w 15) (wordFin 32 w 10) (wordFin 16 w 6) (wordBits w 5 1 == 1))
  | _ => none

/-- Major 0x26. -/
def decodeMajor26 (w : Nat) : Option Instr :=
  if wordBits w 3 2 = 0 ∧ wordBits w 24 1 = 0 then some (.vcmp (wordFin 16 w 20) (wordFin 32 w 15) (wordFin 32 w 10) (wordFin 16 w 6) (wordBits w 5 1 == 1) (wordFin 8 w 0))
  else none

/-- Major 0x27. -/
def decodeMajor27 (w : Nat) : Option Instr :=
  if wordBits w 3 2 = 0 ∧ wordBits w 24 1 = 0 then some (.vcmpS (wordFin 16 w 20) (wordFin 32 w 15) (wordFin 32 w 10) (wordFin 16 w 6) (wordBits w 5 1 == 1) (wordFin 8 w 0))
  else none

/-- Major 0x28. -/
def decodeMajor28 (w : Nat) : Option Instr :=
  match wordBits w 0 6 with
  | 32 => some (.vsel (wordFin 32 w 20) (wordFin 32 w 15) (wordFin 32 w 10) (wordFin 16 w 6))
  | 33 => if wordBits w 10 5 = 0 then some (.vmerge (wordFin 32 w 20) (wordFin 32 w 15) (wordFin 16 w 6))
    else none
  | _ => none

/-- Major 0x30. -/
def decodeMajor30 (w : Nat) : Option Instr :=
  match wordBits w 0 5 with
  | 0 => if wordBits w 10 5 = 0 then some (.vld (wordFin 32 w 20) (wordFin 32 w 15) (wordFin 16 w 6) (wordBits w 5 1 == 1))
    else none
  | 1 => some (.vlds (wordFin 32 w 20) (wordFin 32 w 15) (wordFin 32 w 10) (wordFin 16 w 6) (wordBits w 5 1 == 1))
  | 2 => some (.vldx (wordFin 32 w 20) (wordFin 32 w 15) (wordFin 32 w 10) (wordFin 16 w 6) (wordBits w 5 1 == 1))
  | 3 => some (.vldxD (wordFin 32 w 20) (wordFin 32 w 15) (wordFin 32 w 10) (wordFin 16 w 6) (wordBits w 5 1 == 1))
  | 4 => if wordBits w 5 1 = 0 ∧ wordBits w 10 5 = 0 ∧ wordBits w 21 4 = 2 then some (.vldq (wordFin 2 w 20) (wordFin 32 w 15) (wordFin 16 w 6))
    else none
  | 5 => some (.vldl (wordFin 32 w 20) (wordFin 32 w 15) (wordFin 32 w 10) (wordFin 16 w 6) (wordBits w 5 1 == 1))
  | 6 => some (.vldlD (wordFin 32 w 20) (wordFin 32 w 15) (wordFin 32 w 10) (wordFin 16 w 6) (wordBits w 5 1 == 1))
  | 7 => if wordBits w 5 6 = 0 then some (.vldz (wordFin 32 w 20) (wordFin 32 w 15) (wordFin 16 w 11))
    else none
  | 8 => if wordBits w 22 3 = 0 then some (.vpf (wordFin 4 w 20) (wordFin 32 w 15) (wordFin 32 w 10) (wordFin 16 w 6) (wordBits w 5 1 == 1))
    else none
  | _ => none

/-- Major 0x31. -/
def decodeMajor31 (w : Nat) : Option Instr :=
  match wordBits w 0 5 with
  | 0 => if wordBits w 10 5 = 0 then some (.vst (wordFin 32 w 20) (wordFin 32 w 15) (wordFin 16 w 6) (wordBits w 5 1 == 1))
    else none
  | 1 => some (.vsts (wordFin 32 w 20) (wordFin 32 w 15) (wordFin 32 w 10) (wordFin 16 w 6) (wordBits w 5 1 == 1))
  | 2 => some (.vstx (wordFin 32 w 20) (wordFin 32 w 15) (wordFin 32 w 10) (wordFin 16 w 6) (wordBits w 5 1 == 1))
  | 3 => some (.vstxD (wordFin 32 w 20) (wordFin 32 w 15) (wordFin 32 w 10) (wordFin 16 w 6) (wordBits w 5 1 == 1))
  | 4 => if wordBits w 10 5 = 0 then some (.vstc (wordFin 32 w 20) (wordFin 32 w 15) (wordFin 16 w 6) (wordBits w 5 1 == 1))
    else none
  | 5 => if wordBits w 5 1 = 1 then some (.vscc (wordFin 32 w 20) (wordFin 32 w 15) (wordFin 32 w 10) (wordFin 16 w 6))
    else none
  | 6 => if wordBits w 5 1 = 1 then some (.vsccD (wordFin 32 w 20) (wordFin 32 w 15) (wordFin 32 w 10) (wordFin 16 w 6))
    else none
  | _ => none

/-- Major 0x38. -/
def decodeMajor38 (w : Nat) : Option Instr :=
  match wordBits w 0 10 with
  | 1 => some (.vsetl (wordFin 32 w 20) (wordFin 32 w 15) (wordFin 32 w 10))
  | 2 => if wordBits w 10 5 = 0 ∧ wordBits w 20 5 = 0 then some (.vsetmf (wordFin 32 w 15))
    else none
  | 3 => if wordBits w 20 5 = 0 then some (.vsplit (wordFin 32 w 15) (wordFin 32 w 10))
    else none
  | 4 => if wordBits w 10 15 = 0 then some .vfuse
    else none
  | _ => none

/-- Major 0x3A. -/
def decodeMajor3A (w : Nat) : Option Instr :=
  match wordBits w 0 5 with
  | 0 => if wordBits w 10 5 = 0 ∧ wordBits w 19 1 = 0 then some (.mpopv (wordFin 32 w 20) (wordFin 16 w 15) (wordFin 16 w 6) (wordBits w 5 1 == 1))
    else none
  | _ => none

/-- Major 0x3B. -/
def decodeMajor3B (w : Nat) : Option Instr :=
  match wordBits w 0 10 with
  | 0 => if wordBits w 14 1 = 0 ∧ wordBits w 19 1 = 0 ∧ wordBits w 24 1 = 0 then some (.mand (wordFin 16 w 20) (wordFin 16 w 15) (wordFin 16 w 10))
    else none
  | 1 => if wordBits w 14 1 = 0 ∧ wordBits w 19 1 = 0 ∧ wordBits w 24 1 = 0 then some (.mor (wordFin 16 w 20) (wordFin 16 w 15) (wordFin 16 w 10))
    else none
  | 2 => if wordBits w 14 1 = 0 ∧ wordBits w 19 1 = 0 ∧ wordBits w 24 1 = 0 then some (.mxor (wordFin 16 w 20) (wordFin 16 w 15) (wordFin 16 w 10))
    else none
  | 3 => if wordBits w 10 5 = 0 ∧ wordBits w 19 1 = 0 ∧ wordBits w 24 1 = 0 then some (.mnot (wordFin 16 w 20) (wordFin 16 w 15))
    else none
  | 4 => if wordBits w 10 10 = 0 ∧ wordBits w 24 1 = 0 then some (.mset (wordFin 16 w 20))
    else none
  | 5 => if wordBits w 10 10 = 0 ∧ wordBits w 24 1 = 0 then some (.mclr (wordFin 16 w 20))
    else none
  | 6 => if wordBits w 10 10 = 0 ∧ wordBits w 24 1 = 0 then some (.mfromfm (wordFin 16 w 20))
    else none
  | 256 => if wordBits w 10 5 = 0 ∧ wordBits w 19 1 = 0 then some (.mcnt (wordFin 32 w 20) (wordFin 16 w 15))
    else none
  | 257 => if wordBits w 10 5 = 0 ∧ wordBits w 19 1 = 0 then some (.many (wordFin 32 w 20) (wordFin 16 w 15))
    else none
  | 258 => if wordBits w 10 5 = 0 ∧ wordBits w 19 1 = 0 then some (.mfirst (wordFin 32 w 20) (wordFin 16 w 15))
    else none
  | _ => none

/-- Major 0x3C. -/
def decodeMajor3C (w : Nat) : Option Instr :=
  match wordBits w 0 5 with
  | 0 => some (.vslideup (wordFin 32 w 20) (wordFin 32 w 15) (wordFin 32 w 10) (wordFin 16 w 6) (wordBits w 5 1 == 1))
  | 1 => some (.vslidedn (wordFin 32 w 20) (wordFin 32 w 15) (wordFin 32 w 10) (wordFin 16 w 6) (wordBits w 5 1 == 1))
  | 2 => some (.vshuf (wordFin 32 w 20) (wordFin 32 w 15) (wordFin 32 w 10) (wordFin 16 w 6) (wordBits w 5 1 == 1))
  | 3 => if wordBits w 10 5 = 0 then some (.vrev (wordFin 32 w 20) (wordFin 32 w 15) (wordFin 16 w 6) (wordBits w 5 1 == 1))
    else none
  | 4 => if wordBits w 5 1 = 1 ∧ wordBits w 10 5 = 0 then some (.vcompress (wordFin 32 w 20) (wordFin 32 w 15) (wordFin 16 w 6))
    else none
  | 5 => if wordBits w 5 1 = 1 ∧ wordBits w 10 5 = 0 then some (.vexpand (wordFin 32 w 20) (wordFin 32 w 15) (wordFin 16 w 6))
    else none
  | _ => none

/-- Major 0x3D. -/
def decodeMajor3D (w : Nat) : Option Instr :=
  match wordBits w 0 5 with
  | 0 => if wordBits w 10 5 = 0 then some (.vscan (wordFin 32 w 20) (wordFin 32 w 15) (wordFin 16 w 6) (wordBits w 5 1 == 1))
    else none
  | 1 => if wordBits w 10 5 = 0 then some (.vscanMin (wordFin 32 w 20) (wordFin 32 w 15) (wordFin 16 w 6) (wordBits w 5 1 == 1))
    else none
  | 2 => if wordBits w 10 5 = 0 then some (.vscanMax (wordFin 32 w 20) (wordFin 32 w 15) (wordFin 16 w 6) (wordBits w 5 1 == 1))
    else none
  | _ => none

/-- Major 0x3E. -/
def decodeMajor3E (w : Nat) : Option Instr :=
  match wordBits w 0 5 with
  | 0 => some (.vredsum (wordFin 32 w 20) (wordFin 32 w 15) (wordFin 32 w 10) (wordFin 16 w 6) (wordBits w 5 1 == 1))
  | 1 => some (.vredsumF (wordFin 32 w 20) (wordFin 32 w 15) (wordFin 32 w 10) (wordFin 16 w 6) (wordBits w 5 1 == 1))
  | 2 => some (.vredmax (wordFin 32 w 20) (wordFin 32 w 15) (wordFin 32 w 10) (wordFin 16 w 6) (wordBits w 5 1 == 1))
  | 3 => some (.vredmin (wordFin 32 w 20) (wordFin 32 w 15) (wordFin 32 w 10) (wordFin 16 w 6) (wordBits w 5 1 == 1))
  | 16 => if wordBits w 21 4 = 3 then some (.vredsumQ (wordFin 2 w 20) (wordFin 32 w 15) (wordFin 32 w 10) (wordFin 16 w 6) (wordBits w 5 1 == 1))
    else none
  | 17 => if wordBits w 21 4 = 3 then some (.vredsumFQ (wordFin 2 w 20) (wordFin 32 w 15) (wordFin 32 w 10) (wordFin 16 w 6) (wordBits w 5 1 == 1))
    else none
  | 18 => if wordBits w 21 4 = 3 then some (.vredmaxQ (wordFin 2 w 20) (wordFin 32 w 15) (wordFin 32 w 10) (wordFin 16 w 6) (wordBits w 5 1 == 1))
    else none
  | 19 => if wordBits w 21 4 = 3 then some (.vredminQ (wordFin 2 w 20) (wordFin 32 w 15) (wordFin 32 w 10) (wordFin 16 w 6) (wordBits w 5 1 == 1))
    else none
  | _ => none

/-- Major 0x3F. -/
def decodeMajor3F (w : Nat) : Option Instr :=
  match wordBits w 0 5 with
  | 0 => if wordBits w 10 5 = 0 ∧ wordBits w 22 3 = 0 then some (.vfold (wordFin 4 w 20) (wordFin 32 w 15) (wordFin 16 w 6) (wordBits w 5 1 == 1))
    else none
  | 1 => if wordBits w 5 10 = 0 ∧ wordBits w 17 3 = 0 then some (.vfoldFin (wordFin 32 w 20) (wordFin 4 w 15))
    else none
  | 2 => if wordBits w 5 15 = 0 ∧ wordBits w 22 3 = 0 then some (.vfoldClr (wordFin 4 w 20))
    else none
  | 3 => if wordBits w 5 10 = 0 ∧ wordBits w 17 3 = 0 ∧ wordBits w 21 4 = 3 then some (.vfoldFinQ (wordFin 2 w 20) (wordFin 4 w 15))
    else none
  | 4 => if wordBits w 10 5 = 0 then some (.vconflict (wordFin 32 w 20) (wordFin 32 w 15) (wordFin 16 w 6) (wordBits w 5 1 == 1))
    else none
  | _ => none

/-- Major 0x40. -/
def decodeMajor40 (w : Nat) : Option Instr :=
  match wordBits w 0 6 with
  | 0 => if wordBits w 11 11 = 0 then some (.fld (wordFin 8 w 22) (wordFin 32 w 6))
    else none
  | 1 => if wordBits w 11 8 = 0 ∧ wordBits w 22 3 = 0 then some (.fst (wordFin 8 w 19) (wordFin 32 w 6))
    else none
  | 2 => if wordBits w 11 11 = 0 then some (.fldlv (wordFin 8 w 22) (wordFin 32 w 6))
    else none
  | 3 => if wordBits w 11 8 = 0 ∧ wordBits w 22 3 = 0 then some (.fscat (wordFin 8 w 19) (wordFin 32 w 6))
    else none
  | _ => none

/-- Major 0x41. -/
def decodeMajor41 (w : Nat) : Option Instr :=
  match wordBits w 0 16 with
  | 0 => some (.fintA (wordFin 8 w 22) (wordFin 8 w 19) (wordFin 8 w 16))
  | 1 => some (.fintB (wordFin 8 w 22) (wordFin 8 w 19) (wordFin 8 w 16))
  | 2 => some (.fintAdd (wordFin 8 w 22) (wordFin 8 w 19) (wordFin 8 w 16))
  | 3 => some (.fintMul (wordFin 8 w 22) (wordFin 8 w 19) (wordFin 8 w 16))
  | 4 => some (.fintMin (wordFin 8 w 22) (wordFin 8 w 19) (wordFin 8 w 16))
  | 5 => some (.fintMax (wordFin 8 w 22) (wordFin 8 w 19) (wordFin 8 w 16))
  | 8 => some (.funiA (wordFin 8 w 22) (wordFin 8 w 19) (wordFin 8 w 16))
  | 9 => some (.funiB (wordFin 8 w 22) (wordFin 8 w 19) (wordFin 8 w 16))
  | 10 => some (.funiAdd (wordFin 8 w 22) (wordFin 8 w 19) (wordFin 8 w 16))
  | 11 => some (.funiMul (wordFin 8 w 22) (wordFin 8 w 19) (wordFin 8 w 16))
  | 12 => some (.funiMin (wordFin 8 w 22) (wordFin 8 w 19) (wordFin 8 w 16))
  | 13 => some (.funiMax (wordFin 8 w 22) (wordFin 8 w 19) (wordFin 8 w 16))
  | 16 => some (.fmrg (wordFin 8 w 22) (wordFin 8 w 19) (wordFin 8 w 16))
  | 17 => if wordBits w 16 3 = 0 then some (.fsort (wordFin 8 w 22) (wordFin 8 w 19))
    else none
  | 24 => if wordBits w 16 3 = 0 then some (.fsortA (wordFin 8 w 22) (wordFin 8 w 19))
    else none
  | 25 => if wordBits w 16 3 = 0 then some (.fsortB (wordFin 8 w 22) (wordFin 8 w 19))
    else none
  | 26 => if wordBits w 16 3 = 0 then some (.fsortAdd (wordFin 8 w 22) (wordFin 8 w 19))
    else none
  | 27 => if wordBits w 16 3 = 0 then some (.fsortMul (wordFin 8 w 22) (wordFin 8 w 19))
    else none
  | 28 => if wordBits w 16 3 = 0 then some (.fsortMin (wordFin 8 w 22) (wordFin 8 w 19))
    else none
  | 29 => if wordBits w 16 3 = 0 then some (.fsortMax (wordFin 8 w 22) (wordFin 8 w 19))
    else none
  | _ => none

/-- Major 0x42. -/
def decodeMajor42 (w : Nat) : Option Instr :=
  match wordBits w 0 6 with
  | 0 => if wordBits w 6 5 = 0 ∧ wordBits w 15 4 = 0 then some (.fcpt (wordFin 8 w 22) (wordFin 8 w 19) (wordFin 16 w 11))
    else none
  | 1 => if wordBits w 6 13 = 0 then some (.fcptZ (wordFin 8 w 22) (wordFin 8 w 19))
    else none
  | 2 => if wordBits w 16 3 = 0 ∧ wordBits w 22 3 = 0 then some (.fexp (wordFin 8 w 19) (wordFin 32 w 11) (wordFin 32 w 6))
    else none
  | 3 => if wordBits w 16 6 = 0 then some (.ffromv (wordFin 8 w 22) (wordFin 32 w 11) (wordFin 32 w 6))
    else none
  | 4 => if wordBits w 6 5 = 0 ∧ wordBits w 16 3 = 0 ∧ wordBits w 22 3 = 0 then some (.fcrd (wordFin 8 w 19) (wordFin 32 w 11))
    else none
  | 5 => if wordBits w 6 5 = 0 ∧ wordBits w 16 3 = 0 ∧ wordBits w 22 3 = 0 then some (.fval (wordFin 8 w 19) (wordFin 32 w 11))
    else none
  | 6 => if wordBits w 6 13 = 0 ∧ wordBits w 23 2 = 3 then some (.fcnt (wordFin 2 w 22) (wordFin 8 w 19))
    else none
  | _ => none

/-- Major 0x48. -/
def decodeMajor48 (w : Nat) : Option Instr :=
  match wordBits w 0 7 with
  | 0 => if wordBits w 12 5 = 0 then some (.mmaT (wordFin 8 w 22) (wordFin 32 w 17) (wordFin 32 w 7))
    else none
  | 1 => if wordBits w 12 5 = 0 then some (.mmaM (wordFin 8 w 22) (wordFin 32 w 17) (wordFin 32 w 7))
    else none
  | 2 => some (.mmaxT (wordFin 8 w 22) (wordFin 32 w 17) (wordFin 32 w 12) (wordFin 32 w 7))
  | 3 => some (.mmaxM (wordFin 8 w 22) (wordFin 32 w 17) (wordFin 32 w 12) (wordFin 32 w 7))
  | 4 => some (.mmasT (wordFin 8 w 22) (wordFin 32 w 17) (wordFin 32 w 12) (wordFin 32 w 7))
  | 5 => some (.mmasM (wordFin 8 w 22) (wordFin 32 w 17) (wordFin 32 w 12) (wordFin 32 w 7))
  | _ => none

/-- Major 0x49. -/
def decodeMajor49 (w : Nat) : Option Instr :=
  match wordBits w 0 7 with
  | 0 => if wordBits w 12 13 = 0 then some (.tshape (wordFin 32 w 7))
    else none
  | _ => none

/-- Major 0x4A. -/
def decodeMajor4A (w : Nat) : Option Instr :=
  match wordBits w 0 7 with
  | 0 => if wordBits w 12 10 = 0 then some (.accz (wordFin 8 w 22) (wordFin 32 w 7))
    else none
  | 1 => if wordBits w 12 10 = 0 then some (.accld (wordFin 8 w 22) (wordFin 32 w 7))
    else none
  | 2 => if wordBits w 12 10 = 0 then some (.accst (wordFin 8 w 22) (wordFin 32 w 7))
    else none
  | 3 => if wordBits w 12 5 = 0 then some (.accrd (wordFin 8 w 22) (wordFin 32 w 17) (wordFin 32 w 7))
    else none
  | 4 => if wordBits w 12 5 = 0 then some (.accwr (wordFin 8 w 22) (wordFin 32 w 17) (wordFin 32 w 7))
    else none
  | 5 => if wordBits w 12 5 = 0 then some (.acccvt (wordFin 8 w 22) (wordFin 32 w 17) (wordFin 32 w 7))
    else none
  | 6 => if wordBits w 12 10 = 0 then some (.accred (wordFin 8 w 22) (wordFin 32 w 7))
    else none
  | 8 => if wordBits w 8 14 = 3 then some (.accrdD (wordFin 8 w 22) (wordFin 2 w 7))
    else none
  | 9 => if wordBits w 12 10 = 0 then some (.accwrD (wordFin 8 w 22) (wordFin 32 w 7))
    else none
  | _ => none

/-- Major 0x4B. -/
def decodeMajor4B (w : Nat) : Option Instr :=
  if wordBits w 0 7 = 0 ∧ wordBits w 12 5 = 0 then some (.tluf (wordFin 8 w 22) (wordFin 32 w 17) (wordFin 32 w 7))
  else if wordBits w 0 7 = 1 ∧ wordBits w 12 10 = 0 then some (.tchol (wordFin 8 w 22) (wordFin 32 w 7))
  else if wordBits w 0 7 = 8 ∧ wordBits w 15 7 = 0 then some (.ttrsL (wordFin 8 w 22) (wordFin 8 w 12) (wordFin 32 w 7))
  else if wordBits w 0 7 = 9 ∧ wordBits w 15 7 = 0 then some (.ttrsU (wordFin 8 w 22) (wordFin 8 w 12) (wordFin 32 w 7))
  else if wordBits w 0 7 = 10 ∧ wordBits w 15 7 = 0 then some (.ttrsL1 (wordFin 8 w 22) (wordFin 8 w 12) (wordFin 32 w 7))
  else if wordBits w 0 7 = 11 ∧ wordBits w 15 7 = 0 then some (.ttrsU1 (wordFin 8 w 22) (wordFin 8 w 12) (wordFin 32 w 7))
  else if wordBits w 0 7 = 12 ∧ wordBits w 15 2 = 0 then some (.ttrsLp (wordFin 8 w 22) (wordFin 32 w 17) (wordFin 8 w 12) (wordFin 32 w 7))
  else if wordBits w 0 7 = 14 ∧ wordBits w 15 2 = 0 then some (.ttrsL1p (wordFin 8 w 22) (wordFin 32 w 17) (wordFin 8 w 12) (wordFin 32 w 7))
  else if wordBits w 1 6 = 8 ∧ wordBits w 15 2 = 0 ∧ wordBits w 20 2 = 0 then some (.tres (wordFin 8 w 22) (wordFin 8 w 17) (wordFin 8 w 12) (wordFin 32 w 7) (wordFin 2 w 0))
  else if wordBits w 1 6 = 12 ∧ wordBits w 12 5 = 0 ∧ wordBits w 24 1 = 0 then some (.titer (wordFin 4 w 22) (wordFin 32 w 17) (wordFin 32 w 7) (wordFin 2 w 0))
  else none

/-- Major 0x50. -/
def decodeMajor50 (w : Nat) : Option Instr :=
  match wordBits w 0 7 with
  | 0 => if wordBits w 7 3 = 0 ∧ wordBits w 15 10 = 0 then some (.ctas (wordFin 32 w 10))
    else none
  | 1 => if wordBits w 7 3 = 0 ∧ wordBits w 15 10 = 0 then some (.cclr (wordFin 32 w 10))
    else none
  | 2 => if wordBits w 7 3 = 0 ∧ wordBits w 14 6 = 0 then some (.crd (wordFin 32 w 20) (wordFin 16 w 10))
    else none
  | 3 => if wordBits w 7 3 = 0 ∧ wordBits w 14 1 = 0 ∧ wordBits w 20 5 = 0 then some (.cwr (wordFin 32 w 15) (wordFin 16 w 10))
    else none
  | 8 => if wordBits w 14 1 = 0 ∧ wordBits w 20 5 = 0 then some (.bar (wordFin 32 w 15) (wordFin 16 w 10) (wordFin 8 w 7))
    else none
  | _ => none

/-- Major 0x51. -/
def decodeMajor51 (w : Nat) : Option Instr :=
  match wordBits w 0 7 with
  | 0 => if wordBits w 7 18 = 0 then some .fenceAv
    else none
  | 1 => if wordBits w 7 18 = 0 then some .fenceVa
    else none
  | 2 => if wordBits w 7 18 = 0 then some .fenceVv
    else none
  | 3 => if wordBits w 7 18 = 0 then some .fenceAll
    else none
  | 4 => if wordBits w 10 5 = 0 ∧ wordBits w 18 2 = 0 ∧ wordBits w 23 2 = 0 then some (.xfence (wordFin 8 w 20) (wordFin 8 w 15) (wordFin 8 w 7))
    else none
  | _ => none

/-- Major 0x52. -/
def decodeMajor52 (w : Nat) : Option Instr :=
  match wordBits w 0 7 with
  | 0 => if wordBits w 7 3 = 0 ∧ wordBits w 20 5 = 0 then some (.siginc (wordFin 32 w 15) (wordFin 32 w 10))
    else none
  | 1 => if wordBits w 20 5 = 0 then some (.sigincR (wordFin 32 w 15) (wordFin 32 w 10) (wordFin 8 w 7))
    else none
  | 2 => some (.sigwait (wordFin 32 w 20) (wordFin 32 w 15) (wordFin 32 w 10) (wordFin 8 w 7))
  | _ => none

/-- Major 0x53. -/
def decodeMajor53 (w : Nat) : Option Instr :=
  match wordBits w 0 15 with
  | 0 => if wordBits w 15 5 = 0 then some (.timerd (wordFin 32 w 20))
    else none
  | 1 => some (.waitt (wordFin 32 w 20) (wordFin 32 w 15))
  | _ => none

/-- Major 0x54. -/
def decodeMajor54 (w : Nat) : Option Instr :=
  match wordBits w 0 10 with
  | 0 => some (.bnkopAdd (wordFin 32 w 20) (wordFin 32 w 15) (wordFin 32 w 10))
  | 1 => some (.bnkopMin (wordFin 32 w 20) (wordFin 32 w 15) (wordFin 32 w 10))
  | 2 => some (.bnkopMax (wordFin 32 w 20) (wordFin 32 w 15) (wordFin 32 w 10))
  | 3 => some (.bnkopMinn (wordFin 32 w 20) (wordFin 32 w 15) (wordFin 32 w 10))
  | 4 => some (.bnkopMaxn (wordFin 32 w 20) (wordFin 32 w 15) (wordFin 32 w 10))
  | 5 => some (.bnkopAnd (wordFin 32 w 20) (wordFin 32 w 15) (wordFin 32 w 10))
  | 6 => some (.bnkopOr (wordFin 32 w 20) (wordFin 32 w 15) (wordFin 32 w 10))
  | 7 => some (.bnkopXor (wordFin 32 w 20) (wordFin 32 w 15) (wordFin 32 w 10))
  | 8 => some (.bnkopSwap (wordFin 32 w 20) (wordFin 32 w 15) (wordFin 32 w 10))
  | 9 => some (.bnkopCas (wordFin 32 w 20) (wordFin 32 w 15) (wordFin 32 w 10))
  | 10 => some (.bnkopFadd32 (wordFin 32 w 20) (wordFin 32 w 15) (wordFin 32 w 10))
  | 11 => some (.bnkopFadd64 (wordFin 32 w 20) (wordFin 32 w 15) (wordFin 32 w 10))
  | 16 => if wordBits w 10 5 = 0 then some (.bnkrdF32 (wordFin 32 w 20) (wordFin 32 w 15))
    else none
  | 17 => if wordBits w 10 5 = 0 then some (.bnkrdBf16 (wordFin 32 w 20) (wordFin 32 w 15))
    else none
  | 18 => if wordBits w 10 5 = 0 then some (.bnkrdF64 (wordFin 32 w 20) (wordFin 32 w 15))
    else none
  | 20 => if wordBits w 10 5 = 0 then some (.bnkrdF32Z (wordFin 32 w 20) (wordFin 32 w 15))
    else none
  | 21 => if wordBits w 10 5 = 0 then some (.bnkrdBf16Z (wordFin 32 w 20) (wordFin 32 w 15))
    else none
  | 22 => if wordBits w 10 5 = 0 then some (.bnkrdF64Z (wordFin 32 w 20) (wordFin 32 w 15))
    else none
  | _ => none

/-- Major 0x58. -/
def decodeMajor58 (w : Nat) : Option Instr :=
  match wordBits w 0 10 with
  | 0 => if wordBits w 10 5 = 0 then some (.gstr (wordFin 32 w 20) (wordFin 32 w 15))
    else none
  | 1 => if wordBits w 10 5 = 0 ∧ wordBits w 20 5 = 0 then some (.gstop (wordFin 32 w 15))
    else none
  | 4 => some (.copy (wordFin 32 w 20) (wordFin 32 w 15) (wordFin 32 w 10))
  | 5 => some (.copyMt (wordFin 32 w 20) (wordFin 32 w 15) (wordFin 32 w 10))
  | 6 => some (.copyTm (wordFin 32 w 20) (wordFin 32 w 15) (wordFin 32 w 10))
  | 7 => some (.copyTt (wordFin 32 w 20) (wordFin 32 w 15) (wordFin 32 w 10))
  | 8 => if wordBits w 10 5 = 0 ∧ wordBits w 23 2 = 0 then some (.cplw (wordFin 8 w 20) (wordFin 32 w 15))
    else none
  | 9 => if wordBits w 23 2 = 0 then some (.oncpl (wordFin 8 w 20) (wordFin 32 w 15) (wordFin 32 w 10))
    else none
  | 10 => if wordBits w 10 15 = 0 then some .upret
    else none
  | 16 => if wordBits w 20 5 = 0 then some (.resid (wordFin 32 w 15) (wordFin 32 w 10))
    else none
  | 17 => if wordBits w 10 5 = 0 ∧ wordBits w 20 5 = 0 then some (.demote (wordFin 32 w 15))
    else none
  | 18 => if wordBits w 20 5 = 0 then some (.discard (wordFin 32 w 15) (wordFin 32 w 10))
    else none
  | 19 => if wordBits w 22 3 = 0 then some (.pghint (wordFin 4 w 20) (wordFin 32 w 15) (wordFin 32 w 10))
    else none
  | _ => none

/-- Major 0x59. -/
def decodeMajor59 (w : Nat) : Option Instr :=
  some (.gath (wordFin 32 w 20) (wordFin 32 w 15) (wordFin 32 w 10) (wordFin 16 w 6) (wordBits w 5 1 == 1) (wordFin 2 w 4) (wordFin 16 w 0))

/-- Major 0x5A. -/
def decodeMajor5A (w : Nat) : Option Instr :=
  if wordBits w 3 2 = 0 ∧ wordBits w 10 5 = 0 then some (.rstv (wordFin 32 w 20) (wordFin 32 w 15) (wordFin 16 w 6) (wordBits w 5 1 == 1) (wordFin 2 w 2) (wordFin 4 w 0))
  else if wordBits w 3 2 = 1 then some (.rstvMc (wordFin 32 w 20) (wordFin 32 w 15) (wordFin 32 w 10) (wordFin 16 w 6) (wordBits w 5 1 == 1) (wordFin 2 w 2) (wordFin 4 w 0))
  else if wordBits w 0 2 = 0 ∧ wordBits w 3 2 = 2 ∧ wordBits w 10 5 = 0 then some (.rstvAdd (wordFin 32 w 20) (wordFin 32 w 15) (wordFin 16 w 6) (wordBits w 5 1 == 1) (wordFin 2 w 2))
  else none

/-- Major 0x5B. -/
def decodeMajor5B (w : Nat) : Option Instr :=
  match wordBits w 0 5 with
  | 0 => some (.bnkexa (wordFin 32 w 20) (wordFin 32 w 15) (wordFin 32 w 10) (wordFin 16 w 6) (wordBits w 5 1 == 1))
  | _ => none

/-- Major 0x5E. -/
def decodeMajor5E (w : Nat) : Option Instr :=
  match wordBits w 0 10 with
  | 0 => some (.ccfg (wordFin 32 w 20) (wordFin 32 w 15) (wordFin 32 w 10))
  | 1 => some (.cap (wordFin 32 w 20) (wordFin 32 w 15) (wordFin 32 w 10))
  | 2 => some (.capP (wordFin 32 w 20) (wordFin 32 w 15) (wordFin 32 w 10))
  | 3 => some (.cslot (wordFin 32 w 20) (wordFin 32 w 15) (wordFin 32 w 10))
  | 4 => some (.cslotFree (wordFin 32 w 20) (wordFin 32 w 15) (wordFin 32 w 10))
  | 5 => if wordBits w 10 5 = 0 then some (.ctake (wordFin 32 w 20) (wordFin 32 w 15))
    else none
  | 6 => some (.cstat (wordFin 32 w 20) (wordFin 32 w 15) (wordFin 32 w 10))
  | _ => none

/-- Major 0x5F. -/
def decodeMajor5F (w : Nat) : Option Instr :=
  match wordBits w 0 2 with
  | 0 => if wordBits w 3 8 = 0 then some (.cdep (wordFin 32 w 20) (wordFin 32 w 15) (wordFin 16 w 11) (wordFin 2 w 2))
    else none
  | _ => none

/-- Major 0x60. -/
def decodeMajor60 (w : Nat) : Option Instr :=
  if wordBits w 3 4 = 0 then some (.fadd (wordFin 32 w 20) (wordFin 32 w 15) (wordFin 32 w 10) (wordFin 8 w 7) (wordFin 8 w 0))
  else if wordBits w 3 4 = 1 then some (.fsub (wordFin 32 w 20) (wordFin 32 w 15) (wordFin 32 w 10) (wordFin 8 w 7) (wordFin 8 w 0))
  else if wordBits w 3 4 = 2 then some (.fmul (wordFin 32 w 20) (wordFin 32 w 15) (wordFin 32 w 10) (wordFin 8 w 7) (wordFin 8 w 0))
  else if wordBits w 3 4 = 3 then some (.ffma (wordFin 32 w 20) (wordFin 32 w 15) (wordFin 32 w 10) (wordFin 8 w 7) (wordFin 8 w 0))
  else if wordBits w 3 4 = 4 then some (.fdiv (wordFin 32 w 20) (wordFin 32 w 15) (wordFin 32 w 10) (wordFin 8 w 7) (wordFin 8 w 0))
  else if wordBits w 3 4 = 5 ∧ wordBits w 10 5 = 0 then some (.fsqrt (wordFin 32 w 20) (wordFin 32 w 15) (wordFin 8 w 7) (wordFin 8 w 0))
  else if wordBits w 3 7 = 6 then some (.fcmp (wordFin 32 w 20) (wordFin 32 w 15) (wordFin 32 w 10) (wordFin 8 w 0))
  else if wordBits w 3 4 = 7 ∧ wordBits w 13 2 = 0 then some (.fcvt (wordFin 32 w 20) (wordFin 32 w 15) (wordFin 8 w 10) (wordFin 8 w 7) (wordFin 8 w 0))
  else none

/-- Major 0x68. -/
def decodeMajor68 (w : Nat) : Option Instr :=
  if wordBits w 10 10 = 0 then some (.mfs (wordFin 32 w 20) (wordFin 1024 w 0))
  else none

/-- Major 0x69. -/
def decodeMajor69 (w : Nat) : Option Instr :=
  if wordBits w 10 5 = 0 ∧ wordBits w 20 5 = 0 then some (.mts (wordFin 32 w 15) (wordFin 1024 w 0))
  else none

/-- Major 0x6A. -/
def decodeMajor6A (w : Nat) : Option Instr :=
  match wordBits w 0 7 with
  | 1 => if wordBits w 7 18 = 0 then some .tret
    else none
  | 2 => if wordBits w 7 8 = 0 then some (.launch (wordFin 32 w 20) (wordFin 32 w 15))
    else none
  | 3 => if wordBits w 7 8 = 0 then some (.preempt (wordFin 32 w 20) (wordFin 32 w 15))
    else none
  | 4 => if wordBits w 7 3 = 0 then some (.ctxsave (wordFin 32 w 20) (wordFin 32 w 15) (wordFin 32 w 10))
    else none
  | 5 => if wordBits w 7 3 = 0 then some (.ctxload (wordFin 32 w 20) (wordFin 32 w 15) (wordFin 32 w 10))
    else none
  | 6 => if wordBits w 7 3 = 0 then some (.frestore (wordFin 32 w 20) (wordFin 32 w 15) (wordFin 32 w 10))
    else none
  | 7 => if wordBits w 20 5 = 0 then some (.xlinv (wordFin 32 w 15) (wordFin 32 w 10) (wordFin 8 w 7))
    else none
  | 8 => if wordBits w 7 18 = 0 then some .idle
    else none
  | 9 => if wordBits w 7 3 = 0 then some (.setpri (wordFin 32 w 20) (wordFin 32 w 15) (wordFin 32 w 10))
    else none
  | 10 => if wordBits w 7 3 = 0 then some (.lgretire (wordFin 32 w 20) (wordFin 32 w 15) (wordFin 32 w 10))
    else none
  | _ => none

/-- Major 0x7F: the SBLK word (R177, R195). -/
def decodeMajor7F (w : Nat) : Option Instr :=
  if wordBits w 0 15 = 0 then some (.sblk (wordFin 32 w 20) (wordFin 32 w 15)) else none

/-- The instruction that the fields of a word name, before the operand checks of `Instr.wf`. -/
def decodeRaw (w : Nat) : Option Instr :=
  match wordBits w 25 7 with
  | 0x00 => decodeMajor00 w
  | 0x01 => decodeMajor01 w
  | 0x02 => decodeMajor02 w
  | 0x03 => decodeMajor03 w
  | 0x04 => decodeMajor04 w
  | 0x05 => decodeMajor05 w
  | 0x06 => decodeMajor06 w
  | 0x07 => decodeMajor07 w
  | 0x08 => decodeMajor08 w
  | 0x09 => decodeMajor09 w
  | 0x0A => decodeMajor0A w
  | 0x0B => decodeMajor0B w
  | 0x0C => decodeMajor0C w
  | 0x0D => decodeMajor0D w
  | 0x0E => decodeMajor0E w
  | 0x0F => decodeMajor0F w
  | 0x10 => decodeMajor10 w
  | 0x11 => decodeMajor11 w
  | 0x12 => decodeMajor12 w
  | 0x13 => decodeMajor13 w
  | 0x14 => decodeMajor14 w
  | 0x15 => decodeMajor15 w
  | 0x16 => decodeMajor16 w
  | 0x17 => decodeMajor17 w
  | 0x18 => decodeMajor18 w
  | 0x19 => decodeMajor19 w
  | 0x1A => decodeMajor1A w
  | 0x1B => decodeMajor1B w
  | 0x1C => decodeMajor1C w
  | 0x1D => decodeMajor1D w
  | 0x1E => decodeMajor1E w
  | 0x1F => decodeMajor1F w
  | 0x20 => decodeMajor20 w
  | 0x21 => decodeMajor21 w
  | 0x22 => decodeMajor22 w
  | 0x23 => decodeMajor23 w
  | 0x24 => decodeMajor24 w
  | 0x25 => decodeMajor25 w
  | 0x26 => decodeMajor26 w
  | 0x27 => decodeMajor27 w
  | 0x28 => decodeMajor28 w
  | 0x30 => decodeMajor30 w
  | 0x31 => decodeMajor31 w
  | 0x38 => decodeMajor38 w
  | 0x3A => decodeMajor3A w
  | 0x3B => decodeMajor3B w
  | 0x3C => decodeMajor3C w
  | 0x3D => decodeMajor3D w
  | 0x3E => decodeMajor3E w
  | 0x3F => decodeMajor3F w
  | 0x40 => decodeMajor40 w
  | 0x41 => decodeMajor41 w
  | 0x42 => decodeMajor42 w
  | 0x48 => decodeMajor48 w
  | 0x49 => decodeMajor49 w
  | 0x4A => decodeMajor4A w
  | 0x4B => decodeMajor4B w
  | 0x50 => decodeMajor50 w
  | 0x51 => decodeMajor51 w
  | 0x52 => decodeMajor52 w
  | 0x53 => decodeMajor53 w
  | 0x54 => decodeMajor54 w
  | 0x58 => decodeMajor58 w
  | 0x59 => decodeMajor59 w
  | 0x5A => decodeMajor5A w
  | 0x5B => decodeMajor5B w
  | 0x5E => decodeMajor5E w
  | 0x5F => decodeMajor5F w
  | 0x60 => decodeMajor60 w
  | 0x68 => decodeMajor68 w
  | 0x69 => decodeMajor69 w
  | 0x6A => decodeMajor6A w
  | 0x7F => decodeMajor7F w
  | _ => none

/-- The part of the decoder that a replay or a Sirmal block needs (R176, R195): the majors whose words a body may hold. -/
def decodeBody (w : Nat) : Option Instr :=
  match wordBits w 25 7 with
  | 0x00 => decodeMajor00 w
  | 0x01 => decodeMajor01 w
  | 0x02 => decodeMajor02 w
  | 0x03 => decodeMajor03 w
  | 0x04 => decodeMajor04 w
  | 0x05 => decodeMajor05 w
  | 0x06 => decodeMajor06 w
  | 0x07 => decodeMajor07 w
  | 0x08 => decodeMajor08 w
  | 0x09 => decodeMajor09 w
  | 0x0A => decodeMajor0A w
  | 0x1F => decodeMajor1F w
  | 0x20 => decodeMajor20 w
  | 0x21 => decodeMajor21 w
  | 0x22 => decodeMajor22 w
  | 0x23 => decodeMajor23 w
  | 0x24 => decodeMajor24 w
  | 0x25 => decodeMajor25 w
  | 0x26 => decodeMajor26 w
  | 0x27 => decodeMajor27 w
  | 0x28 => decodeMajor28 w
  | 0x30 => decodeMajor30 w
  | 0x31 => decodeMajor31 w
  | 0x38 => decodeMajor38 w
  | 0x3A => decodeMajor3A w
  | 0x3B => decodeMajor3B w
  | 0x3C => decodeMajor3C w
  | 0x3D => decodeMajor3D w
  | 0x3E => decodeMajor3E w
  | 0x3F => decodeMajor3F w
  | 0x40 => decodeMajor40 w
  | 0x41 => decodeMajor41 w
  | 0x42 => decodeMajor42 w
  | 0x48 => decodeMajor48 w
  | 0x49 => decodeMajor49 w
  | 0x4A => decodeMajor4A w
  | 0x4B => decodeMajor4B w
  | 0x5A => decodeMajor5A w
  | 0x5B => decodeMajor5B w
  | 0x5F => decodeMajor5F w
  | _ => none

/-- How a word that is no instruction is refused (R187, R189). -/
def decodeFailure (w : Nat) : DecodeError :=
  if 0x78 ≤ wordBits w 25 7 ∧ wordBits w 25 7 ≤ 0x7E then .reservedSpace
  else if 0x68 ≤ wordBits w 25 7 ∧ wordBits w 25 7 ≤ 0x6F then .systemUnassigned
  else .illegal

/-- The decoder: an instruction word to its instruction, or the reason it is none. -/
def decodeWord (w : Nat) : Except DecodeError Instr :=
  match decodeRaw w with
  | some i => if i.wf then .ok i else .error (decodeFailure w)
  | none => .error (decodeFailure w)

/-- A word from its four bytes, the lowest address first (R2). -/
def wordOfBytes (b0 b1 b2 b3 : Byte) : Nat :=
  b0.toNat + b1.toNat * 2 ^ 8 + b2.toNat * 2 ^ 16 + b3.toNat * 2 ^ 24

/-- The four bytes of a word, the lowest address first (R2). -/
def bytesOfWord (w : Nat) : List Byte :=
  [BitVec.ofNat 8 w, BitVec.ofNat 8 (w / 2 ^ 8), BitVec.ofNat 8 (w / 2 ^ 16), BitVec.ofNat 8 (w / 2 ^ 24)]

/-- Decoding from bytes as they lie in memory: exactly four of them make a word. -/
def decodeBytes (bs : List Byte) : Except DecodeError Instr :=
  match bs with
  | [b0, b1, b2, b3] => decodeWord (wordOfBytes b0 b1 b2 b3)
  | _ => .error .illegal

/-- The instruction the decoder reads from a word given as the opcode table numbers its bits; the bits from `nbits` up
are zero. -/
def decodeTableWord (nbits w : Nat) : Option Instr :=
  match decodeBytes (bytesOfWord (w % 2 ^ nbits)) with
  | .ok i => some i
  | .error _ => none

/-- How many bits a list of fields takes. -/
def packWidth : List (Nat × Nat) → Nat
  | [] => 0
  | f :: r => f.2 + packWidth r

/-- A word from its fields, from bit 31 down, each a value with its width in bits. -/
def packWord : List (Nat × Nat) → Nat
  | [] => 0
  | f :: r => f.1 * 2 ^ packWidth r + packWord r

/-- The word of an instruction, from the encoding tables (R184, R185).  LAUNCH_ABORT is encoded as LAUNCH; an event has no
word and is given the all-zero word, which decodes to nothing (R187). -/
def encode (i : Instr) : Nat :=
  match i with
  | .add d a b => packWord [(0x00, 7), (d.val, 5), (a.val, 5), (b.val, 5), (1, 10)]
  | .sub d a b => packWord [(0x00, 7), (d.val, 5), (a.val, 5), (b.val, 5), (2, 10)]
  | .mul d a b => packWord [(0x00, 7), (d.val, 5), (a.val, 5), (b.val, 5), (3, 10)]
  | .mulh d a b => packWord [(0x00, 7), (d.val, 5), (a.val, 5), (b.val, 5), (4, 10)]
  | .mulhn d a b => packWord [(0x00, 7), (d.val, 5), (a.val, 5), (b.val, 5), (5, 10)]
  | .div d a b => packWord [(0x00, 7), (d.val, 5), (a.val, 5), (b.val, 5), (6, 10)]
  | .divn d a b => packWord [(0x00, 7), (d.val, 5), (a.val, 5), (b.val, 5), (7, 10)]
  | .rem d a b => packWord [(0x00, 7), (d.val, 5), (a.val, 5), (b.val, 5), (8, 10)]
  | .remn d a b => packWord [(0x00, 7), (d.val, 5), (a.val, 5), (b.val, 5), (9, 10)]
  | .and d a b => packWord [(0x00, 7), (d.val, 5), (a.val, 5), (b.val, 5), (10, 10)]
  | .or d a b => packWord [(0x00, 7), (d.val, 5), (a.val, 5), (b.val, 5), (11, 10)]
  | .xor d a b => packWord [(0x00, 7), (d.val, 5), (a.val, 5), (b.val, 5), (12, 10)]
  | .shl d a b => packWord [(0x00, 7), (d.val, 5), (a.val, 5), (b.val, 5), (13, 10)]
  | .shr d a b => packWord [(0x00, 7), (d.val, 5), (a.val, 5), (b.val, 5), (14, 10)]
  | .sra d a b => packWord [(0x00, 7), (d.val, 5), (a.val, 5), (b.val, 5), (15, 10)]
  | .slt d a b => packWord [(0x00, 7), (d.val, 5), (a.val, 5), (b.val, 5), (16, 10)]
  | .sltn d a b => packWord [(0x00, 7), (d.val, 5), (a.val, 5), (b.val, 5), (17, 10)]
  | .min d a b => packWord [(0x00, 7), (d.val, 5), (a.val, 5), (b.val, 5), (18, 10)]
  | .max d a b => packWord [(0x00, 7), (d.val, 5), (a.val, 5), (b.val, 5), (19, 10)]
  | .clz d a => packWord [(0x00, 7), (d.val, 5), (a.val, 5), (0, 5), (20, 10)]
  | .ctz d a => packWord [(0x00, 7), (d.val, 5), (a.val, 5), (0, 5), (21, 10)]
  | .popc d a => packWord [(0x00, 7), (d.val, 5), (a.val, 5), (0, 5), (22, 10)]
  | .ldl d a => packWord [(0x00, 7), (d.val, 5), (a.val, 5), (0, 5), (32, 10)]
  | .stc d a b => packWord [(0x00, 7), (d.val, 5), (a.val, 5), (b.val, 5), (33, 10)]
  | .addi d a imm => packWord [(0x01, 7), (d.val, 5), (a.val, 5), (imm.toNat, 15)]
  | .andi d a imm => packWord [(0x02, 7), (d.val, 5), (a.val, 5), (imm.toNat, 15)]
  | .ori d a imm => packWord [(0x03, 7), (d.val, 5), (a.val, 5), (imm.toNat, 15)]
  | .xori d a imm => packWord [(0x04, 7), (d.val, 5), (a.val, 5), (imm.toNat, 15)]
  | .shli d a imm => packWord [(0x05, 7), (d.val, 5), (a.val, 5), (0, 9), (imm.toNat, 6)]
  | .shri d a imm => packWord [(0x06, 7), (d.val, 5), (a.val, 5), (0, 9), (imm.toNat, 6)]
  | .srai d a imm => packWord [(0x07, 7), (d.val, 5), (a.val, 5), (0, 9), (imm.toNat, 6)]
  | .slti d a imm => packWord [(0x08, 7), (d.val, 5), (a.val, 5), (imm.toNat, 15)]
  | .lui d imm => packWord [(0x09, 7), (d.val, 5), (0, 5), (imm.toNat, 15)]
  | .addpc d imm => packWord [(0x0A, 7), (d.val, 5), (0, 5), (imm.toNat, 15)]
  | .ldB d a imm => packWord [(0x0B, 7), (d.val, 5), (a.val, 5), (imm.toNat, 15)]
  | .ldH d a imm => packWord [(0x0C, 7), (d.val, 5), (a.val, 5), (imm.toNat, 15)]
  | .ldW d a imm => packWord [(0x0D, 7), (d.val, 5), (a.val, 5), (imm.toNat, 15)]
  | .ldD d a imm => packWord [(0x0E, 7), (d.val, 5), (a.val, 5), (imm.toNat, 15)]
  | .ldBN d a imm => packWord [(0x0F, 7), (d.val, 5), (a.val, 5), (imm.toNat, 15)]
  | .ldHN d a imm => packWord [(0x10, 7), (d.val, 5), (a.val, 5), (imm.toNat, 15)]
  | .ldWN d a imm => packWord [(0x11, 7), (d.val, 5), (a.val, 5), (imm.toNat, 15)]
  | .stB d a imm => packWord [(0x12, 7), (d.val, 5), (a.val, 5), (imm.toNat, 15)]
  | .stH d a imm => packWord [(0x13, 7), (d.val, 5), (a.val, 5), (imm.toNat, 15)]
  | .stW d a imm => packWord [(0x14, 7), (d.val, 5), (a.val, 5), (imm.toNat, 15)]
  | .stD d a imm => packWord [(0x15, 7), (d.val, 5), (a.val, 5), (imm.toNat, 15)]
  | .srd d n => packWord [(0x16, 7), (d.val, 5), (0, 10), (n.val, 10)]
  | .swr a n => packWord [(0x17, 7), (0, 5), (a.val, 5), (0, 5), (n.val, 10)]
  | .beq a b off => packWord [(0x18, 7), (a.val, 5), (b.val, 5), (off.toNat, 15)]
  | .bne a b off => packWord [(0x19, 7), (a.val, 5), (b.val, 5), (off.toNat, 15)]
  | .blt a b off => packWord [(0x1A, 7), (a.val, 5), (b.val, 5), (off.toNat, 15)]
  | .bge a b off => packWord [(0x1B, 7), (a.val, 5), (b.val, 5), (off.toNat, 15)]
  | .bltn a b off => packWord [(0x1C, 7), (a.val, 5), (b.val, 5), (off.toNat, 15)]
  | .bgen a b off => packWord [(0x1D, 7), (a.val, 5), (b.val, 5), (off.toNat, 15)]
  | .jal off => packWord [(0x1E, 7), (off.toNat, 25)]
  | .jalr d a => packWord [(0x1F, 7), (d.val, 5), (a.val, 5), (0, 5), (1, 10)]
  | .loop h a l => packWord [(0x1F, 7), (h.val, 5), (a.val, 5), (l.val, 5), (2, 10)]
  | .vrep l a => packWord [(0x1F, 7), (l.val, 5), (a.val, 5), (0, 5), (3, 10)]
  | .yield => packWord [(0x1F, 7), (0, 15), (4, 10)]
  | .sexit => packWord [(0x1F, 7), (0, 15), (5, 10)]
  | .scall h l => packWord [(0x1F, 7), (h.val, 5), (0, 5), (l.val, 5), (6, 10)]
  | .brk h l => packWord [(0x1F, 7), (h.val, 5), (0, 5), (l.val, 5), (7, 10)]
  | .qw q a => packWord [(0x1F, 7), (q.val, 5), (a.val, 5), (0, 5), (16, 10)]
  | .qr d q => packWord [(0x1F, 7), (d.val, 5), (q.val, 5), (0, 5), (17, 10)]
  | .qpeek d q => packWord [(0x1F, 7), (d.val, 5), (q.val, 5), (0, 5), (18, 10)]
  | .qstat d q => packWord [(0x1F, 7), (d.val, 5), (q.val, 5), (0, 5), (19, 10)]
  | .vadd d a b mk me => packWord [(0x20, 7), (d.val, 5), (a.val, 5), (b.val, 5), (mk.val, 4), (me.toNat, 1), (0, 5)]
  | .vsub d a b mk me => packWord [(0x20, 7), (d.val, 5), (a.val, 5), (b.val, 5), (mk.val, 4), (me.toNat, 1), (1, 5)]
  | .vmul d a b mk me => packWord [(0x20, 7), (d.val, 5), (a.val, 5), (b.val, 5), (mk.val, 4), (me.toNat, 1), (2, 5)]
  | .vdiv d a b mk me => packWord [(0x20, 7), (d.val, 5), (a.val, 5), (b.val, 5), (mk.val, 4), (me.toNat, 1), (3, 5)]
  | .vmin d a b mk me => packWord [(0x20, 7), (d.val, 5), (a.val, 5), (b.val, 5), (mk.val, 4), (me.toNat, 1), (4, 5)]
  | .vmax d a b mk me => packWord [(0x20, 7), (d.val, 5), (a.val, 5), (b.val, 5), (mk.val, 4), (me.toNat, 1), (5, 5)]
  | .vand d a b mk me => packWord [(0x20, 7), (d.val, 5), (a.val, 5), (b.val, 5), (mk.val, 4), (me.toNat, 1), (6, 5)]
  | .vor d a b mk me => packWord [(0x20, 7), (d.val, 5), (a.val, 5), (b.val, 5), (mk.val, 4), (me.toNat, 1), (7, 5)]
  | .vxor d a b mk me => packWord [(0x20, 7), (d.val, 5), (a.val, 5), (b.val, 5), (mk.val, 4), (me.toNat, 1), (8, 5)]
  | .vshl d a b mk me => packWord [(0x20, 7), (d.val, 5), (a.val, 5), (b.val, 5), (mk.val, 4), (me.toNat, 1), (9, 5)]
  | .vshr d a b mk me => packWord [(0x20, 7), (d.val, 5), (a.val, 5), (b.val, 5), (mk.val, 4), (me.toNat, 1), (10, 5)]
  | .vsra d a b mk me => packWord [(0x20, 7), (d.val, 5), (a.val, 5), (b.val, 5), (mk.val, 4), (me.toNat, 1), (11, 5)]
  | .vwmul d a b mk me => packWord [(0x20, 7), (d.val, 5), (a.val, 5), (b.val, 5), (mk.val, 4), (me.toNat, 1), (12, 5)]
  | .vwadd d a b mk me => packWord [(0x20, 7), (d.val, 5), (a.val, 5), (b.val, 5), (mk.val, 4), (me.toNat, 1), (13, 5)]
  | .vfma d a b mk me => packWord [(0x21, 7), (d.val, 5), (a.val, 5), (b.val, 5), (mk.val, 4), (me.toNat, 1), (0, 5)]
  | .vfms d a b mk me => packWord [(0x21, 7), (d.val, 5), (a.val, 5), (b.val, 5), (mk.val, 4), (me.toNat, 1), (1, 5)]
  | .vfnma d a b mk me => packWord [(0x21, 7), (d.val, 5), (a.val, 5), (b.val, 5), (mk.val, 4), (me.toNat, 1), (2, 5)]
  | .vsqrt d a mk me => packWord [(0x22, 7), (d.val, 5), (a.val, 5), (0, 5), (mk.val, 4), (me.toNat, 1), (0, 5)]
  | .vrcp d a mk me => packWord [(0x22, 7), (d.val, 5), (a.val, 5), (0, 5), (mk.val, 4), (me.toNat, 1), (1, 5)]
  | .vabs d a mk me => packWord [(0x22, 7), (d.val, 5), (a.val, 5), (0, 5), (mk.val, 4), (me.toNat, 1), (2, 5)]
  | .vneg d a mk me => packWord [(0x22, 7), (d.val, 5), (a.val, 5), (0, 5), (mk.val, 4), (me.toNat, 1), (3, 5)]
  | .vmov d a mk me => packWord [(0x22, 7), (d.val, 5), (a.val, 5), (0, 5), (mk.val, 4), (me.toNat, 1), (4, 5)]
  | .vclass d a mk me => packWord [(0x22, 7), (d.val, 5), (a.val, 5), (0, 5), (mk.val, 4), (me.toNat, 1), (5, 5)]
  | .viota d mk me => packWord [(0x22, 7), (d.val, 5), (0, 10), (mk.val, 4), (me.toNat, 1), (6, 5)]
  | .vsplat d b mk me => packWord [(0x22, 7), (d.val, 5), (0, 5), (b.val, 5), (mk.val, 4), (me.toNat, 1), (7, 5)]
  | .vmovQ q a b => packWord [(0x22, 7), (3, 4), (q.val, 1), (a.val, 5), (b.val, 5), (0, 5), (8, 5)]
  | .vnarrow d a mk me => packWord [(0x22, 7), (d.val, 5), (a.val, 5), (0, 5), (mk.val, 4), (me.toNat, 1), (9, 5)]
  | .vaddS d a b mk me => packWord [(0x23, 7), (d.val, 5), (a.val, 5), (b.val, 5), (mk.val, 4), (me.toNat, 1), (0, 5)]
  | .vsubS d a b mk me => packWord [(0x23, 7), (d.val, 5), (a.val, 5), (b.val, 5), (mk.val, 4), (me.toNat, 1), (1, 5)]
  | .vmulS d a b mk me => packWord [(0x23, 7), (d.val, 5), (a.val, 5), (b.val, 5), (mk.val, 4), (me.toNat, 1), (2, 5)]
  | .vdivS d a b mk me => packWord [(0x23, 7), (d.val, 5), (a.val, 5), (b.val, 5), (mk.val, 4), (me.toNat, 1), (3, 5)]
  | .vminS d a b mk me => packWord [(0x23, 7), (d.val, 5), (a.val, 5), (b.val, 5), (mk.val, 4), (me.toNat, 1), (4, 5)]
  | .vmaxS d a b mk me => packWord [(0x23, 7), (d.val, 5), (a.val, 5), (b.val, 5), (mk.val, 4), (me.toNat, 1), (5, 5)]
  | .vandS d a b mk me => packWord [(0x23, 7), (d.val, 5), (a.val, 5), (b.val, 5), (mk.val, 4), (me.toNat, 1), (6, 5)]
  | .vorS d a b mk me => packWord [(0x23, 7), (d.val, 5), (a.val, 5), (b.val, 5), (mk.val, 4), (me.toNat, 1), (7, 5)]
  | .vxorS d a b mk me => packWord [(0x23, 7), (d.val, 5), (a.val, 5), (b.val, 5), (mk.val, 4), (me.toNat, 1), (8, 5)]
  | .vshlS d a b mk me => packWord [(0x23, 7), (d.val, 5), (a.val, 5), (b.val, 5), (mk.val, 4), (me.toNat, 1), (9, 5)]
  | .vshrS d a b mk me => packWord [(0x23, 7), (d.val, 5), (a.val, 5), (b.val, 5), (mk.val, 4), (me.toNat, 1), (10, 5)]
  | .vsraS d a b mk me => packWord [(0x23, 7), (d.val, 5), (a.val, 5), (b.val, 5), (mk.val, 4), (me.toNat, 1), (11, 5)]
  | .vwmulS d a b mk me => packWord [(0x23, 7), (d.val, 5), (a.val, 5), (b.val, 5), (mk.val, 4), (me.toNat, 1), (12, 5)]
  | .vwaddS d a b mk me => packWord [(0x23, 7), (d.val, 5), (a.val, 5), (b.val, 5), (mk.val, 4), (me.toNat, 1), (13, 5)]
  | .vfmaS d a b mk me => packWord [(0x24, 7), (d.val, 5), (a.val, 5), (b.val, 5), (mk.val, 4), (me.toNat, 1), (0, 5)]
  | .vfmsS d a b mk me => packWord [(0x24, 7), (d.val, 5), (a.val, 5), (b.val, 5), (mk.val, 4), (me.toNat, 1), (1, 5)]
  | .vfnmaS d a b mk me => packWord [(0x24, 7), (d.val, 5), (a.val, 5), (b.val, 5), (mk.val, 4), (me.toNat, 1), (2, 5)]
  | .vcvt d a t mk me => packWord [(0x25, 7), (d.val, 5), (a.val, 5), (t.val, 5), (mk.val, 4), (me.toNat, 1), (0, 5)]
  | .vqnt d a t mk => packWord [(0x25, 7), (d.val, 5), (a.val, 5), (t.val, 5), (mk.val, 4), (0, 1), (1, 5)]
  | .vdqnt d a t mk => packWord [(0x25, 7), (d.val, 5), (a.val, 5), (t.val, 5), (mk.val, 4), (0, 1), (2, 5)]
  | .vsat d a t mk me => packWord [(0x25, 7), (d.val, 5), (a.val, 5), (t.val, 5), (mk.val, 4), (me.toNat, 1), (3, 5)]
  | .vcmp d a b mk me c => packWord [(0x26, 7), (0, 1), (d.val, 4), (a.val, 5), (b.val, 5), (mk.val, 4), (me.toNat, 1), (0, 2), (c.val, 3)]
  | .vcmpS d a b mk me c => packWord [(0x27, 7), (0, 1), (d.val, 4), (a.val, 5), (b.val, 5), (mk.val, 4), (me.toNat, 1), (0, 2), (c.val, 3)]
  | .vsel d a b mk => packWord [(0x28, 7), (d.val, 5), (a.val, 5), (b.val, 5), (mk.val, 4), (32, 6)]
  | .vmerge d a mk => packWord [(0x28, 7), (d.val, 5), (a.val, 5), (0, 5), (mk.val, 4), (33, 6)]
  | .vld d a mk me => packWord [(0x30, 7), (d.val, 5), (a.val, 5), (0, 5), (mk.val, 4), (me.toNat, 1), (0, 5)]
  | .vlds d a b mk me => packWord [(0x30, 7), (d.val, 5), (a.val, 5), (b.val, 5), (mk.val, 4), (me.toNat, 1), (1, 5)]
  | .vldx d a b mk me => packWord [(0x30, 7), (d.val, 5), (a.val, 5), (b.val, 5), (mk.val, 4), (me.toNat, 1), (2, 5)]
  | .vldxD d a b mk me => packWord [(0x30, 7), (d.val, 5), (a.val, 5), (b.val, 5), (mk.val, 4), (me.toNat, 1), (3, 5)]
  | .vldq q a mk => packWord [(0x30, 7), (2, 4), (q.val, 1), (a.val, 5), (0, 5), (mk.val, 4), (0, 1), (4, 5)]
  | .vldl d a b mk me => packWord [(0x30, 7), (d.val, 5), (a.val, 5), (b.val, 5), (mk.val, 4), (me.toNat, 1), (5, 5)]
  | .vldlD d a b mk me => packWord [(0x30, 7), (d.val, 5), (a.val, 5), (b.val, 5), (mk.val, 4), (me.toNat, 1), (6, 5)]
  | .vldz d a b => packWord [(0x30, 7), (d.val, 5), (a.val, 5), (b.val, 4), (0, 6), (7, 5)]
  | .vpf k a b mk me => packWord [(0x30, 7), (0, 3), (k.val, 2), (a.val, 5), (b.val, 5), (mk.val, 4), (me.toNat, 1), (8, 5)]
  | .vst s a mk me => packWord [(0x31, 7), (s.val, 5), (a.val, 5), (0, 5), (mk.val, 4), (me.toNat, 1), (0, 5)]
  | .vsts s a b mk me => packWord [(0x31, 7), (s.val, 5), (a.val, 5), (b.val, 5), (mk.val, 4), (me.toNat, 1), (1, 5)]
  | .vstx s a b mk me => packWord [(0x31, 7), (s.val, 5), (a.val, 5), (b.val, 5), (mk.val, 4), (me.toNat, 1), (2, 5)]
  | .vstxD s a b mk me => packWord [(0x31, 7), (s.val, 5), (a.val, 5), (b.val, 5), (mk.val, 4), (me.toNat, 1), (3, 5)]
  | .vstc s a mk me => packWord [(0x31, 7), (s.val, 5), (a.val, 5), (0, 5), (mk.val, 4), (me.toNat, 1), (4, 5)]
  | .vscc s a b mk => packWord [(0x31, 7), (s.val, 5), (a.val, 5), (b.val, 5), (mk.val, 4), (1, 1), (5, 5)]
  | .vsccD s a b mk => packWord [(0x31, 7), (s.val, 5), (a.val, 5), (b.val, 5), (mk.val, 4), (1, 1), (6, 5)]
  | .vsetl d a b => packWord [(0x38, 7), (d.val, 5), (a.val, 5), (b.val, 5), (1, 10)]
  | .vsetmf a => packWord [(0x38, 7), (0, 5), (a.val, 5), (0, 5), (2, 10)]
  | .vsplit a b => packWord [(0x38, 7), (0, 5), (a.val, 5), (b.val, 5), (3, 10)]
  | .vfuse => packWord [(0x38, 7), (0, 15), (4, 10)]
  | .mpopv d a mk me => packWord [(0x3A, 7), (d.val, 5), (0, 1), (a.val, 4), (0, 5), (mk.val, 4), (me.toNat, 1), (0, 5)]
  | .mand d a b => packWord [(0x3B, 7), (0, 1), (d.val, 4), (0, 1), (a.val, 4), (0, 1), (b.val, 4), (0, 10)]
  | .mor d a b => packWord [(0x3B, 7), (0, 1), (d.val, 4), (0, 1), (a.val, 4), (0, 1), (b.val, 4), (1, 10)]
  | .mxor d a b => packWord [(0x3B, 7), (0, 1), (d.val, 4), (0, 1), (a.val, 4), (0, 1), (b.val, 4), (2, 10)]
  | .mnot d a => packWord [(0x3B, 7), (0, 1), (d.val, 4), (0, 1), (a.val, 4), (0, 5), (3, 10)]
  | .mset d => packWord [(0x3B, 7), (0, 1), (d.val, 4), (0, 10), (4, 10)]
  | .mclr d => packWord [(0x3B, 7), (0, 1), (d.val, 4), (0, 10), (5, 10)]
  | .mfromfm d => packWord [(0x3B, 7), (0, 1), (d.val, 4), (0, 10), (6, 10)]
  | .mcnt d a => packWord [(0x3B, 7), (d.val, 5), (0, 1), (a.val, 4), (0, 5), (256, 10)]
  | .many d a => packWord [(0x3B, 7), (d.val, 5), (0, 1), (a.val, 4), (0, 5), (257, 10)]
  | .mfirst d a => packWord [(0x3B, 7), (d.val, 5), (0, 1), (a.val, 4), (0, 5), (258, 10)]
  | .vslideup d a b mk me => packWord [(0x3C, 7), (d.val, 5), (a.val, 5), (b.val, 5), (mk.val, 4), (me.toNat, 1), (0, 5)]
  | .vslidedn d a b mk me => packWord [(0x3C, 7), (d.val, 5), (a.val, 5), (b.val, 5), (mk.val, 4), (me.toNat, 1), (1, 5)]
  | .vshuf d a b mk me => packWord [(0x3C, 7), (d.val, 5), (a.val, 5), (b.val, 5), (mk.val, 4), (me.toNat, 1), (2, 5)]
  | .vrev d a mk me => packWord [(0x3C, 7), (d.val, 5), (a.val, 5), (0, 5), (mk.val, 4), (me.toNat, 1), (3, 5)]
  | .vcompress d a mk => packWord [(0x3C, 7), (d.val, 5), (a.val, 5), (0, 5), (mk.val, 4), (1, 1), (4, 5)]
  | .vexpand d a mk => packWord [(0x3C, 7), (d.val, 5), (a.val, 5), (0, 5), (mk.val, 4), (1, 1), (5, 5)]
  | .vscan d a mk me => packWord [(0x3D, 7), (d.val, 5), (a.val, 5), (0, 5), (mk.val, 4), (me.toNat, 1), (0, 5)]
  | .vscanMin d a mk me => packWord [(0x3D, 7), (d.val, 5), (a.val, 5), (0, 5), (mk.val, 4), (me.toNat, 1), (1, 5)]
  | .vscanMax d a mk me => packWord [(0x3D, 7), (d.val, 5), (a.val, 5), (0, 5), (mk.val, 4), (me.toNat, 1), (2, 5)]
  | .vredsum d a b mk me => packWord [(0x3E, 7), (d.val, 5), (a.val, 5), (b.val, 5), (mk.val, 4), (me.toNat, 1), (0, 5)]
  | .vredsumF d a b mk me => packWord [(0x3E, 7), (d.val, 5), (a.val, 5), (b.val, 5), (mk.val, 4), (me.toNat, 1), (1, 5)]
  | .vredmax d a b mk me => packWord [(0x3E, 7), (d.val, 5), (a.val, 5), (b.val, 5), (mk.val, 4), (me.toNat, 1), (2, 5)]
  | .vredmin d a b mk me => packWord [(0x3E, 7), (d.val, 5), (a.val, 5), (b.val, 5), (mk.val, 4), (me.toNat, 1), (3, 5)]
  | .vredsumQ q a b mk me => packWord [(0x3E, 7), (3, 4), (q.val, 1), (a.val, 5), (b.val, 5), (mk.val, 4), (me.toNat, 1), (16, 5)]
  | .vredsumFQ q a b mk me => packWord [(0x3E, 7), (3, 4), (q.val, 1), (a.val, 5), (b.val, 5), (mk.val, 4), (me.toNat, 1), (17, 5)]
  | .vredmaxQ q a b mk me => packWord [(0x3E, 7), (3, 4), (q.val, 1), (a.val, 5), (b.val, 5), (mk.val, 4), (me.toNat, 1), (18, 5)]
  | .vredminQ q a b mk me => packWord [(0x3E, 7), (3, 4), (q.val, 1), (a.val, 5), (b.val, 5), (mk.val, 4), (me.toNat, 1), (19, 5)]
  | .vfold k a mk me => packWord [(0x3F, 7), (0, 3), (k.val, 2), (a.val, 5), (0, 5), (mk.val, 4), (me.toNat, 1), (0, 5)]
  | .vfoldFin d k => packWord [(0x3F, 7), (d.val, 5), (0, 3), (k.val, 2), (0, 10), (1, 5)]
  | .vfoldClr k => packWord [(0x3F, 7), (0, 3), (k.val, 2), (0, 15), (2, 5)]
  | .vfoldFinQ q k => packWord [(0x3F, 7), (3, 4), (q.val, 1), (0, 3), (k.val, 2), (0, 10), (3, 5)]
  | .vconflict d a mk me => packWord [(0x3F, 7), (d.val, 5), (a.val, 5), (0, 5), (mk.val, 4), (me.toNat, 1), (4, 5)]
  | .fld d s => packWord [(0x40, 7), (d.val, 3), (0, 11), (s.val, 5), (0, 6)]
  | .fst a s => packWord [(0x40, 7), (0, 3), (a.val, 3), (0, 8), (s.val, 5), (1, 6)]
  | .fldlv d s => packWord [(0x40, 7), (d.val, 3), (0, 11), (s.val, 5), (2, 6)]
  | .fscat a g => packWord [(0x40, 7), (0, 3), (a.val, 3), (0, 8), (g.val, 5), (3, 6)]
  | .fintA d a b => packWord [(0x41, 7), (d.val, 3), (a.val, 3), (b.val, 3), (0, 16)]
  | .fintB d a b => packWord [(0x41, 7), (d.val, 3), (a.val, 3), (b.val, 3), (1, 16)]
  | .fintAdd d a b => packWord [(0x41, 7), (d.val, 3), (a.val, 3), (b.val, 3), (2, 16)]
  | .fintMul d a b => packWord [(0x41, 7), (d.val, 3), (a.val, 3), (b.val, 3), (3, 16)]
  | .fintMin d a b => packWord [(0x41, 7), (d.val, 3), (a.val, 3), (b.val, 3), (4, 16)]
  | .fintMax d a b => packWord [(0x41, 7), (d.val, 3), (a.val, 3), (b.val, 3), (5, 16)]
  | .funiA d a b => packWord [(0x41, 7), (d.val, 3), (a.val, 3), (b.val, 3), (8, 16)]
  | .funiB d a b => packWord [(0x41, 7), (d.val, 3), (a.val, 3), (b.val, 3), (9, 16)]
  | .funiAdd d a b => packWord [(0x41, 7), (d.val, 3), (a.val, 3), (b.val, 3), (10, 16)]
  | .funiMul d a b => packWord [(0x41, 7), (d.val, 3), (a.val, 3), (b.val, 3), (11, 16)]
  | .funiMin d a b => packWord [(0x41, 7), (d.val, 3), (a.val, 3), (b.val, 3), (12, 16)]
  | .funiMax d a b => packWord [(0x41, 7), (d.val, 3), (a.val, 3), (b.val, 3), (13, 16)]
  | .fmrg d a b => packWord [(0x41, 7), (d.val, 3), (a.val, 3), (b.val, 3), (16, 16)]
  | .fsort d a => packWord [(0x41, 7), (d.val, 3), (a.val, 3), (0, 3), (17, 16)]
  | .fsortA d a => packWord [(0x41, 7), (d.val, 3), (a.val, 3), (0, 3), (24, 16)]
  | .fsortB d a => packWord [(0x41, 7), (d.val, 3), (a.val, 3), (0, 3), (25, 16)]
  | .fsortAdd d a => packWord [(0x41, 7), (d.val, 3), (a.val, 3), (0, 3), (26, 16)]
  | .fsortMul d a => packWord [(0x41, 7), (d.val, 3), (a.val, 3), (0, 3), (27, 16)]
  | .fsortMin d a => packWord [(0x41, 7), (d.val, 3), (a.val, 3), (0, 3), (28, 16)]
  | .fsortMax d a => packWord [(0x41, 7), (d.val, 3), (a.val, 3), (0, 3), (29, 16)]
  | .fcpt d a m => packWord [(0x42, 7), (d.val, 3), (a.val, 3), (0, 4), (m.val, 4), (0, 5), (0, 6)]
  | .fcptZ d a => packWord [(0x42, 7), (d.val, 3), (a.val, 3), (0, 13), (1, 6)]
  | .fexp a v s => packWord [(0x42, 7), (0, 3), (a.val, 3), (0, 3), (v.val, 5), (s.val, 5), (2, 6)]
  | .ffromv d v g => packWord [(0x42, 7), (d.val, 3), (0, 6), (v.val, 5), (g.val, 5), (3, 6)]
  | .fcrd a v => packWord [(0x42, 7), (0, 3), (a.val, 3), (0, 3), (v.val, 5), (0, 5), (4, 6)]
  | .fval a v => packWord [(0x42, 7), (0, 3), (a.val, 3), (0, 3), (v.val, 5), (0, 5), (5, 6)]
  | .fcnt q a => packWord [(0x42, 7), (3, 2), (q.val, 1), (a.val, 3), (0, 13), (6, 6)]
  | .mmaT d a g => packWord [(0x48, 7), (d.val, 3), (a.val, 5), (0, 5), (g.val, 5), (0, 7)]
  | .mmaM d a g => packWord [(0x48, 7), (d.val, 3), (a.val, 5), (0, 5), (g.val, 5), (1, 7)]
  | .mmaxT d a b g => packWord [(0x48, 7), (d.val, 3), (a.val, 5), (b.val, 5), (g.val, 5), (2, 7)]
  | .mmaxM d a b g => packWord [(0x48, 7), (d.val, 3), (a.val, 5), (b.val, 5), (g.val, 5), (3, 7)]
  | .mmasT d a b g => packWord [(0x48, 7), (d.val, 3), (a.val, 5), (b.val, 5), (g.val, 5), (4, 7)]
  | .mmasM d a b g => packWord [(0x48, 7), (d.val, 3), (a.val, 5), (b.val, 5), (g.val, 5), (5, 7)]
  | .tshape g => packWord [(0x49, 7), (0, 13), (g.val, 5), (0, 7)]
  | .accz d g => packWord [(0x4A, 7), (d.val, 3), (0, 10), (g.val, 5), (0, 7)]
  | .accld d g => packWord [(0x4A, 7), (d.val, 3), (0, 10), (g.val, 5), (1, 7)]
  | .accst d g => packWord [(0x4A, 7), (d.val, 3), (0, 10), (g.val, 5), (2, 7)]
  | .accrd d a g => packWord [(0x4A, 7), (d.val, 3), (a.val, 5), (0, 5), (g.val, 5), (3, 7)]
  | .accwr d a g => packWord [(0x4A, 7), (d.val, 3), (a.val, 5), (0, 5), (g.val, 5), (4, 7)]
  | .acccvt d a g => packWord [(0x4A, 7), (d.val, 3), (a.val, 5), (0, 5), (g.val, 5), (5, 7)]
  | .accred d g => packWord [(0x4A, 7), (d.val, 3), (0, 10), (g.val, 5), (6, 7)]
  | .accrdD d q => packWord [(0x4A, 7), (d.val, 3), (3, 14), (q.val, 1), (8, 7)]
  | .accwrD d g => packWord [(0x4A, 7), (d.val, 3), (0, 10), (g.val, 5), (9, 7)]
  | .tluf d a g => packWord [(0x4B, 7), (d.val, 3), (a.val, 5), (0, 5), (g.val, 5), (0, 7)]
  | .tchol d g => packWord [(0x4B, 7), (d.val, 3), (0, 10), (g.val, 5), (1, 7)]
  | .ttrsL d s g => packWord [(0x4B, 7), (d.val, 3), (0, 7), (s.val, 3), (g.val, 5), (8, 7)]
  | .ttrsU d s g => packWord [(0x4B, 7), (d.val, 3), (0, 7), (s.val, 3), (g.val, 5), (9, 7)]
  | .ttrsL1 d s g => packWord [(0x4B, 7), (d.val, 3), (0, 7), (s.val, 3), (g.val, 5), (10, 7)]
  | .ttrsU1 d s g => packWord [(0x4B, 7), (d.val, 3), (0, 7), (s.val, 3), (g.val, 5), (11, 7)]
  | .ttrsLp d a s g => packWord [(0x4B, 7), (d.val, 3), (a.val, 5), (0, 2), (s.val, 3), (g.val, 5), (12, 7)]
  | .ttrsL1p d a s g => packWord [(0x4B, 7), (d.val, 3), (a.val, 5), (0, 2), (s.val, 3), (g.val, 5), (14, 7)]
  | .tres d b x g q => packWord [(0x4B, 7), (d.val, 3), (0, 2), (b.val, 3), (0, 2), (x.val, 3), (g.val, 5), (8, 6), (q.val, 1)]
  | .titer d a g q => packWord [(0x4B, 7), (0, 1), (d.val, 2), (a.val, 5), (0, 5), (g.val, 5), (12, 6), (q.val, 1)]
  | .rstv s a mk me q l => packWord [(0x5A, 7), (s.val, 5), (a.val, 5), (0, 5), (mk.val, 4), (me.toNat, 1), (0, 2), (q.val, 1), (l.val, 2)]
  | .rstvMc s a b mk me q l => packWord [(0x5A, 7), (s.val, 5), (a.val, 5), (b.val, 5), (mk.val, 4), (me.toNat, 1), (1, 2), (q.val, 1), (l.val, 2)]
  | .rstvAdd s a mk me q => packWord [(0x5A, 7), (s.val, 5), (a.val, 5), (0, 5), (mk.val, 4), (me.toNat, 1), (2, 2), (q.val, 1), (0, 2)]
  | .bnkexa s a b mk me => packWord [(0x5B, 7), (s.val, 5), (a.val, 5), (b.val, 5), (mk.val, 4), (me.toNat, 1), (0, 5)]
  | .cdep s a b q => packWord [(0x5F, 7), (s.val, 5), (a.val, 5), (b.val, 4), (0, 8), (q.val, 1), (0, 2)]
  | .ctas b => packWord [(0x50, 7), (0, 10), (b.val, 5), (0, 3), (0, 7)]
  | .cclr b => packWord [(0x50, 7), (0, 10), (b.val, 5), (0, 3), (1, 7)]
  | .crd d r => packWord [(0x50, 7), (d.val, 5), (0, 6), (r.val, 4), (0, 3), (2, 7)]
  | .cwr a r => packWord [(0x50, 7), (0, 5), (a.val, 5), (0, 1), (r.val, 4), (0, 3), (3, 7)]
  | .bar a b s => packWord [(0x50, 7), (0, 5), (a.val, 5), (0, 1), (b.val, 4), (s.val, 3), (8, 7)]
  | .fenceAv => packWord [(0x51, 7), (0, 18), (0, 7)]
  | .fenceVa => packWord [(0x51, 7), (0, 18), (1, 7)]
  | .fenceVv => packWord [(0x51, 7), (0, 18), (2, 7)]
  | .fenceAll => packWord [(0x51, 7), (0, 18), (3, 7)]
  | .xfence p c s => packWord [(0x51, 7), (0, 2), (p.val, 3), (0, 2), (c.val, 3), (0, 5), (s.val, 3), (4, 7)]
  | .siginc a b => packWord [(0x52, 7), (0, 5), (a.val, 5), (b.val, 5), (0, 3), (0, 7)]
  | .sigincR a b s => packWord [(0x52, 7), (0, 5), (a.val, 5), (b.val, 5), (s.val, 3), (1, 7)]
  | .sigwait d a b s => packWord [(0x52, 7), (d.val, 5), (a.val, 5), (b.val, 5), (s.val, 3), (2, 7)]
  | .timerd d => packWord [(0x53, 7), (d.val, 5), (0, 5), (0, 15)]
  | .waitt d a => packWord [(0x53, 7), (d.val, 5), (a.val, 5), (1, 15)]
  | .bnkopAdd d a b => packWord [(0x54, 7), (d.val, 5), (a.val, 5), (b.val, 5), (0, 10)]
  | .bnkopMin d a b => packWord [(0x54, 7), (d.val, 5), (a.val, 5), (b.val, 5), (1, 10)]
  | .bnkopMax d a b => packWord [(0x54, 7), (d.val, 5), (a.val, 5), (b.val, 5), (2, 10)]
  | .bnkopMinn d a b => packWord [(0x54, 7), (d.val, 5), (a.val, 5), (b.val, 5), (3, 10)]
  | .bnkopMaxn d a b => packWord [(0x54, 7), (d.val, 5), (a.val, 5), (b.val, 5), (4, 10)]
  | .bnkopAnd d a b => packWord [(0x54, 7), (d.val, 5), (a.val, 5), (b.val, 5), (5, 10)]
  | .bnkopOr d a b => packWord [(0x54, 7), (d.val, 5), (a.val, 5), (b.val, 5), (6, 10)]
  | .bnkopXor d a b => packWord [(0x54, 7), (d.val, 5), (a.val, 5), (b.val, 5), (7, 10)]
  | .bnkopSwap d a b => packWord [(0x54, 7), (d.val, 5), (a.val, 5), (b.val, 5), (8, 10)]
  | .bnkopCas d a b => packWord [(0x54, 7), (d.val, 5), (a.val, 5), (b.val, 5), (9, 10)]
  | .bnkopFadd32 d a b => packWord [(0x54, 7), (d.val, 5), (a.val, 5), (b.val, 5), (10, 10)]
  | .bnkopFadd64 d a b => packWord [(0x54, 7), (d.val, 5), (a.val, 5), (b.val, 5), (11, 10)]
  | .bnkrdF32 d a => packWord [(0x54, 7), (d.val, 5), (a.val, 5), (0, 5), (16, 10)]
  | .bnkrdBf16 d a => packWord [(0x54, 7), (d.val, 5), (a.val, 5), (0, 5), (17, 10)]
  | .bnkrdF64 d a => packWord [(0x54, 7), (d.val, 5), (a.val, 5), (0, 5), (18, 10)]
  | .bnkrdF32Z d a => packWord [(0x54, 7), (d.val, 5), (a.val, 5), (0, 5), (20, 10)]
  | .bnkrdBf16Z d a => packWord [(0x54, 7), (d.val, 5), (a.val, 5), (0, 5), (21, 10)]
  | .bnkrdF64Z d a => packWord [(0x54, 7), (d.val, 5), (a.val, 5), (0, 5), (22, 10)]
  | .gstr d a => packWord [(0x58, 7), (d.val, 5), (a.val, 5), (0, 5), (0, 10)]
  | .gstop a => packWord [(0x58, 7), (0, 5), (a.val, 5), (0, 5), (1, 10)]
  | .copy d a b => packWord [(0x58, 7), (d.val, 5), (a.val, 5), (b.val, 5), (4, 10)]
  | .copyMt d a b => packWord [(0x58, 7), (d.val, 5), (a.val, 5), (b.val, 5), (5, 10)]
  | .copyTm d a b => packWord [(0x58, 7), (d.val, 5), (a.val, 5), (b.val, 5), (6, 10)]
  | .copyTt d a b => packWord [(0x58, 7), (d.val, 5), (a.val, 5), (b.val, 5), (7, 10)]
  | .cplw p a => packWord [(0x58, 7), (0, 2), (p.val, 3), (a.val, 5), (0, 5), (8, 10)]
  | .oncpl p a b => packWord [(0x58, 7), (0, 2), (p.val, 3), (a.val, 5), (b.val, 5), (9, 10)]
  | .upret => packWord [(0x58, 7), (0, 15), (10, 10)]
  | .resid a b => packWord [(0x58, 7), (0, 5), (a.val, 5), (b.val, 5), (16, 10)]
  | .demote a => packWord [(0x58, 7), (0, 5), (a.val, 5), (0, 5), (17, 10)]
  | .discard a b => packWord [(0x58, 7), (0, 5), (a.val, 5), (b.val, 5), (18, 10)]
  | .pghint c a b => packWord [(0x58, 7), (0, 3), (c.val, 2), (a.val, 5), (b.val, 5), (19, 10)]
  | .gath d a b mk me x l => packWord [(0x59, 7), (d.val, 5), (a.val, 5), (b.val, 5), (mk.val, 4), (me.toNat, 1), (x.val, 1), (l.val, 4)]
  | .ccfg d a b => packWord [(0x5E, 7), (d.val, 5), (a.val, 5), (b.val, 5), (0, 10)]
  | .cap d a b => packWord [(0x5E, 7), (d.val, 5), (a.val, 5), (b.val, 5), (1, 10)]
  | .capP d a b => packWord [(0x5E, 7), (d.val, 5), (a.val, 5), (b.val, 5), (2, 10)]
  | .cslot d a b => packWord [(0x5E, 7), (d.val, 5), (a.val, 5), (b.val, 5), (3, 10)]
  | .cslotFree d a b => packWord [(0x5E, 7), (d.val, 5), (a.val, 5), (b.val, 5), (4, 10)]
  | .ctake d a => packWord [(0x5E, 7), (d.val, 5), (a.val, 5), (0, 5), (5, 10)]
  | .cstat d a c => packWord [(0x5E, 7), (d.val, 5), (a.val, 5), (c.val, 5), (6, 10)]
  | .fadd d a b r t => packWord [(0x60, 7), (d.val, 5), (a.val, 5), (b.val, 5), (r.val, 3), (0, 4), (t.val, 3)]
  | .fsub d a b r t => packWord [(0x60, 7), (d.val, 5), (a.val, 5), (b.val, 5), (r.val, 3), (1, 4), (t.val, 3)]
  | .fmul d a b r t => packWord [(0x60, 7), (d.val, 5), (a.val, 5), (b.val, 5), (r.val, 3), (2, 4), (t.val, 3)]
  | .ffma d a b r t => packWord [(0x60, 7), (d.val, 5), (a.val, 5), (b.val, 5), (r.val, 3), (3, 4), (t.val, 3)]
  | .fdiv d a b r t => packWord [(0x60, 7), (d.val, 5), (a.val, 5), (b.val, 5), (r.val, 3), (4, 4), (t.val, 3)]
  | .fsqrt d a r t => packWord [(0x60, 7), (d.val, 5), (a.val, 5), (0, 5), (r.val, 3), (5, 4), (t.val, 3)]
  | .fcmp d a b t => packWord [(0x60, 7), (d.val, 5), (a.val, 5), (b.val, 5), (6, 7), (t.val, 3)]
  | .fcvt d a s r t => packWord [(0x60, 7), (d.val, 5), (a.val, 5), (0, 2), (s.val, 3), (r.val, 3), (7, 4), (t.val, 3)]
  | .mfs d n => packWord [(0x68, 7), (d.val, 5), (0, 10), (n.val, 10)]
  | .mts a n => packWord [(0x69, 7), (0, 5), (a.val, 5), (0, 5), (n.val, 10)]
  | .tret => packWord [(0x6A, 7), (0, 18), (1, 7)]
  | .launch d a => packWord [(0x6A, 7), (d.val, 5), (a.val, 5), (0, 8), (2, 7)]
  | .launchAbort d a => packWord [(0x6A, 7), (d.val, 5), (a.val, 5), (0, 8), (2, 7)]
  | .preempt d a => packWord [(0x6A, 7), (d.val, 5), (a.val, 5), (0, 8), (3, 7)]
  | .ctxsave d a b => packWord [(0x6A, 7), (d.val, 5), (a.val, 5), (b.val, 5), (0, 3), (4, 7)]
  | .ctxload d a b => packWord [(0x6A, 7), (d.val, 5), (a.val, 5), (b.val, 5), (0, 3), (5, 7)]
  | .frestore d a b => packWord [(0x6A, 7), (d.val, 5), (a.val, 5), (b.val, 5), (0, 3), (6, 7)]
  | .xlinv a b s => packWord [(0x6A, 7), (0, 5), (a.val, 5), (b.val, 5), (s.val, 3), (7, 7)]
  | .idle => packWord [(0x6A, 7), (0, 18), (8, 7)]
  | .setpri d a b => packWord [(0x6A, 7), (d.val, 5), (a.val, 5), (b.val, 5), (0, 3), (9, 7)]
  | .lgretire d a b => packWord [(0x6A, 7), (d.val, 5), (a.val, 5), (b.val, 5), (0, 3), (10, 7)]
  | .sblk count len => packWord [(0x7F, 7), (count.val, 5), (len.val, 5), (0, 15)]
  | .ccInterruptEntry _ => 0
  | .trapNoticeDeliver _ => 0
  | .nqptrConsWrite _ => 0
  | .nqctlWrite _ => 0
  | .pageWalk _ _ => 0
  | .mscFill _ _ _ _ => 0
  | .refreshWindowEnd _ => 0
  | .demoteApply _ => 0
  | .demoteScrubEnd _ _ => 0
  | .scfgCarveWrite _ _ => 0
  | .carveChange _ => 0
  | .hrctlWrite _ _ => 0
  | .fumaroleForwardReceive _ => 0
  | .fumaroleReturnReceive _ => 0
  | .geyserEntryDeliver _ _ => 0
  | .pathOperationComplete _ _ _ => 0
  | .upcallEntry _ => 0
  | .queueWake _ => 0
  | .queueDeadlock _ => 0
  | .semaphoreGrant _ _ => 0
  | .sigwaitWake _ => 0
  | .barrierEpisodeComplete _ _ _ _ => 0
  | .waittWake _ => 0
  | .cplwWake _ => 0
  | .idleWake _ => 0
  | .rstvOutcome _ _ _ => 0
  | .remoteStorePacket _ _ _ => 0
  | .remoteAddPacket _ _ _ _ => 0
  | .signalPacket _ _ _ _ _ => 0
  | .tokenRowPacket _ _ _ _ _ _ => 0
  | .ackPacket _ _ _ _ => 0
  | .remoteReadPacket _ _ _ => 0
  | .readDataPacket _ _ _ => 0
  | .remoteBankRequest _ _ _ _ => 0
  | .remoteBankReply _ _ => 0
  | .rdWriteFaultReport _ _ _ => 0
  | .rdSplitReceive _ _ _ _ _ => 0
  | .rdInvReceive _ _ _ _ => 0
  | .rdAckReceive _ _ => 0
  | .rdReleasedRetired _ _ => 0
  | .rdFormerHolderFault _ _ _ _ => 0
  | .calderaDeposit _ => 0
  | .calderaTimeoutRelease _ _ _ => 0
  | .calderaTimeoutTrap _ => 0
  | .launchEnterDispatch _ _ => 0
  | .dispatchPlace _ => 0
  | .dispatchPreempt _ => 0
  | .quantumExpiry _ => 0
  | .launchRetire _ _ => 0
  | .uncorrectableError _ _ _ _ _ => 0
  | .errorRetryResult _ => 0
  | .linkCrcResend _ => 0
  | .linkRetrain _ _ => 0
  | .tuffStreamSend => 0
  | .tuffctlFrzSet => 0
  | .tuffctlFrzClear => 0
  | .tuffctlStreamWrite _ => 0
  | .tuffputCommit _ => 0
  | .mextExtend _ => 0
  | .attestRequest _ => 0
  | .moduleReset => 0
  | .tftpImageReceive _ => 0
  | .rstctlWarmWrite => 0
  | .warmReset => 0
  | .timectlGmWrite _ => 0
  | .timectlRelWrite => 0
  | .gmReleaseTimeout => 0
  | .timeEventMessage _ _ => 0
  | .timeLockChange => 0
  | .pwrctlReqWrite _ => 0
  | .powerModeChangeEnd => 0
  | .thermalThrottle => 0
  | .thermalUnthrottle => 0
  | .thermalPowerOff => 0
  | .pcieInboundDma _ _ _ _ _ => 0
  | .registerWrite _ _ => 0
  | .powerLoss => 0
  | .managementPortLinkChange _ => 0
  | .managementPortReceive _ => 0
  | .bankResultReturn _ => 0

end

end Sys2Proof
end

