-- ==== Sys2Proof/Config.lean ====
section
/-! DEFINITION. What an implementation fixes, and the free values: constants without a body, so that no proof can use
a value of theirs.  Also the plain figures of the part (01_zensia_b4_at_a_glance, Tables 2 to 4). -/

namespace Sys2Proof.Config

/-- Lane-group register width in bits (R13, R190). -/
def laneGroupBits : Nat := 2048
/-- Bytes of one tile store (R13, R109). -/
def tileBytes : Nat := 393216
/-- Units of 64 bytes in a core's accumulator store (R105). -/
def accUnits : Nat := 24576
/-- Translation-cache entries of a core (R41). -/
def tlbEntries : Nat := 1024
/-- Distinct pages one piece of an instruction may touch (R39). -/
def maxPages : Nat := 512
/-- Outstanding operations on one path (R131). -/
def maxOutstanding : Nat := 256
/-- Bytes of remote-store receive buffer in a hub die (R350). -/
def recvBytes : Nat := 16777216
/-- The quantum of a placed share in ns (R381). -/
def quantumNs : Nat := 100000
/-- Entries of the execute side's instruction queue (R162). -/
def iqDepth : Nat := 64

/-- FREE VALUE: which partial sums the B4 adds next in VREDSUM.F, whose order R270 leaves to it.  Applied to the
counter `State.fresh`. Log 40. -/
opaque sumPick : Nat → Nat

/-- FREE VALUE: whether infinity times zero plus a quiet NaN is an invalid operation (IEEE 754-2019 7.2 leaves it open;
R78). Log 11. -/
opaque fmaNanInvalid : Bool

/-- FREE VALUE: the length in bytes of a fault frame (R398), fixed by the implementation and at most 0x20_0000. Log 41. -/
opaque frameLength : BitVec 21

/-- FREE VALUE: where the boot ROM puts the firmware body, to which the header's entry offset counts (R436): its
module-local address and the virtual address at which core 0 starts it. Log 42. -/
opaque firmwareBase : Nat × Nat

/-- FREE VALUE: modulus and exponent of the Heavauf root key, whose digest is fused in the hub (R436). Log 42. -/
opaque rootKey : Nat × Nat

/-- FREE VALUE: the fused minimum security version, which images may raise in a way the spec does not give (R436).
Applied to `State.fresh`. Log 42. -/
opaque fusedMinimum : Nat → Nat

/-- FREE VALUE: the signature that the module's identity key makes over a message (R438); no software can read the
key. Log 43. -/
opaque identitySign : List Byte → BitVec 4096

/-- FREE VALUE: what the second load of one fault frame puts into the registers of its strand (R399: undefined). Log 44. -/
opaque reloadedFrame : Nat → BitVec 32768

/-- FREE VALUE: what a read of a PCI Express window returns (R428 gives it to the PCI Express specification). Log 45. -/
opaque pcieRead : Nat → Byte

/-- FREE VALUE: bytes of the fault frame after its header (R398: opaque, fixed by the implementation). Log 41. -/
opaque frameByte : Nat → Byte

/-- FREE VALUE: the payload of a FATAL entry: STRUCT and a cause code that the spec does not list (R418, Table 4). Log 46. -/
opaque fatalPayload : Nat → Nat → Word

/-- FREE VALUE: whether a restored strand whose SRSEED is 0 counts as having written it (R21, R402 say nothing of it).
Applied to `State.fresh`. Log 27. -/
opaque restoredSeed : Nat → Bool

/-- FREE VALUE: the gang rank of a strand whose layout is loaded from a place that is no save area of its launch (R397, R402).
Applied to `State.fresh`. Log 26. -/
opaque restoredRank : Nat → Nat

/-- FREE VALUE: whether an update is lost where the atomics of the two sides on a page with SWA = 0 interleave (R52: it may be).
Applied to `State.fresh`. Log 15. -/
opaque mixLoses : Nat → Bool

/-- FREE VALUE: what TVAL holds after a trap for which no rule states it.  Applied to `State.fresh`. Log 47. -/
opaque openTval : Nat → Word

/-- FREE VALUE: what a temporary of a Sirmal block reads as at a point where the body has not written it (R179, R407 give it
no state).  Applied to `State.fresh`. Log 48. -/
opaque blockTemp : Nat → Nat

/-- FREE VALUE: the lanes of a link or port with all of them in use, which the spec does not give (R416).  Applied to its
number. Log 49. -/
opaque linkLanes : Nat → Nat

/-- FREE VALUE: whether a stop that is asked for takes effect at a piece boundary of the last instruction, which R400 leaves open.
Applied to the counter `State.fresh`. Log 81. -/
opaque stopsEarly : Nat → Bool

/-- FREE VALUE: how many iterations of a TITER are done when a pre-emption that comes during it arrives (R323).  Applied to the
counter `State.fresh`. Log 61. -/
opaque arrivesAt : Nat → Nat

/-- FREE VALUE: the lane that a report word names for a fibre entry, by its slot: R277 gives its lane group only. Log 95. -/
opaque fibreLane : Nat → Nat

end Sys2Proof.Config
end

