-- ==== Sys2Proof/Machine/Bits.lean ====
section
/-! DEFINITION. Bit fields, sign extension and byte lists (00_scope R2, R3). -/

namespace Sys2Proof.Machine

/-- Bits hi..lo of a number. -/
def bitsOf (v : Nat) (hi lo : Nat) : Nat := v / 2 ^ lo % 2 ^ (hi + 1 - lo)

/-- A field of a word, as a number. -/
def fieldOf (w : Word) (hi lo : Nat) : Nat := bitsOf w.toNat hi lo

/-- A bit of a word. -/
def bitOf (w : Word) (i : Nat) : Bool := w.getLsbD i

/-- A word with one field replaced. -/
def setField (w : Word) (hi lo : Nat) (v : Nat) : Word :=
  (w &&& ~~~((BitVec.ofNat 64 (2 ^ (hi + 1 - lo) - 1)) <<< lo)) ||| (BitVec.ofNat 64 (v % 2 ^ (hi + 1 - lo)) <<< lo)

/-- A word with one bit set or cleared. -/
def setBit (w : Word) (i : Nat) (b : Bool) : Word := setField w i i (if b then 1 else 0)

/-- SignExtend(x, n) of a word's low n bits to 64 bits. -/
def sextNat (n v : Nat) : Word :=
  if v / 2 ^ (n - 1) % 2 = 1 then BitVec.ofInt 64 ((v % 2 ^ n : Nat) - (2 ^ n : Nat)) else BitVec.ofNat 64 (v % 2 ^ n)

/-- A number read as two's complement of n bits. -/
def toSigned (n v : Nat) : Int :=
  if v / 2 ^ (n - 1) % 2 = 1 then (v % 2 ^ n : Nat) - (2 ^ n : Nat) else (v % 2 ^ n : Nat)

/-- The two's complement code of an integer in n bits: wraps modulo 2^n (R80). -/
def ofSigned (n : Nat) (x : Int) : Nat := (x % (2 ^ n : Nat)).toNat

/-- n bytes of a number, least significant first (R2). -/
def bytesOf : Nat → Nat → List Byte
  | 0, _ => []
  | n + 1, v => BitVec.ofNat 8 v :: bytesOf n (v / 256)

/-- The number that bytes hold, least significant first (R2). -/
def ofBytes : List Byte → Nat
  | [] => 0
  | b :: r => b.toNat + 256 * ofBytes r

/-- Element i of width w in a packed register value. -/
def elemAt (w : Nat) (v : Nat) (i : Nat) : Nat := (v >>> (w * i)) % 2 ^ w

/-- Elements of width w packed from element 0 upward (R3). -/
def packElems (w : Nat) : List Nat → Nat
  | [] => 0
  | x :: r => x % 2 ^ w + 2 ^ w * packElems w r

/-- The first n elements of width w of a packed value. -/
def unpackElems (w n v : Nat) : List Nat := (List.range n).map fun i => elemAt w v i

/-- The smallest multiple of k at or above n. -/
def roundUp (n k : Nat) : Nat := (n + k - 1) / k * k

/-- ceil(n / k). -/
def ceilDiv (n k : Nat) : Nat := (n + k - 1) / k

/-- Count of set bits among the low n. -/
def popCount (v n : Nat) : Nat := (List.range n).foldl (fun a i => a + v / 2 ^ i % 2) 0

/-- The number whose set bits are the listed positions that satisfy p, below n. -/
def maskOf (n : Nat) (p : Nat → Bool) : Nat := (List.range n).foldl (fun a i => if p i then a + 2 ^ i else a) 0

end Sys2Proof.Machine
end

