-- ==== Sys2Proof/Machine/Float.lean ====
section
/-! DEFINITION. Number formats and rounding (04_number_formats R77-R85): values are exact dyadic numbers until one
rounding narrows them. -/

namespace Sys2Proof.Machine

/-- How a format spends its all-ones codes (Table 1). -/
inductive Special where
  /-- IEEE infinity and NaN -/
  | ieee
  /-- only the NaN S.1111.111 -/
  | e4m3
  /-- neither -/
  | none
deriving DecidableEq, Repr

/-- A floating-point element format (R77, Table 1). -/
structure FFmt where
  ew : Nat
  mw : Nat
  bias : Nat
  special : Special
  /-- saturates instead of overflowing (R83) -/
  narrow : Bool
deriving DecidableEq, Repr

def fp64 : FFmt := ⟨11, 52, 1023, .ieee, false⟩
def fp32 : FFmt := ⟨8, 23, 127, .ieee, false⟩
def fp16 : FFmt := ⟨5, 10, 15, .ieee, true⟩
def bf16 : FFmt := ⟨8, 7, 127, .ieee, true⟩
def e4m3 : FFmt := ⟨4, 3, 7, .e4m3, true⟩
def e5m2 : FFmt := ⟨5, 2, 15, .ieee, true⟩
def e3m2 : FFmt := ⟨3, 2, 3, .none, true⟩
def e2m3 : FFmt := ⟨2, 3, 1, .none, true⟩
def e2m1 : FFmt := ⟨2, 1, 1, .none, true⟩

/-- Width in bits. -/
def FFmt.width (f : FFmt) : Nat := 1 + f.ew + f.mw

/-- A value: a NaN (signalling or not), an infinity, or (-1)^neg * sig * 2^exp exactly. -/
inductive Num where
  | nan (signalling : Bool)
  | inf (neg : Bool)
  | fin (neg : Bool) (sig : Nat) (exp : Int)
deriving DecidableEq, Repr

/-- The five flags of STATUS (R85): 4 NV, 3 DZ, 2 OF, 1 UF, 0 NX. -/
abbrev FlagSet := BitVec 5

def flagNone : FlagSet := 0
def flagNX : FlagSet := 1
def flagUF : FlagSet := 2
def flagOF : FlagSet := 4
def flagDZ : FlagSet := 8
def flagNV : FlagSet := 16

/-- A rounded result: its code, the flags it raises and whether R84 records the element. -/
structure Res where
  bits : Nat
  flags : FlagSet
  sat : Bool
deriving DecidableEq, Repr

/-- A rounding mode (R81); SR carries the 32 bits drawn (R82). -/
inductive RMode where
  | rne | rz | rdn | rup
  | sr (draw : Nat)
deriving DecidableEq, Repr

/-- SrBits (R82). -/
def srBits (k x y : BitVec 32) : BitVec 32 :=
  let h0 := k ^^^ (x * 0x85EBCA6B) ^^^ (y * 0xC2B2AE35)
  let r := fun (h : BitVec 32) =>
    let h := h ^^^ (h >>> 16)
    let h := h * 0x7FEB352D
    let h := h ^^^ (h >>> 15)
    let h := h * 0x846CA68B
    h ^^^ (h >>> 16)
  r (r (r h0))

/-- The canonical NaN of a format (R78). -/
def FFmt.nanBits (f : FFmt) : Nat :=
  match f.special with
  | .ieee => (2 ^ f.ew - 1) * 2 ^ f.mw + 2 ^ (f.mw - 1)
  | .e4m3 => 2 ^ (f.ew + f.mw) - 1
  | .none => 0

/-- The code of an infinity. -/
def FFmt.infBits (f : FFmt) (neg : Bool) : Nat :=
  (2 ^ f.ew - 1) * 2 ^ f.mw + (if neg then 2 ^ (f.ew + f.mw) else 0)

/-- The magnitude code of the maximum finite value (Table 1). -/
def FFmt.maxCode (f : FFmt) : Nat :=
  match f.special with
  | .ieee => (2 ^ f.ew - 1) * 2 ^ f.mw - 1
  | .e4m3 => 2 ^ (f.ew + f.mw) - 2
  | .none => 2 ^ (f.ew + f.mw) - 1

/-- The exponent of the least subnormal. -/
def FFmt.minExp (f : FFmt) : Int := 1 - (f.bias : Int) - (f.mw : Int)

/-- Emax (Table 1): the exponent of the largest normal value. -/
def FFmt.emax (f : FFmt) : Int :=
  match f.special with
  | .ieee => (2 ^ f.ew - 2 : Nat) - (f.bias : Int)
  | _ => (2 ^ f.ew - 1 : Nat) - (f.bias : Int)

/-- The value of a code (R77).  A NaN whose first mantissa bit is 0 is signalling; of FP8, E5M2 alone has such codes, and the one NaN
pattern of E4M3 is quiet (R78, log 93). -/
def FFmt.decode (f : FFmt) (v : Nat) : Num :=
  let neg := v / 2 ^ (f.ew + f.mw) % 2 == 1
  let e := v / 2 ^ f.mw % 2 ^ f.ew
  let m := v % 2 ^ f.mw
  if f.special = .ieee ∧ e = 2 ^ f.ew - 1 then
    if m = 0 then .inf neg else .nan (m / 2 ^ (f.mw - 1) == 0)
  else if f.special = .e4m3 ∧ e = 2 ^ f.ew - 1 ∧ m = 2 ^ f.mw - 1 then .nan false
  else if e = 0 then .fin neg m f.minExp
  else .fin neg (2 ^ f.mw + m) (f.minExp + (e - 1 : Nat))

/-- An exact magnitude sig * 2^exp cut at the place 2^lsb: the integer rounded under the mode, and whether it was
inexact (R81, R82). -/
def roundAt (rm : RMode) (neg : Bool) (sig : Nat) (exp lsb : Int) : Nat × Bool :=
  if exp ≥ lsb then (sig * 2 ^ (exp - lsb).toNat, false)
  else
    let sh := (lsb - exp).toNat
    let n := sig / 2 ^ sh
    let r := sig % 2 ^ sh
    if r = 0 then (n, false)
    else
      let up : Bool := match rm with
        | .rne => decide (2 * r > 2 ^ sh) || (2 * r == 2 ^ sh && n % 2 == 1)
        | .rz => false
        | .rdn => neg
        | .rup => !neg
        | .sr draw =>
          if neg then !decide (draw < (2 ^ sh - r) * 2 ^ 32 / 2 ^ sh)
          else decide (draw < r * 2 ^ 32 / 2 ^ sh)
      (if up then n + 1 else n, true)

/-- floor(log2 of a positive magnitude sig * 2^exp). -/
def floorLog2 (sig : Nat) (exp : Int) : Int := (Nat.log2 sig : Int) + exp

/-- Whether sig * 2^exp exceeds n * 2^l. -/
def magGt (sig : Nat) (exp : Int) (n : Nat) (l : Int) : Bool :=
  if exp ≥ l then decide (sig * 2 ^ (exp - l).toNat > n) else decide (sig > n * 2 ^ (l - exp).toNat)

/-- Rounding a finite value to a format: overflow and saturation of R83, underflow tested after rounding (R85). -/
def FFmt.roundFin (f : FFmt) (rm : RMode) (neg : Bool) (sig : Nat) (exp : Int) : Res :=
  let sgn := if neg then 2 ^ (f.ew + f.mw) else 0
  if sig = 0 then ⟨sgn, flagNone, false⟩
  else
    let e := floorLog2 sig exp
    let free := e - (f.mw : Int)
    let lsb := if free < f.minExp then f.minExp else free
    let maxSig := 2 ^ f.mw + f.maxCode % 2 ^ f.mw
    let maxLsb := f.emax - (f.mw : Int)
    let above := magGt sig exp maxSig maxLsb
    let (n, inexact) := roundAt rm neg sig exp lsb
    let big := magGt n lsb maxSig maxLsb
    match rm with
    | .sr draw =>
      if above then
        if f.narrow then ⟨sgn + f.maxCode, flagOF ||| flagNX, true⟩
        else
          -- f of R82 on the magnitude: (|x| - M) / u in units of 2^-32
          let x := if exp ≥ maxLsb - 32 then sig * 2 ^ (exp - (maxLsb - 32)).toNat
            else sig / 2 ^ (maxLsb - 32 - exp).toNat
          if draw < x - maxSig * 2 ^ 32 then ⟨sgn + f.infBits false, flagOF ||| flagNX, false⟩
          else ⟨sgn + f.maxCode, flagOF ||| flagNX, false⟩
      else fin n inexact lsb free sgn
    | _ =>
      if big then
        if f.narrow then ⟨sgn + f.maxCode, flagOF ||| flagNX, true⟩
        else
          let toInf := match rm with
            | .rne => true
            | .rdn => neg
            | .rup => !neg
            | _ => false
          ⟨sgn + (if toInf then f.infBits false else f.maxCode), flagOF ||| flagNX, false⟩
      else fin n inexact lsb free sgn
where
  /-- The code of n * 2^lsb, with NX and UF. -/
  fin (n : Nat) (inexact : Bool) (lsb free : Int) (sgn : Nat) : Res :=
    let code := if n < 2 ^ f.mw then n else ((lsb - f.minExp).toNat + 1) * 2 ^ f.mw + (n - 2 ^ f.mw)
    -- tiny after rounding with an unbounded exponent
    let tiny := decide (free < f.minExp) &&
      !magGt (roundAt rm neg sig exp free).1 free (2 ^ f.mw) f.minExp &&
      decide ((roundAt rm neg sig exp free).1 ≠ 2 ^ (f.mw + (f.minExp - free).toNat))
    ⟨sgn + code, (if inexact then flagNX else 0) ||| (if inexact && tiny then flagUF else 0), false⟩

/-- Any value into a format under a rounding mode (R78, R79, R83). -/
def FFmt.round (f : FFmt) (rm : RMode) (x : Num) : Res :=
  match x with
  | .nan s => ⟨f.nanBits, if s then flagNV else 0, false⟩
  | .inf neg =>
    match f.special with
    | .ieee => ⟨f.infBits neg, 0, false⟩
    | _ => ⟨f.nanBits, flagNV, false⟩
  | .fin neg sig exp => f.roundFin rm neg sig exp

/-- Range of an integer format. -/
def intRange (signed : Bool) (w : Nat) : Int × Int :=
  if signed then (-(2 ^ (w - 1) : Nat), (2 ^ (w - 1) : Nat) - 1) else (0, (2 ^ w : Nat) - 1)

/-- An integer clamped to a format's range: the code, and whether it was out of range. -/
def clampInt (signed : Bool) (w : Nat) (x : Int) : Nat × Bool :=
  let (lo, hi) := intRange signed w
  if x < lo then (ofSigned w lo, true) else if hi < x then (ofSigned w hi, true) else (ofSigned w x, false)

/-- Any value into an integer format, saturating (R83, R85). -/
def roundToInt (signed : Bool) (w : Nat) (rm : RMode) (x : Num) : Res :=
  match x with
  | .nan _ => ⟨0, flagNV, true⟩
  | .inf neg =>
    let (lo, hi) := intRange signed w
    ⟨ofSigned w (if neg then lo else hi), flagNV, true⟩
  | .fin neg sig exp =>
    let (n, inexact) := roundAt rm neg sig exp 0
    let (c, out) := clampInt signed w (if neg then -(n : Int) else n)
    if out then ⟨c, flagOF ||| flagNX, true⟩ else ⟨c, if inexact then flagNX else 0, false⟩

/-- The exact value of an integer. -/
def numOfInt (x : Int) : Num := .fin (decide (x < 0)) x.natAbs 0

/-- A finite value as mantissa and exponent with sign. -/
def signedSig (neg : Bool) (sig : Nat) : Int := if neg then -(sig : Int) else sig

/-- The exact sum of two values; `rdn` gives the sign of an exact zero (R78). -/
def numAdd (rdn : Bool) (x y : Num) : Num × FlagSet :=
  match x, y with
  | .nan s, .nan t => (.nan false, if s || t then flagNV else 0)
  | .nan s, _ => (.nan false, if s then flagNV else 0)
  | _, .nan t => (.nan false, if t then flagNV else 0)
  | .inf a, .inf b => if a = b then (.inf a, 0) else (.nan false, flagNV)
  | .inf a, _ => (.inf a, 0)
  | _, .inf b => (.inf b, 0)
  | .fin a s e, .fin b t g =>
    if s = 0 ∧ t = 0 then (.fin (if a = b then a else rdn) 0 0, 0)
    else
      let m := if e < g then e else g
      let v := signedSig a s * (2 ^ (e - m).toNat : Nat) + signedSig b t * (2 ^ (g - m).toNat : Nat)
      if v = 0 then (.fin rdn 0 0, 0) else (.fin (decide (v < 0)) v.natAbs m, 0)

/-- The negated value. -/
def Num.neg : Num → Num
  | .nan s => .nan s
  | .inf a => .inf (!a)
  | .fin a s e => .fin (!a) s e

/-- The exact product. -/
def numMul (x y : Num) : Num × FlagSet :=
  match x, y with
  | .nan s, .nan t => (.nan false, if s || t then flagNV else 0)
  | .nan s, _ => (.nan false, if s then flagNV else 0)
  | _, .nan t => (.nan false, if t then flagNV else 0)
  | .inf a, .inf b => (.inf (a != b), 0)
  | .inf a, .fin b t _ => if t = 0 then (.nan false, flagNV) else (.inf (a != b), 0)
  | .fin a s _, .inf b => if s = 0 then (.nan false, flagNV) else (.inf (a != b), 0)
  | .fin a s e, .fin b t g => (.fin (a != b) (s * t) (e + g), 0)

/-- Bits that a quotient or root carries beyond any rounding place. -/
def extraBits : Nat := 192

/-- The quotient; its last bit is sticky, far below any rounding place. -/
def numDiv (x y : Num) : Num × FlagSet :=
  match x, y with
  | .nan s, .nan t => (.nan false, if s || t then flagNV else 0)
  | .nan s, _ => (.nan false, if s then flagNV else 0)
  | _, .nan t => (.nan false, if t then flagNV else 0)
  | .inf _, .inf _ => (.nan false, flagNV)
  | .inf a, .fin b _ _ => (.inf (a != b), 0)
  | .fin a _ _, .inf b => (.fin (a != b) 0 0, 0)
  | .fin a s e, .fin b t g =>
    if t = 0 then if s = 0 then (.nan false, flagNV) else (.inf (a != b), flagDZ)
    else if s = 0 then (.fin (a != b) 0 0, 0)
    else
      let n := s * 2 ^ extraBits
      (.fin (a != b) (2 * (n / t) + (if n % t = 0 then 0 else 1)) (e - g - (extraBits : Int) - 1), 0)

/-- Integer square root by bits from 2^i down. -/
def isqrtGo (x : Nat) : Nat → Nat → Nat
  | 0, r => r
  | i + 1, r => let r' := r + 2 ^ i; isqrtGo x i (if r' * r' ≤ x then r' else r)

/-- floor(sqrt x). -/
def isqrt (x : Nat) : Nat := isqrtGo x (Nat.log2 x / 2 + 1) 0

/-- The square root; its last bit is sticky. -/
def numSqrt (x : Num) : Num × FlagSet :=
  match x with
  | .nan s => (.nan false, if s then flagNV else 0)
  | .inf false => (.inf false, 0)
  | .inf true => (.nan false, flagNV)
  | .fin a s e =>
    if s = 0 then (.fin a 0 0, 0)
    else if a then (.nan false, flagNV)
    else
      let odd := e % 2 != 0
      let s' := (if odd then 2 * s else s) * 2 ^ (2 * extraBits)
      let e' := (if odd then e - 1 else e) / 2 - (extraBits : Int)
      let r := isqrt s'
      (.fin false (2 * r + (if r * r = s' then 0 else 1)) (e' - 1), 0)

def Num.isNan : Num → Bool
  | .nan _ => true
  | _ => false

def Num.isSnan : Num → Bool
  | .nan s => s
  | _ => false

def Num.isInf : Num → Bool
  | .inf _ => true
  | _ => false

def Num.isZero : Num → Bool
  | .fin _ 0 _ => true
  | _ => false

def Num.isNeg : Num → Bool
  | .fin a _ _ => a
  | .inf a => a
  | .nan _ => false

/-- Order of two values that are no NaN. -/
def numCmp (x y : Num) : Ordering :=
  match x, y with
  | .inf a, .inf b => if a = b then .eq else if a then .lt else .gt
  | .inf a, _ => if a then .lt else .gt
  | _, .inf b => if b then .gt else .lt
  | .fin a s e, .fin b t g =>
    let m := if e < g then e else g
    compare (signedSig a s * (2 ^ (e - m).toNat : Nat)) (signedSig b t * (2 ^ (g - m).toNat : Nat))
  | _, _ => .eq

/-- The value scaled by a power of two. -/
def Num.scale (x : Num) (k : Int) : Num :=
  match x with
  | .fin a s e => .fin a s (e + k)
  | y => y

/-- Whether a mode is RDN, for the sign of an exact zero sum (R78). -/
def RMode.isRdn : RMode → Bool
  | .rdn => true
  | _ => false

/-- One rounded sum. -/
def FFmt.add (f : FFmt) (rm : RMode) (x y : Nat) : Res :=
  let (v, fl) := numAdd rm.isRdn (f.decode x) (f.decode y)
  let r := f.round rm v
  { r with flags := r.flags ||| fl }

/-- One rounded difference. -/
def FFmt.sub (f : FFmt) (rm : RMode) (x y : Nat) : Res :=
  let (v, fl) := numAdd rm.isRdn (f.decode x) (f.decode y).neg
  let r := f.round rm v
  { r with flags := r.flags ||| fl }

/-- One rounded product. -/
def FFmt.mul (f : FFmt) (rm : RMode) (x y : Nat) : Res :=
  let (v, fl) := numMul (f.decode x) (f.decode y)
  let r := f.round rm v
  { r with flags := r.flags ||| fl }

/-- x * y + z of exact values, not yet rounded.  Whether infinity times zero plus a quiet NaN is invalid IEEE 754-2019
leaves to the implementation: a free value (log 11). -/
def numFma (rdn : Bool) (x y z : Num) : Num × FlagSet :=
  let (p, fl) := numMul x y
  match z with
  | .nan false => (.nan false, if x.isNan || y.isNan then fl else if fl = 0 then 0 else if Config.fmaNanInvalid then flagNV else 0)
  | _ =>
    let (v, fl') := numAdd rdn p z
    (v, fl ||| fl')

/-- One rounded x * y + z. -/
def FFmt.fma (f : FFmt) (rm : RMode) (x y z : Num) : Res :=
  let (v, fl) := numFma rm.isRdn x y z
  let r := f.round rm v
  { r with flags := r.flags ||| fl }

/-- One rounded quotient. -/
def FFmt.div (f : FFmt) (rm : RMode) (x y : Nat) : Res :=
  let (v, fl) := numDiv (f.decode x) (f.decode y)
  let r := f.round rm v
  { r with flags := r.flags ||| fl }

/-- One rounded square root. -/
def FFmt.sqrt (f : FFmt) (rm : RMode) (x : Nat) : Res :=
  let (v, fl) := numSqrt (f.decode x)
  let r := f.round rm v
  { r with flags := r.flags ||| fl }

/-- RNE sum's code only. -/
def FFmt.addRne (f : FFmt) (x y : Nat) : Nat := (f.add .rne x y).bits

/-- The types that a register element or an operand may have (R77, R80). -/
inductive ElemTy where
  | flt (f : FFmt)
  | int (signed : Bool) (w : Nat)
deriving DecidableEq, Repr

/-- Width of an element. -/
def ElemTy.width : ElemTy → Nat
  | .flt f => f.width
  | .int _ w => w

/-- The exact value of an element's code. -/
def ElemTy.num (t : ElemTy) (v : Nat) : Num :=
  match t with
  | .flt f => f.decode (v % 2 ^ f.width)
  | .int true w => numOfInt (toSigned w v)
  | .int false w => numOfInt (v % 2 ^ w : Nat)

/-- A value rounded into a type, saturating where R83 says so. -/
def ElemTy.round (t : ElemTy) (rm : RMode) (x : Num) : Res :=
  match t with
  | .flt f => f.round rm x
  | .int s w => roundToInt s w rm x

/-- The element types that are no packed blocks (R192, Table 4). -/
def elemTyOf (et : Nat) : Option ElemTy :=
  match et with
  | 0x00 => some (.flt fp32)
  | 0x01 => some (.flt fp64)
  | 0x02 => some (.flt fp16)
  | 0x03 => some (.flt bf16)
  | 0x04 => some (.flt e4m3)
  | 0x05 => some (.flt e5m2)
  | 0x08 => some (.int true 8)
  | 0x09 => some (.int true 16)
  | 0x0A => some (.int true 32)
  | 0x0B => some (.int true 64)
  | 0x0C => some (.int false 8)
  | 0x0D => some (.int false 16)
  | 0x0E => some (.int false 32)
  | 0x0F => some (.int false 64)
  | 0x10 => some (.int true 4)
  | _ => none

/-- The rounding mode of a code that R81 gives; `draw` is what SR draws. -/
def rmodeOf (code : Nat) (draw : Nat) : Option RMode :=
  match code with
  | 0 => some .rne
  | 1 => some .rz
  | 2 => some .rdn
  | 3 => some .rup
  | 4 => some (.sr draw)
  | _ => none

end Sys2Proof.Machine
end

