-- ==== Sys2Proof/Machine/Blocks.lean ====
section
/-! DEFINITION. Block formats MX and SX4 (R86-R90), the stored formats of converted pages (R35, R97, R98), canonical
summation (R91-R94) and the dot unit's group sum (R95). -/

namespace Sys2Proof.Machine

/-- The element format of a block format or of a plain stored format (02, Table 6). -/
inductive Stored where
  /-- one element by itself -/
  | plain (f : FFmt)
  /-- MX block of a floating-point element -/
  | mx (f : FFmt)
  /-- MXINT8 -/
  | mxInt8
  | sx4
deriving DecidableEq, Repr

/-- Format codes of Table 6 of 02. -/
def storedOf (code : Nat) : Option Stored :=
  match code with
  | 0x1 => some (.plain fp32)
  | 0x2 => some (.plain bf16)
  | 0x3 => some (.plain fp16)
  | 0x4 => some (.plain e4m3)
  | 0x5 => some (.plain e5m2)
  | 0x6 => some (.mx e4m3)
  | 0x7 => some (.mx e5m2)
  | 0x8 => some (.mx e2m3)
  | 0x9 => some (.mx e3m2)
  | 0xA => some (.mx e2m1)
  | 0xB => some .mxInt8
  | 0xC => some .sx4
  | _ => none

/-- Bytes of one stored 32-element block (02, Table 6). -/
def Stored.blockBytes : Stored → Nat
  | .plain f => 4 * f.width
  | .mx f => 1 + 4 * f.width
  | .mxInt8 => 33
  | .sx4 => 18

/-- Whether the format is stored in scaled blocks. -/
def Stored.isBlock : Stored → Bool
  | .plain _ => false
  | _ => true

/-- The power of an E8M0 scale code; none for NaN (R86). -/
def scaleExp (s : Nat) : Option Int := if s = 255 then none else some ((s : Int) - 127)

/-- The values of an MX block (R86); the block is one little-endian number. -/
def mxDecode (f : FFmt) (blk : Nat) : List Num :=
  (List.range 32).map fun i =>
    match scaleExp (blk % 256) with
    | none => .nan false
    | some k => (f.decode (elemAt f.width (blk / 256) i)).scale k

/-- The values of an MXINT8 block (R86). -/
def mxInt8Decode (blk : Nat) : List Num :=
  (List.range 32).map fun i =>
    match scaleExp (blk % 256) with
    | none => .nan false
    | some k => (numOfInt (toSigned 8 (elemAt 8 (blk / 256) i))).scale (k - 6)

/-- The outlier of one half of an SX4 block, by pairs in ascending order (R89). -/
def sx4Outlier (c : Nat → Nat) (h : Nat) : Option Nat :=
  (List.range 8).findSome? fun p =>
    let e := 16 * h + 2 * p
    if c e = 8 then some e else if c (e + 1) = 8 then some (e + 1) else none

/-- The partner of an element in its pair. -/
def pairOf (i : Nat) : Nat := if i % 2 = 0 then i + 1 else i - 1

/-- Sx4Decode (R89). -/
def sx4Decode (blk : Nat) : List Num :=
  let ob := blk / 256 % 256
  let c := fun i => elemAt 4 (blk / 65536) i
  (List.range 32).map fun i =>
    match scaleExp (blk % 256) with
    | none => .nan false
    | some k =>
      let h := i / 16
      match sx4Outlier c h with
      | some o =>
        if i = o then (e4m3.decode (ob / 16 ^ h % 16 * 16 + c (pairOf i))).scale k
        else if i = pairOf o then .fin false 0 0
        else if c i = 8 then .fin false 0 0
        else .fin (decide (8 ≤ c i)) (c i % 8) k
      | none =>
        if c i = 8 then .fin false 0 0 else .fin (decide (8 ≤ c i)) (c i % 8) k

/-- The 32 values of a stored block. -/
def Stored.decode (s : Stored) (blk : Nat) : List Num :=
  match s with
  | .plain f => (List.range 32).map fun i => f.decode (elemAt f.width blk i)
  | .mx f => mxDecode f blk
  | .mxInt8 => mxInt8Decode blk
  | .sx4 => sx4Decode blk

/-- What an encoder gives: the block, the flags of each element, and which elements R84 records. -/
structure BlockRes where
  blk : Nat
  flags : List FlagSet
  sat : List Bool
deriving DecidableEq, Repr

/-- An input of an encoder: value and padding flag. -/
abbrev PadNum := Num × Bool

/-- |x| > |y| for finite values. -/
def magLt (x y : Num) : Bool :=
  match x, y with
  | .fin _ s e, .fin _ t g => magGt t g s e
  | _, _ => false

/-- The largest magnitude of a list. -/
def maxMag (l : List Num) : Num := l.foldl (fun a x => if magLt a x then x else a) (.fin false 0 0)

/-- Clamp(x, -127, 127). -/
def clamp127 (x : Int) : Int := if x < -127 then -127 else if 127 < x then 127 else x

/-- The block that a NaN or infinity in the input makes, with the NV of R85. -/
def nanBlock (xs : List PadNum) : BlockRes :=
  { blk := 255, flags := xs.map fun p => if !p.2 && (p.1.isInf || p.1.isSnan) then flagNV else 0,
    sat := List.replicate 32 false }

/-- Whether a non-padding input is NaN or infinite. -/
def hasNonFinite (xs : List PadNum) : Bool := xs.any fun p => !p.2 && (p.1.isInf || p.1.isNan)

/-- Rounding |x| / 2^e to MXINT8 with its saturation to plus and minus 127 (R87). -/
def mxInt8Round (rm : RMode) (x : Num) : Res :=
  match x with
  | .fin neg sig exp =>
    let (n, inexact) := roundAt rm neg sig exp 0
    if 127 < n then ⟨ofSigned 8 (if neg then -127 else 127), flagOF ||| flagNX, true⟩
    else ⟨ofSigned 8 (if neg then -(n : Int) else n), if inexact then flagNX else 0, false⟩
  | _ => ⟨0, 0, false⟩

/-- An element code with a negative zero made positive (R87). -/
def dropNegZero (f : FFmt) (r : Res) : Res := if r.bits = 2 ^ (f.ew + f.mw) then { r with bits := 0 } else r

/-- The flags R87 names for an element rounding: all but UF. -/
def noUF (r : Res) : Res := { r with flags := r.flags &&& ~~~flagUF }

/-- MxEncode (R87) with its element rounding and Emax; `rm` gives the rounding mode of each element. -/
def mxEncodeWith (w : Nat) (emax : Int) (elem : RMode → Num → Res) (rm : Nat → RMode) (xs : List PadNum) : BlockRes :=
  if hasNonFinite xs then nanBlock xs
  else
    let a := maxMag ((xs.filter fun p => !p.2).map (·.1))
    let e : Int := match a with
      | .fin _ 0 _ => -127
      | .fin _ s x => clamp127 (floorLog2 s x - emax)
      | _ => -127
    let rs := xs.mapIdx fun i p => if p.2 then (⟨0, 0, false⟩ : Res) else elem (rm i) (p.1.scale (-e))
    { blk := (e + 127).toNat + 256 * packElems w (rs.map (·.bits))
      flags := rs.map (·.flags)
      sat := rs.map (·.sat) }

/-- |x| as an integer under a rounding mode, with sign kept; for Sx4Encode. -/
def roundInteger (rm : RMode) (x : Num) : Int × Bool :=
  match x with
  | .fin neg sig exp =>
    let (n, inexact) := roundAt rm neg sig exp 0
    (if neg then -(n : Int) else n, inexact)
  | _ => (0, false)

/-- SignMagnitude of an integer from -7 to 7; zero as 0 (R88). -/
def signMag (x : Int) : Nat := if x < 0 then 8 + x.natAbs else x.natAbs

/-- The lowest element of a half with the largest magnitude not zero (R90). -/
def sx4Cand (xs : List PadNum) (h : Nat) : Option Nat :=
  let go := ((List.range 16).map (16 * h + ·)).foldl (fun (acc : Option (Nat × Num)) i =>
    match xs[i]? with
    | some (x, false) =>
      if x.isZero then acc
      else match acc with
        | none => some (i, x)
        | some (_, y) => if magLt y x then some (i, x) else acc
    | _ => acc) none
  go.map (·.1)

/-- Sx4Encode (R90). -/
def sx4Encode (rm : Nat → RMode) (xs : List PadNum) : BlockRes :=
  if hasNonFinite xs then nanBlock xs
  else
    let c0 := sx4Cand xs 0
    let c1 := sx4Cand xs 1
    let live := (xs.mapIdx fun i p => (i, p)).filter fun q => !q.2.2
    let a0 := maxMag ((live.filter fun q => some q.1 != c0 && some q.1 != c1).map (·.2.1))
    let a := if a0.isZero then maxMag (live.map (·.2.1)) else a0
    let e : Int := match a with
      | .fin _ 0 _ => -127
      | .fin _ s x => clamp127 (floorLog2 s x - 2)
      | _ => -127
    let q := xs.mapIdx fun i p => if p.2 then (0, false) else roundInteger (rm i) (p.1.scale (-e))
    -- the outlier of a half: its E4M3 result, if it is one
    let outlier := fun (h : Nat) =>
      match (if h = 0 then c0 else c1) with
      | none => none
      | some o =>
        if 7 < (q.getD o (0, false)).1.natAbs then
          let r := e4m3.round .rne ((xs.getD o (.fin false 0 0, true)).1.scale (-e))
          let fix := o % 2 = 1 ∧ r.bits % 16 = 8
          some (o, if fix then r.bits - 1 else r.bits, r.flags ||| (if fix then flagNX else 0), r.sat)
        else none
    let o0 := outlier 0
    let o1 := outlier 1
    let cell := fun (i : Nat) =>
      match (if i < 16 then o0 else o1) with
      | some (o, t, fl, sat) =>
        if i = o then (⟨8, fl, sat⟩ : Res)
        else if i = pairOf o then
          ⟨t % 16, if (xs.getD i (.fin false 0 0, true)).2 || (xs.getD i (.fin false 0 0, true)).1.isZero then 0 else flagNX, false⟩
        else plain q i
      | none => plain q i
    let rs := (List.range 32).map cell
    let nib := fun (o : Option (Nat × Nat × FlagSet × Bool)) => match o with
      | some (_, t, _, _) => t / 16
      | none => 0
    { blk := (e + 127).toNat + 256 * (nib o0 + 16 * nib o1) + 65536 * packElems 4 (rs.map (·.bits))
      flags := rs.map (·.flags)
      sat := rs.map (·.sat) }
where
  /-- A code that is no outlier's. -/
  plain (q : List (Int × Bool)) (i : Nat) : Res :=
    let x := q.getD i (0, false)
    if 7 < x.1.natAbs then ⟨signMag (if x.1 < 0 then -7 else 7), flagOF ||| flagNX, true⟩
    else ⟨signMag x.1, if x.2 then flagNX else 0, false⟩

/-- Encode of a stored format (R87, R90, R98). -/
def Stored.encode (s : Stored) (rm : Nat → RMode) (xs : List PadNum) : BlockRes :=
  match s with
  | .plain f =>
    let rs := xs.mapIdx fun i p => if p.2 then (⟨0, 0, false⟩ : Res) else f.round (rm i) p.1
    { blk := packElems f.width (rs.map (·.bits)), flags := rs.map (·.flags), sat := rs.map (·.sat) }
  | .mx f => mxEncodeWith f.width f.emax (fun m x => noUF (dropNegZero f (mxRound f m x))) rm xs
  | .mxInt8 => mxEncodeWith 8 0 (fun m x => mxInt8Round m (x.scale 6)) rm xs
  | .sx4 => sx4Encode rm xs
where
  /-- Round(x / 2^e, fe): no infinity or NaN reaches it. -/
  mxRound (f : FFmt) (m : RMode) (x : Num) : Res := f.round m x

/-- The delivered element code of a stored block's value (R97). -/
def deliver (d : FFmt) (x : Num) : Nat := (d.round .rne x).bits

/-- Whether an SFMT, DFMT pair is permitted (R35). -/
def fmtPairOk (sfmt dfmt : Nat) : Bool :=
  if sfmt = 0 then dfmt == 0
  else
    (dfmt == 1 || dfmt == 2 || dfmt == 3) && sfmt != dfmt &&
      match storedOf sfmt, storedOf dfmt with
      | some (.plain a), some (.plain b) => decide (a.width ≤ b.width)
      | some _, some _ => true
      | _, _ => false

/-- The codes of a MFMT or packed ET block format as an ET code (R192). -/
def packedOf (et : Nat) : Option Stored := if 0x16 ≤ et ∧ et ≤ 0x1C then storedOf (et - 0x10) else none

/-- The canonical reduction of R91-R93, on codes at one precision. -/
structure C64 where
  slot : List Nat
  nch : Nat
  cidx : Nat
  part : Nat
  /-- the flags its additions have raised (R85) -/
  fl : FlagSet
deriving DecidableEq, Repr

/-- C64Close; the count of chunks is checked before (R93). -/
def C64.close (f : FFmt) (k : C64) : C64 :=
  let (s, j, slots, fl) := go k.slot k.nch 32 k.part 0 k.fl
  { slot := slots.set j s, nch := (k.nch + 1) % 2 ^ 32, cidx := 0, part := 0, fl := fl }
where
  /-- The carry through the valid slots. -/
  go (slots : List Nat) (nch : Nat) : Nat → Nat → Nat → FlagSet → Nat × Nat × List Nat × FlagSet
    | 0, s, j, fl => (s, j, slots, fl)
    | n + 1, s, j, fl =>
      if nch / 2 ^ j % 2 = 1 then
        let r := f.add .rne (slots.getD j 0) s
        go (slots.set j 0) nch n r.bits (j + 1) (fl ||| r.flags)
      else (s, j, slots, fl)

/-- C64Push (R93); none when the push would close a chunk beyond the last. -/
def C64.push (f : FFmt) (k : C64) (x : Nat) : Option C64 :=
  let k := if k.cidx = 0 then { k with part := x, cidx := 1 }
    else
      let r := f.add .rne k.part x
      { k with part := r.bits, cidx := k.cidx + 1, fl := k.fl ||| r.flags }
  if k.cidx = 64 then if k.nch = 0xFFFFFFFF then none else some (k.close f) else some k

/-- C64Final (R93), with its flags; none when its close is refused. -/
def C64.final (f : FFmt) (k : C64) : Option (Nat × FlagSet) :=
  let t := if k.cidx > 0 then (if k.nch = 0xFFFFFFFF then none else some (k.close f)) else some k
  t.map fun t =>
    let r := (List.range 32).foldl (fun (s : Option Nat × FlagSet) j =>
      if t.nch / 2 ^ j % 2 = 1 then
        match s.1 with
        | none => (some (t.slot.getD j 0), s.2)
        | some v =>
          let r := f.add .rne (t.slot.getD j 0) v
          (some r.bits, s.2 ||| r.flags)
      else s) (none, t.fl)
    (r.1.getD 0, r.2)

/-- An empty state. -/
def C64.empty : C64 := { slot := List.replicate 32 0, nch := 0, cidx := 0, part := 0, fl := 0 }

/-- C64Sum of codes of format f (R93), with its flags; a single code comes back as it stands (log 92). -/
def c64Sum (f : FFmt) (l : List Nat) : Nat × FlagSet :=
  match l.foldlM (fun k x => C64.push f k x) C64.empty with
  | some k => (k.final f).getD (0, 0)
  | none => (0, 0)

/-- The sum of a group's exact products, with the sign of a zero sum (R95). -/
def groupSum (ps : List (Num × Num)) : Num :=
  let prods := ps.map fun p => (numMul p.1 p.2).1
  if prods.any Num.isNan then .nan false
  else
    let pinf := prods.any fun p => p == .inf false
    let ninf := prods.any fun p => p == .inf true
    if pinf && ninf then .nan false
    else if pinf then .inf false
    else if ninf then .inf true
    else
      let total := prods.foldl (fun a p => (numAdd false a p).1) (.fin true 0 0)
      if total.isZero then
        .fin (prods.all (fun p => p.isZero && p.isNeg) && !prods.isEmpty) 0 0
      else total

end Sys2Proof.Machine
end

