-- ==== Sys2Proof/Machine/Cells.lean ====
section
/-! DEFINITION. Sparse maps as lists of (key, value) pairs, and bytes kept in them in one canonical form: keys strictly
rising, no listed byte equal to what an unlisted address reads as (zero). -/

namespace Sys2Proof.Machine

/-- The value at a key, if one is listed. -/
def mapGet {α : Type} : List (Nat × α) → Nat → Option α
  | [], _ => none
  | e :: r, k => if e.1 = k then some e.2 else mapGet r k

/-- The map with a value put at a key, keys kept rising. -/
def mapSet {α : Type} : List (Nat × α) → Nat → α → List (Nat × α)
  | [], k, v => [(k, v)]
  | e :: r, k, v =>
    if e.1 = k then (k, v) :: r
    else if k < e.1 then (k, v) :: e :: r
    else e :: mapSet r k v

/-- The map without a key. -/
def mapErase {α : Type} (m : List (Nat × α)) (k : Nat) : List (Nat × α) :=
  m.filter fun e => e.1 != k

/-- The value at a key, with a default for a key that is not listed. -/
def mapGetD {α : Type} (m : List (Nat × α)) (k : Nat) (d : α) : α := (mapGet m k).getD d

/-- Bytes by address; an unlisted address reads as zero. -/
abbrev Cells := List (Nat × Byte)

/-- The byte at an address. -/
def Cells.get (m : Cells) (a : Nat) : Byte := mapGetD m a 0

/-- Writing a byte; writing zero removes the entry. -/
def Cells.set (m : Cells) (a : Nat) (b : Byte) : Cells :=
  if b = 0 then mapErase m a else mapSet m a b

/-- The canonical form: addresses strictly rising, no zero byte listed. -/
def Cells.wf : Cells → Bool
  | [] => true
  | e :: r => e.2 != 0 && (match r with | [] => true | f :: _ => decide (e.1 < f.1)) && Cells.wf r

/-- n bytes from an address, as one little-endian number (R2). -/
def Cells.read (m : Cells) (a : Nat) : Nat → Nat
  | 0 => 0
  | n + 1 => (m.get a).toNat + 256 * Cells.read m (a + 1) n

/-- The low n bytes of a number written little-endian from an address (R2). -/
def Cells.write (m : Cells) (a : Nat) : Nat → Nat → Cells
  | 0, _ => m
  | n + 1, v => Cells.write (m.set a (BitVec.ofNat 8 v)) (a + 1) n (v / 256)

end Sys2Proof.Machine
end

