-- ==== Sys2Proof/Machine/State.lean ====
section
/-! DEFINITION. The state of one B4 module, as plain data: its strands, cores, quads, dies, stacks, control complex and hub
(07 R160, 05, 03, 18), with the memory its strands can reach.  Two fields are the model's own: `turn` and `agenda`
say which agent moves and what arrives from outside (log 3), and `fresh` counts free values drawn (log 4). -/

namespace Sys2Proof.Machine

/-- Why the model stops a step: it never does, since every access that leads nowhere takes a trap (R26). -/
inductive Fault where
deriving DecidableEq, Repr

/-- Why a step has no meaning. -/
inductive Refusal where
  /-- An instruction that has no meaning yet.  Raised by exec's refused arms only.  Safe. -/
  | notModelled (mnemonic : String)
  /-- The agent whose turn it is names a context that is free: nothing executes there.  Raised by every meaning that
  needs an executing agent.  Safe. -/
  | noAgent
deriving DecidableEq, Repr

/-- What a strand sleeps on (R182). -/
inductive Sleep where
  /-- a full queue it writes (R165) -/
  | queueFull (q : Fin 8)
  /-- an empty queue it reads (R165) -/
  | queueEmpty (q : Fin 8)
  /-- an active stream of a load-data queue (R344) -/
  | stream (q : Fin 8)
  /-- a held semaphore bit (R128) -/
  | ctas (bit : Fin 32)
  /-- SIGWAIT: destination, address, value waited for, scope (R333) -/
  | sigwait (d : GReg) (va ref : Word) (scope : Fin 8)
  /-- BAR, arrived in an episode (R329) -/
  | bar (scope : Fin 8) (inst : Nat) (bar : Fin 16)
  /-- WAITT: destination and time waited for (R334) -/
  | waitt (d : GReg) (target : Word)
  /-- CPLW of a path up to an operation (R352) -/
  | cplw (path : Fin 6) (n : BitVec 32)
  /-- IDLE (R235) -/
  | idle
  /-- 256 operations outstanding on a path (R131) -/
  | issueLimit (path : Fin 6)
  /-- XFENCE and BNKRD: until an operation of a path is complete (R140, R143) -/
  | opDone (path : Fin 6) (n : BitVec 32)
  /-- until every issued operation of the paths in the mask is complete: SEXIT (R224), releases and fences (R141-R147) -/
  | drain (paths : BitVec 6)
  /-- until other strands have reached a point: a change of LGMAP (R169), or their stop (R232, R378, R409) -/
  | others (cs : List Ctx)
  /-- XLINV: until no outstanding operation of these strands uses a page of a job any more (R42) -/
  | pageUse (job va : Nat) (cs : List Ctx)
  /-- XFENCE: until the execute side has reached an operation that was issued before it (R143) -/
  | performed (path : Fin 6) (n : BitVec 32)
  /-- XFENCE: until the replies to remote bank requests have come (R143, R372) -/
  | replies
  /-- until another module has answered a request to a Caldera at an address, for a register; or it has answered that there is none
  (R372) -/
  | reply (d : GReg) (va : Word) (refused : Bool)
  /-- until n bytes of another module have come over the fabric, for an agent or its engines (R43) -/
  | fabric (who : Agent) (cell n : Nat)
deriving DecidableEq, Repr

/-- Why a strand is being, or has been, stopped other than by a trap (R400). -/
inductive StopKind where
  /-- PREEMPT, or CTXSAVE of a strand that a precise trap stopped (R401) -/
  | preempt
  /-- the dispatch unit's pre-emption (R381) -/
  | dispatch
  /-- an abort of the launch (R378) -/
  | abort
  /-- retirement of a lane group (R409) -/
  | retire
deriving DecidableEq, Repr

/-- The condition of a bound strand (R160). -/
inductive Cond where
  /-- it may issue -/
  | runnable
  /-- it sleeps -/
  | asleep (r : Sleep)
  /-- it is stopped by a trap or a pre-emption -/
  | stopped
deriving DecidableEq, Repr

/-- What strands and control complex cores have in common: the scalar side (R160, R422). -/
structure Hart where
  /-- g0-g31; g0 is never written (R185) -/
  g : Vector Word 32
  /-- program counter -/
  pc : Word
  /-- STATUS (R194, Table 10) -/
  status : Word
  tcause : Word
  tpc : Word
  tval : Word
  tframe : Word
  /-- PTBASE (R27) -/
  ptbase : Word
  /-- LACT, LBEG, LEND, LREM (R222); a control complex core holds LACT in CCSTAT -/
  lact : Bool
  lbeg : Word
  lend : Word
  lrem : Word
  /-- the reservation: the cell address of its aligned 8-byte word (R212) -/
  resv : Option Nat
deriving DecidableEq, Repr

/-- A fibre register (R275). -/
structure Fibre where
  /-- value type, an ET code -/
  fet : Fin 32
  /-- order class (Table 1) -/
  ord : Fin 4
  /-- the entries: coordinate and value -/
  entries : List (BitVec 32 × Word)
deriving DecidableEq, Repr

/-- A canonical reduction register (R92). -/
structure KState where
  slot : Vector Word 32
  nch : BitVec 32
  /-- false FP32, true FP64 -/
  prec : Bool
  cidx : BitVec 6
  part : Word
deriving DecidableEq, Repr

/-- What fills a place of q4 or q5 that was taken before its data (R164): a GEY or FUM operation, or a forwarded VLDQ. -/
inductive Filler where
  | op (n : BitVec 32)
  | load
deriving DecidableEq, Repr

/-- An entry of q4 or q5 (R164): elements as bits, their number and width, or a place whose data has not arrived. -/
structure VEntry where
  count : Nat
  width : Nat
  bits : Nat
  /-- what still has to fill it; none: the data is there -/
  awaits : Option Filler
deriving DecidableEq, Repr

/-- An entry of q6 or q7: its value, or the REM or BNK operation (path, number) that fills it (R350, R367). -/
inductive REntry where
  | value (v : Word)
  | awaits (path : Fin 6) (n : BitVec 32)
deriving DecidableEq, Repr

/-- One translation: a page of a job and its leaf (R30, R41). -/
structure PageTr where
  job : Nat
  vbase : Nat
  size : Nat
  leaf : Word
  /-- cell address of the leaf entry -/
  pte : Nat
deriving DecidableEq, Repr

/-- Bank ALU operations of BNKOP (R124, R335). -/
inductive BankOp where
  | add | min | max | minn | maxn | and | or | xor | swap | cas | fadd32 | fadd64
deriving DecidableEq, Repr

/-- One element of a gather: where it is read (none: delivered as zero) and its value once it has arrived (R68-R71). -/
structure GatherElem where
  src : Option (PageTr × Nat)
  val : Option Nat
deriving DecidableEq, Repr

/-- A write that a remote store makes: which copy, its pages with the bytes on each, its address, its bytes and its LINK (R348). -/
structure RemoteWrite where
  copy : Nat
  parts : List (PageTr × Nat × Nat)
  va : Nat
  len : Nat
  data : Nat
  link : Fin 4 := 0
deriving DecidableEq, Repr

/-- What an outstanding operation still has to do (R338). -/
inductive OpWork where
  /-- affine Geyser stream: base, destination word, element size, (extent, stride) of each dimension, elements in all,
  elements per queue entry, elements delivered (R342) -/
  | affine (base dest : Word) (e : Nat) (dims : List (Nat × Int)) (total qlen pos : Nat) (pages : List PageTr)
  /-- fibre Geyser stream: destination word, value size, coordinate and value arrays, first child, children, MAXE,
  children delivered (R343) -/
  | fibre (dest : Word) (e : Nat) (c v : Word) (lo cnt maxe pos : Nat) (pages : List PageTr)
  /-- Fumarole gather: destination word, element size, elements (R68) -/
  | gather (dest : Word) (e : Nat) (elems : List GatherElem)
  /-- numbered at issue; its instruction still stands in the execute side's queue -/
  | forwarded
  /-- copy: form 0-3 of COPY, COPY.MT, COPY.TM, COPY.TT, destination, source, length (R347) -/
  | copy (form : Fin 4) (dst src : Word) (len : Nat) (pages : List PageTr)
  /-- remote store or, with `add`, remote add: its writes, its status queue, and whether it was accepted (R348, R351) -/
  | remoteStore (add : Bool) (writes : List RemoteWrite) (q : Fin 2) (accepted : Bool)
  /-- SIGINC to another module, and whether it is a SIGINC.R (R332) -/
  | remoteSignal (addr : Nat) (addend : Word) (release : Bool)
  /-- the B operand reads of a multiply, already made (R130) -/
  | operandFetch
  /-- BNKOP: cell address, operand, expected value, destination register (R335) -/
  | bank (op : BankOp) (addr : Nat) (x expected : Word) (d : GReg)
  /-- BNKEXA: (slot cell address, element code) of each selected element, and whether the slots are FP64 (R337) -/
  | exact (adds : List (Nat × Word)) (f64 : Bool) (bf16 : Bool)
  /-- CDEP: Caldera cell address, ticket word, gate word, row elements, status queue (R367) -/
  | deposit (addr : Nat) (ticket gate : Word) (row : List (BitVec 16)) (q : Fin 2)
deriving DecidableEq, Repr

/-- An operation issued on a path and not yet counted out (R131). -/
structure PathOp where
  path : Fin 6
  n : BitVec 32
  work : OpWork
  complete : Bool
  /-- the report word of a data error that ended it (R339) -/
  err : Option Word
deriving DecidableEq, Repr

/-- The values an execute-side instruction takes from the access side when it is forwarded (R162). -/
structure Captured where
  g : Vector Word 32
  vl : Word
  vpad : Word
  vtype : Word
  mfmt : Word
  srseed : Word
  tm : Word
  tn : Word
  tk : Word
  pivfloor : Word
deriving DecidableEq, Repr

/-- A forwarded instruction (R162). -/
structure Forwarded where
  pc : Word
  instr : Instr
  cap : Captured
  /-- the number it was given on its path (R338) -/
  op : Option (BitVec 32)
  /-- it was issued inside a VREP replay (R406) -/
  rpl : Bool
  /-- VL and VPAD before the length step of an FEXP (R294, R298) -/
  before : Option (Word × Word)
deriving DecidableEq, Repr

/-- What a fault frame keeps besides the registers, which stay in the context (R398). -/
structure Frame where
  head : Forwarded
  rest : List Forwarded
  /-- the completed-element mask CM (R394) -/
  cm : Nat
  /-- its number among the frames that have been written -/
  serial : Nat
deriving DecidableEq, Repr

/-- Whose frame was written at a place in memory (R398): the strand's launch and gang rank, and the frame's number. -/
structure FrameKey where
  launch : ModNum × BitVec 32
  rank : Nat
  serial : Nat
deriving DecidableEq, Repr

/-- A store that has been issued and not performed: its pages with the bytes on each, its address, length and value, and whether
it is the execute side's (R138, R139). -/
structure PendingStore where
  parts : List (PageTr × Nat × Nat)
  va : Nat
  len : Nat
  value : Nat
  exs : Bool
deriving DecidableEq, Repr

/-- A lasting error of data that an instruction of a strand uses (R412, R414): ELEM, 0xFFFF on the access side; STRUCT and SEQ of its
entry; LOST. -/
structure DataErr where
  elem : BitVec 16
  struct : Nat
  seq : Nat
  lost : Bool
deriving DecidableEq, Repr

/-- A strand: the whole state of a bound context (R160). -/
structure Strand where
  hart : Hart
  v : Vector (BitVec 16384) 32
  m : Vector (BitVec 32768) 16
  fm : BitVec 32768
  f : Vector Fibre 8
  k : Vector KState 4
  d : Vector (BitVec 32) 8
  /-- q0-q3 -/
  qs : Vector (List Word) 4
  /-- q4, q5 -/
  qv : Vector (List VEntry) 2
  /-- q6, q7 -/
  qr : Vector (List REntry) 2
  vl : Word
  vpad : Word
  vtype : Word
  mfmt : Word
  vprog : Word
  tm : Word
  tn : Word
  tk : Word
  share : Word
  slip : Word
  bypt : Word
  srseed : Word
  /-- SRSEED has been written since the launch began (R21) -/
  seeded : Bool
  pivfloor : Word
  accwin : Word
  /-- CPLCNT of paths 0-5: ISSUED, DONE (R130) -/
  cpl : Vector (BitVec 32 × BitVec 32) 6
  /-- issued operations that DONE has not passed -/
  ops : List PathOp
  /-- armed upcalls: handler, path, operation (R132) -/
  armed : List (Word × Fin 6 × BitVec 32)
  /-- pending upcalls in delivery order: handler, path, operation -/
  pending : List (Word × Fin 6 × BitVec 32)
  /-- shadow g28-g31 (R133) -/
  shadow : Vector Word 4
  upra : Word
  /-- the vector reservation set: element index and cell address of its word (R254) -/
  vresv : List (Nat × Nat)
  ract : Bool
  rbeg : Word
  rend : Word
  rrem : Word
  /-- the replay buffer: the words of the body that have been captured, by address (R176) -/
  rbody : List (Nat × Nat)
  /-- block point x0-x3 of a stopped Sirmal block (R407) -/
  blkpt : Option (List Nat)
  /-- operations ended under R339 whose error is not yet observed (R401): path, number, report word -/
  ede : List (Fin 6 × BitVec 32 × Word)
  /-- pending Caldera time-outs, token indices in release order (R396) -/
  timeouts : List (BitVec 32)
  cond : Cond
  /-- a stop other than a trap, asked for or reached -/
  stop : Option StopKind
  frame : Option Frame
  /-- the execute side's instruction queue, oldest first (R162) -/
  iq : List Forwarded
  /-- the execute side is performing the head of `iq`; its captured values stand in the registers -/
  fromQueue : Option Forwarded
  /-- the access side's own values while `fromQueue` is set -/
  saved : Option Captured
  /-- bank results on their way back to a general register (R335, R336) -/
  returns : List (GReg × Word)
  /-- a remote bank request whose reply is awaited (R372) -/
  awaitsBank : List GReg
  /-- completed elements of the instruction that a loaded frame runs again (R394) -/
  cm : Nat
  /-- launch: issuing module and number (R375) -/
  launchMod : ModNum
  launchNum : BitVec 32
  handle : BitVec 32
  /-- gang rank (R374) -/
  rank : Nat
  /-- address of the strand's save area (R397) -/
  saveArea : Word
  /-- TIME at which it was last placed (R381) -/
  placedAt : Word
  /-- the arbiter's credit, and whether a YIELD keeps the strand from the next choice (R385) -/
  cred : Int
  yielded : Bool
  /-- stores that have been issued and not performed, oldest first (R138, R139) -/
  stores : List PendingStore
  /-- the agenda asks for the stores of this instruction not to be performed at once -/
  delay : Bool
  /-- multicast windows of the quad that were opened before this one are closed to the strand (R113) -/
  winClosed : Nat
  /-- a lasting error of data that an instruction under way uses and has not met yet (R412) -/
  dataErr : Option DataErr
deriving DecidableEq, Repr

/-- A line of the L1 data cache: the 64-byte line number of its cell and the copy (R114). -/
structure L1Line where
  line : Nat
  data : BitVec 512
deriving DecidableEq, Repr

/-- A gathered line: the stride of its load, and its elements as (cell address, size, copy); its tag is the cell of the first,
the stride, the element size and the count (R117). -/
structure GatheredLine where
  stride : Int
  elems : List (Nat × Nat × Word)
deriving DecidableEq, Repr

/-- A line of the main partition of the L1 data cache (R114, R117). -/
inductive MainLine where
  | plain (l : L1Line)
  | gathered (g : GatheredLine)
deriving DecidableEq, Repr

/-- A held expansion of a Sirmal block (R122): its tag - code handle, address of the SBLK word, VLMAX, and the VTYPE class
(register element type, rounding mode, MFMT.FMT) - and the words it was made from. -/
structure Expansion where
  handle : BitVec 32
  va : Nat
  vlmax : Nat
  vclass : Nat × Nat × Nat
  words : List Nat
deriving DecidableEq, Repr

/-- A core besides its contexts. -/
structure Core where
  /-- LGMAP (R166) -/
  lgmap : Word
  tile : Cells
  acc : Cells
  /-- translation cache, newest first (R41) -/
  tlb : List PageTr
  /-- L1 main and coordinate partitions, most recently used first (R114) -/
  l1main : List MainLine
  l1coord : List L1Line
  /-- pages through which lines of the L1 were filled (R120) -/
  l1Pages : List PageTr
  /-- L1 instruction cache, newest first: code handle, virtual address and copy of a word (R121) -/
  icache : List (BitVec 32 × Nat × Nat)
  /-- decoded-operation cache, newest first (R122) -/
  expansions : List Expansion
  /-- the context that the issue stage served last (R384), and by partition the zero-weight one that its arbiter did (R385) -/
  served : Nat
  idled : List (Nat × Nat)
  /-- the core has left service (R410) -/
  dead : Bool
  /-- lost units of its stores: unit address, STRUCT, SEQ of the entry (R413) -/
  lost : List (Nat × Nat × Nat)
deriving DecidableEq, Repr

/-- A multicast window (R112): a block of 1,024 bytes of a core's tile store as one read found it, the time of that read, and the
number of the window. -/
structure Window where
  core : Nat
  block : Nat
  data : Nat
  time : Word
  num : Nat
deriving DecidableEq, Repr

/-- A quad's communication registers and owner (R104, R127). -/
structure Quad where
  sem : BitVec 32
  /-- strands asleep in CTAS, in the order in which they began waiting -/
  waiting : List (Ctx × Fin 32)
  data : Vector Word 16
  job : Option (BitVec 16)
  /-- multicast windows, newest first, and the number of the next one (R112) -/
  windows : List Window
  nextWindow : Nat
deriving DecidableEq, Repr

/-- A configured Caldera (R362, R365). -/
structure Caldera where
  /-- cell address of its first byte -/
  base : Nat
  /-- its virtual address and the pages found by the CCFG -/
  va : Nat
  pages : List PageTr
  word : Word
  /-- launch and gang rank of the strand that issued the CCFG -/
  owner : ModNum × BitVec 32 × Nat
  job : BitVec 16
  /-- slots released by time-out and not yet taken or freed -/
  timedOut : List Nat
deriving DecidableEq, Repr

/-- A deposit in a die's intake (R367): who is told, and what it carries. -/
structure Deposit where
  /-- issuing context and BNK operation number, or the module it came from -/
  ctx : Option Ctx
  op : BitVec 32
  src : ModNum
  addr : Nat
  ticket : Word
  gate : Word
  row : List (BitVec 16)
deriving DecidableEq, Repr

/-- A trap notice (R390), its four words. -/
structure Notice where
  w0 : Word
  cause : Word
  tpc : Word
  tval : Word
deriving DecidableEq, Repr

/-- A launch's share on one die (R379). -/
structure Share where
  issuer : ModNum
  number : BitVec 32
  prio : Fin 8
  age : Nat
  /-- the ranks still to be placed; a rank with a save layout is restored instead of started -/
  ranks : List (Nat × Bool)
  /-- order of placement, for the choice of victims; none: not placed -/
  placed : Option Nat
deriving DecidableEq, Repr

/-- A die besides its cores. -/
structure DieState where
  shares : List Share
  nextAge : Nat
  nextPlace : Nat
  calderas : List Caldera
  intake : List Deposit
  /-- trap notices held by the die, oldest first (R427) -/
  notices : List Notice
  /-- lost units of bank memory: unit cell address, STRUCT, SEQ of the entry (R413) -/
  lost : List (Nat × Nat × Nat)
deriving DecidableEq, Repr

/-- Priority classes of the memory-side cache (R58). -/
inductive Prio where
  | low | normal | high | pinned
deriving DecidableEq, Repr

/-- A line of a memory-side cache (R56): its line number in the stack (stack offset / 256), its way and its marks.  `State.mem` holds
what the cache shows; `under` is what DRAM holds beneath a dirty line until the line is written back (R57). -/
structure MscLine where
  line : Nat
  way : Nat
  dirty : Bool
  under : BitVec 2048
  prio : Prio
  chain : BitVec 8
  gen : BitVec 4
deriving DecidableEq, Repr

/-- Elements of one request in one line, at their home or on the base-die ring (R70): their pages, and each with its address and,
once read, its value. -/
structure RingItem where
  ctx : Ctx
  op : BitVec 32
  entry : Die
  home : Die
  ascending : Bool
  pages : List PageTr
  size : Nat
  elems : List (Nat × Nat × Nat)
deriving DecidableEq, Repr

/-- A memory stack and its base die (03). -/
structure Stack where
  scfg : Word
  hrctl : Word
  hrovf : BitVec 32
  mschit : Word
  mscmiss : Word
  fgfwd : Word
  gens : Vector (BitVec 4) 256
  /-- cached lines by set, most recently used first -/
  msc : List (Nat × List MscLine)
  /-- activations of DRAM rows in the running window -/
  acts : List (Nat × Nat)
  /-- rows captured in the running window -/
  captured : List Nat
  /-- DEMOTEs that have not taken effect here, oldest first -/
  demotes : List (BitVec 8)
  /-- scrubs running -/
  scrubs : List (BitVec 8)
  /-- requests and returned data on the ring that this stack has to handle next -/
  ringFwd : List RingItem
  ringRet : List RingItem
  /-- lost lines: cell address of the line, STRUCT, SEQ of the entry (R413) -/
  lost : List (Nat × Nat × Nat)
  /-- DRAM rows moved to a spare: row and spare index (R415) -/
  spares : List (Nat × Nat)
deriving DecidableEq, Repr

/-- A control complex core (R422-R424). -/
structure CcCore where
  hart : Hart
  tvec : Word
  ccstat : Word
  held : Bool
  asleep : Option Sleep
  /-- traps and interrupts being handled, one within the other (R230) -/
  handling : Nat
  /-- interrupts raised and not taken: source and MSI-X vector -/
  irqs : List (Fin 8 × BitVec 16)
  tlb : List PageTr
  /-- its open linked access is made in the control complex's own cache, on a page with SWA = 0: the
  word as it read it (R52) -/
  resvOwn : Option Word
deriving DecidableEq, Repr

/-- An entry of the Tuff record (R417). -/
structure TuffEntry where
  seq : Word
  time : Word
  type : BitVec 8
  sev : BitVec 8
  struct : BitVec 8
  count : BitVec 8
  place : BitVec 32
  payload : Word
deriving DecidableEq, Repr

/-- A loaded code handle (R439, R200, R201). -/
structure Handle where
  num : BitVec 32
  code : Word
  size : Nat
  entries : List Nat
  resumes : List Nat
  system : Bool
deriving DecidableEq, Repr

/-- A resident launch (R373-R376). -/
structure Launch where
  issuer : ModNum
  number : BitVec 32
  prio : Fin 8
  chain : BitVec 8
  repro : Bool
  runafter : Bool
  slip : BitVec 4
  share : BitVec 4
  lgps : Fin 4
  pkind : Fin 3
  handle : BitVec 32
  entry : Nat
  strands : Nat
  accsz : Nat
  param : Word
  ptbase : Word
  save : Word
  savestride : Word
  done : Word
  /-- predecessors that have not retired -/
  preds : List (BitVec 32)
  /-- a predecessor retired FAILED or CANCELLED -/
  predFailed : Bool
  place0 : Word
  place1 : Word
  /-- it has entered dispatch -/
  dispatched : Bool
  /-- strands of this module that have ended by SEXIT -/
  exited : Nat
  /-- its share on this module has not retired yet (R376, R383) -/
  here : Bool
  /-- other modules whose share has not retired yet, as far as this module has been told -/
  othersLeft : Nat
  /-- it has been aborted -/
  aborted : Bool
deriving DecidableEq, Repr

/-- A barrier episode with an arrival standing (R329). -/
structure Episode where
  scope : Fin 8
  inst : Nat
  bar : Fin 16
  job : BitVec 16
  count : Nat
  arrived : List Ctx
deriving DecidableEq, Repr

/-- A strand whose layout has been saved and not loaded here since: its launch and gang rank, and whether it has written SRSEED since
its launch began, neither of which the layout holds (R21, R397, R402). -/
structure SavedStrand where
  launch : ModNum × BitVec 32
  rank : Nat
  seeded : Bool
deriving DecidableEq, Repr

/-- Read-duplicate states at the home (R49, Table 8). -/
inductive RdState where
  | shared
  | splitting (w : ModNum)
  | collapsing (w : ModNum)
  | owned (w : ModNum)
  | transfer (w x : ModNum)
deriving DecidableEq, Repr

/-- A read-duplicate page kept by this home (R48). -/
structure RdPage where
  /-- its size in bytes, its stored format and its job -/
  size : Nat
  sfmt : Fin 16
  job : BitVec 16
  /-- every holder: its module, the module-local address of its copy's frame, and the cell of its leaf entry -/
  holders : List (ModNum × Nat × Nat)
  state : RdState
  /-- holders that have not sent their ACK -/
  acks : List ModNum
  /-- writers queued, oldest first -/
  queue : List ModNum
  /-- writers whose faulting access has been released -/
  released : List ModNum
  /-- the number of the 64 KiB page that the fault named, for a page being split -/
  written : Nat
  /-- writers that faulted on a page being split, with the 64 KiB page that each named -/
  late : List (ModNum × Nat)
deriving DecidableEq, Repr

/-- A packet sent to another module (R431): its type, destination module, address, operation number, data and operands, LINK and
RELEASE. -/
structure Packet where
  type : BitVec 8
  dst : ModNum
  addr : Nat
  op : BitVec 32
  data : List Byte
  operands : List Word
  link : Fin 4 := 0
  release : Bool := false
deriving DecidableEq, Repr

/-- A read of another module's memory on its way over the fabric (R43): for whom, its bytes' first cell and number, and each byte
once it has arrived. -/
structure FabricRead where
  who : Agent
  cell : Nat
  len : Nat
  data : List (Option Byte)
deriving DecidableEq, Repr

/-- What an event of the supervisor still waits for before it takes place, so that it comes again (R42, R48-R50). -/
inductive EventWait where
  /-- accesses of contexts through the page of a job that holds an address -/
  | pageUse (job va : Nat) (who : List Ctx)
  /-- bytes of another module -/
  | fabric
deriving DecidableEq, Repr

/-- Where boot stands (R436, R437). -/
inductive BootPhase where
  /-- the boot ROM is about to check the carrier's image -/
  | rom
  /-- the image was refused; the ROM waits for one by TFTP -/
  | waitImage
  /-- the firmware runs -/
  | running
deriving DecidableEq, Repr

/-- An uncorrectable event whose retry is in progress (R412). -/
structure ErrorEvent where
  struct : BitVec 8
  place : BitVec 32
  addr : Nat
  ctx : Option Ctx
  elem : BitVec 16
  /-- the SEQ of its LASTING entry, while strands have to stop before what follows from it (R409, R410) -/
  seq : Option Nat
deriving DecidableEq, Repr

/-- Hub registers, record and boot state (17, 18). -/
structure Hub where
  pwrctl : Word
  swamix : Word
  fubase : Word
  nqctl : Word
  nqptr : Word
  timectl : Word
  timestat : Word
  rstctl : Word
  attest : Word
  /-- words of MEXT stored so far (R438) -/
  mext : List Word
  /-- the measurement register and the count of extensions -/
  meas : BitVec 512
  measCount : Nat
  /-- MODPRES0-63 -/
  modpres : BitVec 4096
  tuffctl : Word
  tuffdrop : BitVec 32
  tuffput : Vector Word 4
  tuff : List (Nat × TuffEntry)
  tuffSeq : Nat
  /-- SEQ of the next entry to send, entries lost since the last send -/
  tuffSent : Nat
  tuffLost : Nat
  handles : List Handle
  /-- the number of the handle that the firmware issued last (R439) -/
  lastHandle : BitVec 32
  launches : List Launch
  /-- retired launches, newest first: number and outcome (R377) -/
  history : List (BitVec 32 × Nat)
  nextLaunch : BitVec 32
  /-- strands that have been saved and not loaded again -/
  saved : List SavedStrand
  episodes : List Episode
  /-- bytes reserved in the receive buffer (R350) -/
  recvUsed : Nat
  /-- read-duplicate pages of which this module is the home, by the number of their first 64 KiB -/
  rd : List (Nat × RdPage)
  errors : List ErrorEvent
  /-- lanes out of use by link or port (R416); 256 and more: it is disabled, and the rest is the SEQ of its LASTING entry -/
  links : List (Nat × Nat)
  mgmtUp : Bool
  /-- frames received on the management port after boot (R429) -/
  mgmtFrames : List (List Byte)
  /-- datagrams sent to the collector: first SEQ and entries (R419) -/
  collector : List (Nat × List TuffEntry)
  /-- the code-signing keys of the booted image's header: modulus, exponent, system-code flag (R437) -/
  keys : List (Nat × Nat × Bool)
  outbox : List Packet
  /-- remote reads in flight, and data that have arrived for an access that waits for them (R43) -/
  fabric : List FabricRead
  /-- what the event just taken waits for, before it comes again (R43, R48, R50) -/
  rdWait : Option EventWait
  /-- the clocks of the compute dies are stopped (R420) -/
  frozen : Bool
  /-- the compute dies have left reset (R432) -/
  diesReleased : Bool
  /-- the module has received time from a grandmaster (Table 9 of 18) -/
  timeKnown : Bool
  /-- TIME at which GM was set (R432) -/
  gmSince : Option Word
deriving DecidableEq, Repr

/-- One item of the agenda: what moves next, or what arrives (log 3). -/
inductive Act where
  /-- an event of the machine or an arrival from outside -/
  | event (i : Instr)
  /-- this agent's next instruction; with `defer` an execute-side instruction is forwarded, and a store is not performed
  at once -/
  | access (who : Agent) (defer : Bool)
  /-- the execute side of a context performs the head of its queue; with `defer` its stores are not performed at once -/
  | execute (ctx : Ctx) (defer : Bool)
  /-- the issue stage of a core takes its next strand (R384); `defer` as for an access -/
  | issue (core : Fin 4096) (defer : Bool)
  /-- the arbiter of a partition of a core starts an execute-side instruction (R385) -/
  | arbitrate (core : Fin 4096) (part : Fin 8)
  /-- a store that a context has not performed is performed, if it may go before those that are older (R138, R139) -/
  | store (ctx : Ctx) (k : Nat)
  /-- another module's launch that names this module becomes resident here (R375) -/
  | launched (l : Launch)
  /-- the firmware loads segment k of an image: its code stands at the virtual address C, its bytes from a module-local address on
  (R201-R203) -/
  | loadSegment (image : List Byte) (k : Nat) (code : Word) (place : Nat)
  /-- the firmware unloads a handle (R439) -/
  | unload (num : BitVec 32)
  /-- time passes: nanoseconds of TIME -/
  | elapse (ns : Nat)
deriving DecidableEq, Repr

/-- A strand that only its fault frame holds, its context having been freed when its core left service (R398, R410): the context and the
accumulator window at the trap. -/
structure ParkedFrame where
  ctx : Ctx
  strand : Strand
  acc : Nat
deriving DecidableEq, Repr

/-- The whole module. -/
structure State where
  turn : Agent
  agenda : List Act
  fresh : Nat
  moduleNum : ModNum
  time : Word
  mem : Cells
  flash : Cells
  powered : Bool
  boot : BootPhase
  strands : List (Nat × Strand)
  cores : List (Nat × Core)
  quads : List (Nat × Quad)
  dies : List (Nat × DieState)
  stackTab : List (Nat × Stack)
  ccs : List (Nat × CcCore)
  hub : Hub
  /-- fault frames written, by the cell of their first byte (R398) -/
  frames : List (Nat × FrameKey)
  /-- strands that only their frames hold (R410) -/
  parked : List ParkedFrame
deriving DecidableEq, Repr

/-- The scalar side with every register zero. -/
def Hart.zero : Hart :=
  { g := Vector.replicate 32 0, pc := 0, status := 0, tcause := 0, tpc := 0, tval := 0, tframe := 0, ptbase := 0,
    lact := false, lbeg := 0, lend := 0, lrem := 0, resv := none }

/-- An empty fibre with the reset header (R276). -/
def Fibre.empty : Fibre := { fet := 0, ord := 2, entries := [] }

/-- An empty canonical reduction register (R92). -/
def KState.empty : KState := { slot := Vector.replicate 32 0, nch := 0, prec := false, cidx := 0, part := 0 }

/-- A strand as it first issues, before the launch sets what it sets (R380): every register at the reset value of its
table. -/
def Strand.initial : Strand :=
  { hart := Hart.zero, v := Vector.replicate 32 0, m := Vector.replicate 16 0, fm := 0, f := Vector.replicate 8 Fibre.empty,
    k := Vector.replicate 4 KState.empty, d := Vector.replicate 8 0, qs := Vector.replicate 4 [], qv := Vector.replicate 2 [],
    qr := Vector.replicate 2 [], vl := 0, vpad := 0, vtype := 0, mfmt := 0, vprog := 0, tm := 0, tn := 0, tk := 0, share := 1,
    slip := 8, bypt := 0x10000, srseed := 0, seeded := false, pivfloor := 0, accwin := 0,
    cpl := Vector.replicate 6 (0, 0), ops := [], armed := [], pending := [], shadow := Vector.replicate 4 0, upra := 0,
    vresv := [], ract := false, rbeg := 0, rend := 0, rrem := 0, rbody := [], blkpt := none, ede := [], timeouts := [], cond := .runnable,
    stop := none, frame := none, iq := [], fromQueue := none, saved := none, returns := [], awaitsBank := [], cm := 0,
    launchMod := 0, launchNum := 0, handle := 0, rank := 0, saveArea := 0, placedAt := 0, cred := 0, yielded := false, stores := [], delay := false, winClosed := 0, dataErr := none }

/-- A core at reset: one partition of eight live lane groups (R166), stores zeroed, caches empty (R435). -/
def Core.reset : Core :=
  { lgmap := 0x3FF00000000, tile := [], acc := [], tlb := [], l1main := [], l1coord := [], l1Pages := [], icache := [], expansions := [], served := 7, idled := [], dead := false,
    lost := [] }

/-- A quad at reset (R435). -/
def Quad.reset : Quad := { sem := 0, waiting := [], data := Vector.replicate 16 0, job := none, windows := [], nextWindow := 1 }

/-- A die at reset (R435). -/
def DieState.reset : DieState :=
  { shares := [], nextAge := 0, nextPlace := 0, calderas := [], intake := [], notices := [], lost := [] }

/-- A stack at module reset: HRCTL with EN and NBR2 set and THRESH 512 (Table 4 of 03). -/
def Stack.reset : Stack :=
  { scfg := 0, hrctl := 0x80010200, hrovf := 0, mschit := 0, mscmiss := 0, fgfwd := 0, gens := Vector.replicate 256 0,
    msc := [], acts := [], captured := [], demotes := [], scrubs := [], ringFwd := [], ringRet := [], lost := [], spares := [] }

/-- A control complex core at reset: supervisor privilege (R423); cores 1-31 are held (18, power-on sequence). -/
def CcCore.reset (held : Bool) : CcCore :=
  { hart := Hart.zero, tvec := 0, ccstat := 1, held := held, asleep := none, handling := 0, irqs := [], tlb := [], resvOwn := none }

/-- The hub at module reset: every register at its Reset column; of MODPRES only this module's bit (R426). -/
def Hub.reset (moduleNum : ModNum) : Hub :=
  { pwrctl := 0, swamix := 0, fubase := 0, nqctl := 0, nqptr := 0, timectl := 0, timestat := 0, rstctl := 0, attest := 0,
    mext := [], meas := 0, measCount := 0, modpres := BitVec.ofNat 4096 (2 ^ moduleNum.val), tuffctl := 2, tuffdrop := 0,
    tuffput := Vector.replicate 4 0, tuff := [], tuffSeq := 0, tuffSent := 0, tuffLost := 0, handles := [], lastHandle := 0, launches := [],
    history := [], nextLaunch := 1, saved := [], episodes := [], recvUsed := 0, rd := [], errors := [], links := [], mgmtUp := false,
    mgmtFrames := [], collector := [], keys := [], outbox := [], fabric := [], rdWait := none, frozen := false, diesReleased := false,
    timeKnown := false, gmSince := none }

/-- The module right after a module reset (R435): the boot ROM is about to run on control complex core 0, cores 1-31
are held and no strand is bound. -/
def State.reset : State :=
  { turn := .cc 0, agenda := [], fresh := 0, moduleNum := 0, time := 0, mem := [], flash := [], powered := true, boot := .rom,
    strands := [], cores := [], quads := [], dies := [], stackTab := [], ccs := [(0, CcCore.reset false)],
    hub := Hub.reset 0, frames := [], parked := [] }

end Sys2Proof.Machine
end

