-- ==== Sys2Proof/Machine/Monad.lean ====
section
/-! DEFINITION. How a meaning is written: a computation over State that ends normally, in a trap the spec describes, in a
fault or in a refusal; and the accessors of every part of State. -/

namespace Sys2Proof.Machine

/-- A trap that an instruction takes (R389): its class, TVAL, ACC, and TPC where it is not the instruction's address. -/
structure TrapReq where
  cause : Nat
  tval : Word
  acc : Nat := 0
  tpc : Option Word := none
  /-- the block point of a trap inside a Sirmal block (R407) -/
  blk : Option (List Nat) := none
  /-- LOST (R387) -/
  lost : Bool := false
  /-- held in a frame although its class is precise elsewhere (R278, R392) -/
  held : Bool := false
  /-- completed elements (R394) -/
  cm : Nat := 0
  /-- raised while the pages of an access are enumerated (R38-R40) -/
  page : Bool := false
deriving DecidableEq, Repr

/-- Why a meaning ends early. -/
inductive Stop where
  | trap (t : TrapReq)
  /-- the agent sleeps at the instruction, which has had no effect (R182) -/
  | wait (r : Sleep)
  /-- a stop of the strand takes effect inside the instruction, whose progress VPROG records (R246, R400) -/
  | parted
  | fault (f : Fault)
  | refuse (r : Refusal)
deriving DecidableEq, Repr

/-- A meaning. -/
abbrev M := EStateM Stop State

/-- Trap classes (R389, Table 3). -/
def cIllegal : Nat := 0x01
def cReserved : Nat := 0x02
def cPrivilege : Nat := 0x03
def cMisaligned : Nat := 0x04
def cTranslation : Nat := 0x05
def cProtection : Nat := 0x06
def cWriteProtect : Nat := 0x07
def cFormat : Nat := 0x08
def cGather : Nat := 0x09
def cDataError : Nat := 0x0A
def cShape : Nat := 0x0B
def cSpeculative : Nat := 0x0C
def cArithmetic : Nat := 0x0D
def cBreak : Nat := 0x0E
def cSysCall : Nat := 0x0F
def cCaldera : Nat := 0x10
def cWatchdog : Nat := 0x11

/-- Taking a trap of a class with a TVAL. -/
def trap {α : Type} (cause : Nat) (tval : Word) : M α := throw (.trap { cause := cause, tval := tval })

/-- Taking a trap of a class with a TVAL and ACC. -/
def trapAcc {α : Type} (cause : Nat) (tval : Word) (acc : Nat) : M α :=
  throw (.trap { cause := cause, tval := tval, acc := acc })

/-- Taking a trap found while the pages of an access are enumerated (R40). -/
def trapPage {α : Type} (cause : Nat) (tval : Word) (acc : Nat) : M α :=
  throw (.trap { cause := cause, tval := tval, acc := acc, page := true })

/-- Sleeping at the instruction. -/
def sleepOn {α : Type} (r : Sleep) : M α := throw (.wait r)

/-- A trap unless a condition holds. -/
def require (c : Bool) (cause : Nat) (tval : Word) : M Unit := if c then pure () else trap cause tval

/-- The module-wide core of a context (R4, R231). -/
def coreNum (c : Ctx) : Nat := c.val / 8

/-- The quad of a context. -/
def quadNum (c : Ctx) : Nat := c.val / 32

/-- The die of a context: 256 cores of 8 contexts. -/
def dieNum (c : Ctx) : Nat := c.val / 2048

/-- The strand bound to a context. -/
def State.strand? (s : State) (c : Nat) : Option Strand := mapGet s.strands c

def State.setStrand (s : State) (c : Nat) (t : Strand) : State := { s with strands := mapSet s.strands c t }

def State.core (s : State) (n : Nat) : Core := mapGetD s.cores n Core.reset

def State.setCore (s : State) (n : Nat) (c : Core) : State := { s with cores := mapSet s.cores n c }

def State.quad (s : State) (n : Nat) : Quad := mapGetD s.quads n Quad.reset

def State.setQuad (s : State) (n : Nat) (q : Quad) : State := { s with quads := mapSet s.quads n q }

def State.die (s : State) (n : Nat) : DieState := mapGetD s.dies n DieState.reset

def State.setDie (s : State) (n : Nat) (d : DieState) : State := { s with dies := mapSet s.dies n d }

def State.stack (s : State) (n : Nat) : Stack := mapGetD s.stackTab n Stack.reset

def State.setStack (s : State) (n : Nat) (k : Stack) : State := { s with stackTab := mapSet s.stackTab n k }

/-- A control complex core; cores 1-31 are held until the firmware releases them. -/
def State.cc (s : State) (n : Nat) : CcCore := mapGetD s.ccs n (CcCore.reset true)

def State.setCc (s : State) (n : Nat) (c : CcCore) : State := { s with ccs := mapSet s.ccs n c }

/-- The scalar side of an agent. -/
def State.hart? (s : State) (a : Agent) : Option Hart :=
  match a with
  | .strand c => (s.strand? c.val).map (·.hart)
  | .cc n => some (s.cc n.val).hart

def State.setHart (s : State) (a : Agent) (h : Hart) : State :=
  match a with
  | .strand c =>
    match s.strand? c.val with
    | some t => s.setStrand c.val { t with hart := h }
    | none => s
  | .cc n => s.setCc n.val { s.cc n.val with hart := h }

/-- The agent that executes. -/
def who : M Agent := do return (← get).turn

/-- The executing agent's scalar side. -/
def hart : M Hart := do
  let s ← get
  match s.hart? s.turn with
  | some h => return h
  | none => throw (.refuse .noAgent)

/-- Changing the executing agent's scalar side. -/
def modHart (f : Hart → Hart) : M Unit := do
  let h ← hart
  modify fun s => s.setHart s.turn (f h)

/-- The executing context. -/
def ctx : M Ctx := do
  match (← get).turn with
  | .strand c => return c
  | .cc _ => throw (.refuse .noAgent)

/-- The strand of a context; refused where the context is free. -/
def strandAt (c : Nat) : M Strand := do
  match (← get).strand? c with
  | some t => return t
  | none => throw (.refuse .noAgent)

/-- The executing strand. -/
def strand : M Strand := do strandAt (← ctx).val

/-- Changing a bound strand. -/
def modStrandAt (c : Nat) (f : Strand → Strand) : M Unit := do
  let t ← strandAt c
  modify fun s => s.setStrand c (f t)

/-- Changing the executing strand. -/
def modStrand (f : Strand → Strand) : M Unit := do modStrandAt (← ctx).val f

def modCore (n : Nat) (f : Core → Core) : M Unit := modify fun s => s.setCore n (f (s.core n))
def modQuad (n : Nat) (f : Quad → Quad) : M Unit := modify fun s => s.setQuad n (f (s.quad n))
def modDie (n : Nat) (f : DieState → DieState) : M Unit := modify fun s => s.setDie n (f (s.die n))
def modStack (n : Nat) (f : Stack → Stack) : M Unit := modify fun s => s.setStack n (f (s.stack n))
def modCc (n : Nat) (f : CcCore → CcCore) : M Unit := modify fun s => s.setCc n (f (s.cc n))
def modHub (f : Hub → Hub) : M Unit := modify fun s => { s with hub := f s.hub }
def hub : M Hub := do return (← get).hub

/-- Reading a general register; g0 reads zero (R185). -/
def gR (r : GReg) : M Word := do
  let h ← hart
  return if r.val = 0 then 0 else h.g[r.val]

/-- Writing a general register; a write to g0 is discarded (R185). -/
def gW (r : GReg) (v : Word) : M Unit :=
  if r.val = 0 then pure () else modHart fun h => { h with g := h.g.set r.val v }

/-- The address of the executing instruction. -/
def pcR : M Word := do
  match (← get).turn with
  | .strand c =>
    let t ← strandAt c.val
    return match t.fromQueue with
      | some f => f.pc
      | none => t.hart.pc
  | .cc n => return ((← get).cc n.val).hart.pc

/-- Drawing a fresh number for a free value (log 4). -/
def freshNum : M Nat := do
  let s ← get
  set { s with fresh := s.fresh + 1 }
  return s.fresh

/-- Taking a trap whose TVAL no rule states: a free value. -/
def trapOpen {α : Type} (cause : Nat) : M α := do
  let k ← freshNum
  trap cause (Config.openTval k)

/-- Number of the context that a strand's launch state and stores belong to. -/
def myCore : M Nat := do return coreNum (← ctx)
def myQuad : M Nat := do return quadNum (← ctx)
def myDie : M Nat := do return dieNum (← ctx)

/-- Whether an upcall handler runs: STATUS.UPC (R133). -/
def Hart.upc (h : Hart) : Bool := bitOf h.status 21

/-- Whether the code handle carries the system bit: STATUS.SYSH. -/
def Hart.sysh (h : Hart) : Bool := bitOf h.status 22

/-- Whether the launch is in Reproducible mode: STATUS.REPRO. -/
def Hart.repro (h : Hart) : Bool := bitOf h.status 23

/-- Running a list of actions over numbers 0 to n - 1. -/
def forN (n : Nat) (f : Nat → M Unit) : M Unit := (List.range n).forM f

/-- The first success of a check over a list; runs in order. -/
def firstSome {α β : Type} (l : List α) (f : α → M (Option β)) : M (Option β) :=
  l.foldlM (fun acc x => match acc with
    | some b => pure (some b)
    | none => f x) none

end Sys2Proof.Machine
end

