-- ==== Sys2Proof/Machine/Mem.lean ====
section
/-! DEFINITION. Physical addresses and page tables (02_address_spaces R24-R35): where a module-local address leads, which
cell it names, what a leaf says, and the table walk. -/

namespace Sys2Proof.Machine

/-- Where a module-local address leads (R24, Table 1): a stack's DRAM and offset, a die's bank memory and offset, a
stack's resident window and offset, system space, or nowhere. -/
inductive Region where
  | dram (stack off : Nat)
  | bank (die off : Nat)
  | resident (stack off : Nat)
  | system (off : Nat)
  | unmapped
deriving DecidableEq, Repr

/-- The map of Table 1, with the two DRAM apertures of R25. -/
def regionOf (a : Nat) : Region :=
  if a < 0x018000000000 then .dram (bitsOf a 11 8) (a / 4096 * 256 + a % 256)
  else if a < 0x018040000000 then .bank ((a - 0x018000000000) / 0x4000000) ((a - 0x018000000000) % 0x4000000)
  else if 0x018100000000 ≤ a ∧ a < 0x018200000000 then
    .resident ((a - 0x018100000000) / 0x10000000) ((a - 0x018100000000) % 0x10000000)
  else if 0x01C000000000 ≤ a ∧ a < 0x020000000000 then .system (a - 0x01C000000000)
  else if 0x020000000000 ≤ a ∧ a < 0x038000000000 then
    .dram ((a - 0x020000000000) / 0x1800000000) ((a - 0x020000000000) % 0x1800000000)
  else .unmapped

/-- The local-aperture address of a DRAM cell (R25). -/
def dramCell (stack off : Nat) : Nat := 0x020000000000 + stack * 0x1800000000 + off

/-- One address for each cell: the local aperture for DRAM, the address itself elsewhere. -/
def cellLocal (a : Nat) : Nat :=
  match regionOf a with
  | .dram k o => dramCell k o
  | _ => a

/-- A pod-global cell address (R24). -/
def cellOf (m a : Nat) : Nat := m * 2 ^ 48 + cellLocal a

/-- The module of a cell. -/
def cellModule (c : Nat) : Nat := c / 2 ^ 48

/-- The module-local part of a cell. -/
def cellAddr (c : Nat) : Nat := c % 2 ^ 48

def Region.isDram : Region → Bool
  | .dram _ _ => true
  | _ => false

def Region.isBank : Region → Bool
  | .bank _ _ => true
  | _ => false

def Region.isSystem : Region → Bool
  | .system _ => true
  | _ => false

/-- Fields of a leaf (R30, Table 4). -/
def leafMod (l : Word) : Nat := fieldOf l 63 52
def leafFrame (l : Word) : Nat := fieldOf l 51 26
def leafDfmt (l : Word) : Nat := fieldOf l 25 22
def leafSfmt (l : Word) : Nat := fieldOf l 21 18
def leafChain (l : Word) : Nat := fieldOf l 17 10
def leafDead (l : Word) : Bool := bitOf l 9
def leafUO (l : Word) : Bool := bitOf l 8
def leafRD (l : Word) : Bool := bitOf l 7
def leafPLC (l : Word) : Bool := bitOf l 6
def leafSWA (l : Word) : Bool := bitOf l 5
def leafSYS (l : Word) : Bool := bitOf l 4
def leafX (l : Word) : Bool := bitOf l 3
def leafW (l : Word) : Bool := bitOf l 2
def leafR (l : Word) : Bool := bitOf l 1
def leafV (l : Word) : Bool := bitOf l 0

/-- Module-local address of the frame. -/
def leafBase (l : Word) : Nat := leafFrame l * 65536

/-- Delivered element size in bytes of a converted page. -/
def leafElem (l : Word) : Nat := if leafDfmt l = 1 then 4 else 2

/-- Bytes of memory that a page of `size` delivered bytes takes (R36). -/
def leafStored (l : Word) (size : Nat) : Nat :=
  match storedBlock (leafSfmt l) with
  | some n => size / (32 * leafElem l) * n
  | none => size
where
  /-- Stored bytes of one block (Table 6). -/
  storedBlock (c : Nat) : Option Nat :=
    match c with
    | 0x1 => some 128
    | 0x2 => some 64
    | 0x3 => some 64
    | 0x4 => some 32
    | 0x5 => some 32
    | 0x6 => some 33
    | 0x7 => some 33
    | 0x8 => some 25
    | 0x9 => some 25
    | 0xA => some 17
    | 0xB => some 33
    | 0xC => some 18
    | _ => none

/-- The pairs R35 permits. -/
def pairPermitted (sfmt dfmt : Nat) : Bool :=
  if sfmt = 0 then dfmt == 0
  else
    (dfmt == 1 || dfmt == 2 || dfmt == 3) && sfmt != dfmt && decide (sfmt ≤ 12) &&
      (sfmt != 1 || dfmt == 1)

/-- R31: whether a leaf at a level (3 root, 2, 1, 0) is malformed, seen from a module. -/
def leafMalformed (l : Word) (level : Nat) (size m : Nat) : Bool :=
  let b := leafBase l
  let il := decide (b < 0x018000000000)
  let bank := (regionOf b).isBank
  (leafW l && !leafR l) || level == 3 || !pairPermitted (leafSfmt l) (leafDfmt l) || (leafX l && leafSfmt l != 0) ||
    (leafDead l && (leafW l || leafX l)) ||
    (!leafDead l &&
      ((leafSfmt l == 0 && b % size != 0) || (!leafPLC l && !il) || (leafPLC l && il) || (leafRD l && leafMod l != m) ||
        (bank && (size == 0x40000000 || leafSfmt l != 0))))

/-- The chunks of 64 MiB, the unit of every bound in Table 1, that a range touches. -/
def chunks (base len : Nat) : List Nat :=
  (List.range (len / 0x4000000 + 2)).filterMap fun i =>
    let c := (base / 0x4000000 + i) * 0x4000000
    if c < base + len then some c else none

/-- R26: whether some byte of a page leads nowhere, given a stack's active carve-out.  Of another module's resident window this module
knows no carve-out: an access beyond it there is not refused at the translation (log 89). -/
def pageUnmapped (base len : Nat) (act : Nat → Nat) (own : Bool) : Bool :=
  (chunks base len).any fun c =>
    match regionOf c with
    | .unmapped => true
    | .resident k o => own && decide (act k * 0x4000000 ≤ o)
    | _ => false

/-- Whether a table of `len` bytes lies within the module's DRAM (R28). -/
def tableOk (a len : Nat) : Bool := (regionOf a).isDram && (regionOf (a + len - 1)).isDram && a % len == 0

/-- What a walk finds (R27-R31). -/
inductive Walk where
  | leaf (l : Word) (size : Nat) (pte : Nat)
  | invalid
  | malformed
deriving DecidableEq, Repr

/-- The place of the entry of a table: cell address, read as one 64-bit access (R29). -/
def entryCell (m table index : Nat) : Nat := cellOf m (table + index * 8)

/-- Size of the page that a leaf at a level maps; none at the root (Table 3). -/
def pageSizeAt (level : Nat) : Nat :=
  if level = 3 then 0 else if level = 2 then 0x40000000 else if level = 1 then 0x200000 else 0x10000

/-- Index of a virtual address at a level (Table 3). -/
def levelIndex (level va : Nat) : Nat :=
  if level = 3 then bitsOf va 55 39 else if level = 2 then bitsOf va 38 30 else if level = 1 then bitsOf va 29 21
  else bitsOf va 20 16

def tableSize (level : Nat) : Nat := if level = 3 then 0x100000 else if level = 0 then 256 else 4096

/-- The walk from a table at a level downward. -/
def walkFrom (mem : Cells) (m va : Nat) : Nat → Nat → Walk
  | level, table =>
    if !tableOk table (tableSize level) then .malformed
    else
      let pte := entryCell m table (levelIndex level va)
      let e := BitVec.ofNat 64 (mem.read pte 8)
      if !leafV e then .invalid
      else if !leafR e && !leafW e && !leafX e then
        match level with
        | 0 => .malformed
        | n + 1 => if fieldOf e 63 48 != 0 || fieldOf e 7 1 != 0 then .malformed else walkFrom mem m va n (fieldOf e 47 8 * 256)
      else .leaf e (pageSizeAt level) pte
termination_by structural level => level

/-- The walk of a virtual address under a PTBASE (R27, R28). -/
def walk (mem : Cells) (m : Nat) (ptbase : Word) (va : Nat) : Walk :=
  match walkFrom mem m va 3 (fieldOf ptbase 47 20 * 0x100000) with
  | .leaf l size pte => if leafMalformed l (levelOf size) size m then .malformed else .leaf l size pte
  | r => r
where
  levelOf (size : Nat) : Nat := if size = 0 then 3 else if size = 0x10000 then 0 else if size = 0x200000 then 1 else 2

/-- JOB of PTBASE. -/
def jobOf (ptbase : Word) : Nat := fieldOf ptbase 63 48

/-- Module-local address of a byte of an unconverted page. -/
def PageTr.localAddr (p : PageTr) (va : Nat) : Nat := leafBase p.leaf + (va - p.vbase)

/-- The cell of a byte of an unconverted page. -/
def PageTr.cell (p : PageTr) (va : Nat) : Nat := cellOf (leafMod p.leaf) (p.localAddr va)

/-- Where a byte of the page leads. -/
def PageTr.region (p : PageTr) (va : Nat) : Region := regionOf (p.localAddr va)

/-- Whether the page's frame lies in bank memory (R34). -/
def PageTr.isBank (p : PageTr) : Bool := !leafDead p.leaf && (regionOf (leafBase p.leaf)).isBank

/-- Whether the page's frame lies in system space. -/
def PageTr.isSystem (p : PageTr) : Bool := !leafDead p.leaf && (regionOf (leafBase p.leaf)).isSystem

/-- Whether the page converts (R35). -/
def PageTr.converts (p : PageTr) : Bool := leafSfmt p.leaf != 0

end Sys2Proof.Machine
end

