-- ==== Sys2Proof/Machine/Hub.lean ====
section
/-! DEFINITION. The hub's record and interrupts, and the plain effects of its registers (17_errors R417-R421,
18_control_complex R424-R438). -/

namespace Sys2Proof.Machine

/-- Raising an interrupt source at a control complex core (R424). -/
def raiseIrq (core : Nat) (src : Fin 8) (vec : BitVec 16) : M Unit :=
  modCc core fun c => { c with irqs := c.irqs ++ [(src, vec)] }

/-- The core that takes sources 1 to 5, for which the spec names none (log 12). -/
def irqCore : Nat := 0

/-- Entry types of the Tuff record (R418, Table 4). -/
def tTransient : Nat := 0x01
def tLasting : Nat := 0x02
def tLostUnit : Nat := 0x03
def tSpare : Nat := 0x04
def tLgRet : Nat := 0x05
def tHotRow : Nat := 0x06
def tLink : Nat := 0x07
def tFrameFail : Nat := 0x08
def tDrop : Nat := 0x09
def tFatal : Nat := 0x0A
def tFreeze : Nat := 0x0B

/-- Whether the record is frozen (R420). -/
def Hub.frz (h : Hub) : Bool := bitOf h.tuffctl 0

/-- Writing an entry at the next SEQ; the oldest is overwritten, and counted where it was unsent (R417, R419). -/
def Hub.tuffAdd (h : Hub) (time : Word) (type sev struct place : Nat) (payload : Word) : Hub :=
  if h.frz then h
  else
    let i := h.tuffSeq % 8192
    let unsent := decide (8192 ≤ h.tuffSeq) && decide (h.tuffSent ≤ h.tuffSeq - 8192)
    let e : TuffEntry :=
      { seq := BitVec.ofNat 64 h.tuffSeq, time := time, type := BitVec.ofNat 8 type, sev := BitVec.ofNat 8 sev,
        struct := BitVec.ofNat 8 struct, count := 1, place := BitVec.ofNat 32 place, payload := payload }
    { h with
      tuff := mapSet h.tuff i e, tuffSeq := h.tuffSeq + 1,
      tuffdrop := if unsent then h.tuffdrop + 1 else h.tuffdrop,
      tuffLost := if unsent then h.tuffLost + 1 else h.tuffLost,
      tuffSent := if unsent then h.tuffSeq - 8191 else h.tuffSent }

/-- Writing an entry now; answers its SEQ. -/
def tuffWrite (type sev struct place : Nat) (payload : Word) : M Nat := do
  let s ← get
  modHub fun h => h.tuffAdd s.time type sev struct place payload
  return s.hub.tuffSeq

/-- A transient event: merged into the latest TRANSIENT entry of the same unit within 32 ms (R418). -/
def tuffTransient (struct place : Nat) (payload : Word) : M Unit := do
  let s ← get
  let last := (s.hub.tuff.map (·.2)).foldl (fun (acc : Option TuffEntry) e =>
    if e.type.toNat = tTransient then
      match acc with
      | some f => if f.seq.toNat < e.seq.toNat then some e else acc
      | none => some e
    else acc) none
  match last with
  | some e =>
    if e.struct.toNat = struct ∧ e.place.toNat = place ∧ e.payload = payload ∧ s.time.toNat ≤ e.time.toNat + 32000000 ∧
        !s.hub.frz then
      let e' := { e with count := if e.count = 255 then 255 else e.count + 1 }
      modHub fun h => { h with tuff := mapSet h.tuff (e.seq.toNat % 8192) e' }
    else let _ ← tuffWrite tTransient 1 struct place payload
  | none => let _ ← tuffWrite tTransient 1 struct place payload

/-- A fatal event: the compute dies' clocks stop, FATAL and FREEZE are written, the record freezes (R420). -/
def fatalEvent (struct cause : Nat) (supervisor : Bool) : M Unit := do
  let s ← get
  if s.hub.frz then pure ()
  else
    let seq ← tuffWrite tFatal 3 struct 0 (Config.fatalPayload struct cause)
    let _ ← tuffWrite tFreeze 3 struct 0 (if supervisor then 0xFFFFFFFFFFFFFFFF else BitVec.ofNat 64 seq)
    modHub fun h => { h with frozen := true, tuffctl := setBit h.tuffctl 0 true }

/-- Writing 0 to FRZ: the record accepts entries again (R421). -/
def frzClear : M Unit := modHub fun h => { h with tuffctl := setBit h.tuffctl 0 false }

/-- Committing TUFFPUT (R421, Table 7). -/
def tuffputCommit (w3 : Word) : M Unit := do
  let s ← get
  let w0 := s.hub.tuffput[0]
  modHub fun h => { h with tuffput := h.tuffput.set 3 w3 }
  if decide (0x10 ≤ fieldOf w0 7 0) && decide (fieldOf w0 7 0 ≤ 0x1F) then
    let i := s.hub.tuffSeq
    let _ ← tuffWrite (fieldOf w0 7 0) (fieldOf w0 15 8) (fieldOf w0 23 16) (fieldOf w0 63 32) s.hub.tuffput[1]
    if !s.hub.frz then
      modHub fun h => match mapGet h.tuff (i % 8192) with
        | some e => { h with tuff := mapSet h.tuff (i % 8192) { e with count := BitVec.ofNat 8 (fieldOf w0 31 24) } }
        | none => h
  else pure ()

/-- A change of LOCK raises interrupt source 3 (R424, R433). -/
def setLock (b : Bool) : M Unit := do
  let h ← hub
  if bitOf h.timestat 0 = b then pure ()
  else
    modHub fun h => { h with timestat := setBit h.timestat 0 b }
    raiseIrq irqCore 3 0

/-- The compute dies leave module reset, and REL reads 1 (R432, Table 8). -/
def releaseDies : M Unit := modHub fun h => { h with diesReleased := true, timectl := setBit h.timectl 9 true }

/-- A write of TIMECTL.GM: the grandmaster is always locked and at offset 0 (R432, Tables 8 and 9). -/
def timectlGm (v : Bool) : M Unit := do
  let s ← get
  let was := bitOf s.hub.timectl 8
  modHub fun h => { h with timectl := setBit h.timectl 8 v }
  if v && !was then
    modHub fun h => { h with gmSince := some s.time, timestat := setField h.timestat 63 32 0 }
    setLock true
  else if !v && was then
    modHub fun h => { h with gmSince := none }
    setLock false
  else pure ()

/-- A write of 1 to TIMECTL.REL releases the compute dies at once (R432). -/
def timectlRel : M Unit := releaseDies

/-- A write of PWRCTL.REQ; 0b11 is ignored (R434, Table 10). -/
def pwrReq (req : Nat) : M Unit := do
  if req = 3 then pure ()
  else modHub fun h => { h with pwrctl := setBit (setField h.pwrctl 1 0 req) 9 true }

/-- A write of HRCTL; a threshold below 32 is stored as 32 (Table 4 of 03). -/
def hrctlStored (v : Word) : Word :=
  let t := fieldOf v 15 0
  setField (v &&& 0x80010000) 15 0 (if t < 32 then 32 else t)

/-- Extending the measurement register (R438). -/
def extendM (digest : List Byte) : M Unit := modHub fun h =>
  let m := bytesOf 64 h.meas.toNat
  { h with meas := BitVec.ofNat 512 (ofBytes (sha512 (m ++ digest))), measCount := h.measCount + 1 }

/-- A store to MEXT; the eighth performs the extension (R438). -/
def mextStore (v : Word) : M Unit := do
  let h ← hub
  let ws := h.mext ++ [v]
  if ws.length < 8 then modHub fun h => { h with mext := ws }
  else
    modHub fun h => { h with mext := [] }
    extendM (ws.flatMap fun w => bytesOf 8 w.toNat)

/-- A write of NQCTL keeps its RW fields (R427, Table 4). -/
def nqctlSet (v : Word) : M Unit := modHub fun h => { h with nqctl := v &&& 0x0000FFFFFFFF9F01 }

/-- A write of NQPTR.CONS (R427, Table 5). -/
def nqptrCons (cons : Nat) : M Unit := modHub fun h => { h with nqptr := setField h.nqptr 41 32 cons }

/-- A write of 1 to RSTCTL.WARM: the reset waits for its turn with BUSY = 1 (R435, Table 11). -/
def warmRequest : M Unit := modHub fun h => { h with rstctl := setBit h.rstctl 1 true }

/-- The two 64-bit words of a Tuff entry after SEQ and TIME (Table 3). -/
def TuffEntry.word2 (e : TuffEntry) : Word :=
  BitVec.ofNat 64 (e.type.toNat + 256 * e.sev.toNat + 65536 * e.struct.toNat + 16777216 * e.count.toNat +
    4294967296 * e.place.toNat)

/-- Reading a hub register at an offset of its block (R426, Table 3; R421). -/
def hubRead (s : State) (off : Nat) : Word :=
  let h := s.hub
  if off = 0x0000 then h.pwrctl
  else if off = 0x0010 then h.swamix
  else if off = 0x0018 then h.fubase
  else if off = 0x0020 then h.nqctl
  else if off = 0x0028 then h.nqptr
  else if off = 0x0030 then h.timectl
  else if off = 0x0038 then h.timestat
  else if off = 0x0048 then h.attest
  else if off = 0x0050 then h.rstctl
  else if 0x0100 ≤ off ∧ off ≤ 0x02F8 then BitVec.ofNat 64 (h.modpres.toNat / 2 ^ ((off - 0x100) / 8 * 64))
  else if off = 0x8000 then h.tuffctl
  else if off = 0x8008 then BitVec.ofNat 64 (h.tuffdrop.toNat * 4294967296 + h.tuffSeq % 8192)
  else if 0x8010 ≤ off ∧ off ≤ 0x8028 then h.tuffput[(off - 0x8010) / 8 % 4]!
  else if 0x10000 ≤ off ∧ off < 0x50000 then
    match mapGet h.tuff ((off - 0x10000) / 32) with
    | some e =>
      let k := off % 32 / 8
      if k = 0 then e.seq else if k = 1 then e.time else if k = 2 then e.word2 else e.payload
    | none => 0
  else 0

/-- MODPRES with one of its words replaced (R426). -/
def setPresence (p : BitVec 4096) (i : Nat) (v : Word) : BitVec 4096 :=
  BitVec.ofNat 4096 (p.toNat - p.toNat / 2 ^ (64 * i) % 2 ^ 64 * 2 ^ (64 * i) + v.toNat * 2 ^ (64 * i))

/-- Writing a hub register, but ATTEST (R421, R426); unlisted offsets ignore writes. -/
def hubWrite (off : Nat) (v : Word) : M Unit := do
  if off = 0x0000 then pwrReq (fieldOf v 1 0)
  else if off = 0x0018 then modHub fun h => { h with fubase := v &&& 0x0000FFFFFFFF0001 }
  else if off = 0x0020 then nqctlSet v
  else if off = 0x0028 then nqptrCons (fieldOf v 41 32)
  else if off = 0x0030 then
    modHub fun h => { h with timectl := setField h.timectl 39 32 (fieldOf v 39 32) }
    timectlGm (bitOf v 8)
    if bitOf v 9 then timectlRel else pure ()
  else if off = 0x0040 then mextStore v
  else if off = 0x0050 then if bitOf v 0 then warmRequest else pure ()
  else if 0x0100 ≤ off ∧ off ≤ 0x02F8 then modHub fun h => { h with modpres := setPresence h.modpres ((off - 0x100) / 8) v }
  else if off = 0x8000 then
    modHub fun h => { h with tuffctl := setBit h.tuffctl 1 (bitOf v 1) }
    if bitOf v 0 then fatalEvent 0 0 true else frzClear
  else if 0x8010 ≤ off ∧ off ≤ 0x8020 then modHub fun h => { h with tuffput := h.tuffput.set! ((off - 0x8010) / 8) v }
  else if off = 0x8028 then tuffputCommit v
  else pure ()

/-- SCFG as read: BUSY, ACT and CARVE (Table 3 of 03). -/
def Stack.act (k : Stack) : Nat := fieldOf k.scfg 10 8

/-- Reading a base-die register (R75, Table 2). -/
def baseRead (s : State) (stack off : Nat) : Word :=
  let k := s.stack stack
  if off = 0x000 then k.scfg
  else if off = 0x008 then k.hrctl
  else if off = 0x010 then BitVec.ofNat 64 (k.hrovf.toNat * 4294967296 + k.captured.length)
  else if off = 0x018 then k.mschit
  else if off = 0x020 then k.mscmiss
  else if off = 0x028 then k.fgfwd
  else 0

end Sys2Proof.Machine
end

