-- ==== Sys2Proof/Machine/Msc.lean ====
section
/-! DEFINITION. The memory-side cache of a stack and its hot rows (03_memory_stacks R54-R67, R73-R76).  The cache is the
point of coherence, so that `State.mem` holds what it shows; a line is its place, its class, its marks and, while it is dirty,
the DRAM bytes beneath it. -/

namespace Sys2Proof.Machine

/-- The DRAM row of a line: pseudo-channel, bank and row (R54). -/
def rowOf (line : Nat) : Nat := line / 16384 * 4096 + line % 4096

/-- The four lines of a row. -/
def linesOf (row : Nat) : List Nat := (List.range 4).map fun i => row / 4096 * 16384 + i * 4096 + row % 4096

/-- The set of a line (R56). -/
def mscSet (line : Nat) : Nat := line % 131072

/-- Ways that hold cached lines (R56, R73). -/
def Stack.activeWays (k : Stack) : Nat := 16 - 2 * k.act

/-- The lines of a set, most recently used first. -/
def Stack.setLines (k : Stack) (set : Nat) : List MscLine := mapGetD k.msc set []

def Stack.withSet (k : Stack) (set : Nat) (l : List MscLine) : Stack :=
  { k with msc := if l.isEmpty then mapErase k.msc set else mapSet k.msc set l }

/-- The class a line has now: a line of a chain whose generation has passed reads as LOW unless it is pinned (R60, R61). -/
def Stack.classOf (k : Stack) (l : MscLine) : Prio :=
  match l.prio with
  | .pinned => .pinned
  | p => if l.chain ≠ 0 ∧ l.gen ≠ k.gens[l.chain.toNat] then .low else p

/-- The least recently used line of a class. -/
def Stack.lruOf (k : Stack) (ls : List MscLine) (p : Prio) : Option MscLine :=
  (ls.reverse.filter fun l => k.classOf l == p).head?

/-- The victim of R59, if the set is full. -/
def Stack.victim (k : Stack) (ls : List MscLine) : Option MscLine :=
  if ls.length < k.activeWays then none
  else
    match k.lruOf ls .low with
    | some l => some l
    | none =>
      match k.lruOf ls .normal with
      | some l => some l
      | none => k.lruOf ls .high

/-- Activations of a row in the window (R64). -/
def Stack.count (k : Stack) (row : Nat) : Nat := mapGetD k.acts row 0

/-- The payload of a HOTROW or SPARE entry: pseudo-channel, bank, row (17, Table 4). -/
def rowPayload (row : Nat) : Nat := row % 256 + row / 256 % 16 * 256 + row / 4096 * 4096

/-- The HIGH limit of a set with room for `room` more HIGH lines: the least recently used HIGH lines become NORMAL (R59). -/
def Stack.highLimit (k : Stack) (room : Nat) : Nat → List MscLine → List MscLine
  | 0, ls => ls
  | fuel + 1, ls =>
    if (ls.filter fun l => k.classOf l == .high).length + room > k.activeWays - 4 then
      match k.lruOf ls .high with
      | some v => k.highLimit room fuel (ls.map fun l => if l.line = v.line then { l with prio := .normal } else l)
      | none => ls
    else ls

/-- The lowest active way of a set that no line holds; the spec names none of several invalid ways (log 76). -/
def Stack.freeWay (k : Stack) (ls : List MscLine) : Nat :=
  ((List.range k.activeWays).find? fun w => !ls.any fun l => l.way == w).getD 0

/-- A fill of one line of a class, with its victim's write-back (R58, R59).  Answers the stack and the victim's row where a
dirty one was written back. -/
def Stack.insert (k : Stack) (n : MscLine) : Stack × Option Nat :=
  let ls := k.setLines (mscSet n.line)
  let ls := if n.prio = .high then k.highLimit 1 16 ls else ls
  match k.victim ls with
  | some v =>
    (k.withSet (mscSet n.line) ({ n with way := v.way } :: ls.filter fun l => l.line != v.line),
      if v.dirty then some (rowOf v.line) else none)
  | none => (k.withSet (mscSet n.line) ({ n with way := k.freeWay ls } :: ls), none)

/-- Making a line PINNED, in place or by a fill (R65). -/
def Stack.pin (k : Stack) (line : Nat) : Stack × Option Nat :=
  let ls := k.setLines (mscSet line)
  if ls.any fun l => l.line == line then
    (k.withSet (mscSet line) (ls.map fun l => if l.line = line then { l with prio := .pinned } else l), none)
  else k.insert { line := line, way := 0, dirty := false, under := 0, prio := .pinned, chain := 0, gen := 0 }

/-- The PINNED lines of a list. -/
def pinnedOf (ls : List MscLine) : List MscLine := ls.filter fun l => l.prio == .pinned

/-- Lines that count against the capture reservation (R65, R67). -/
def Stack.reserved (k : Stack) : Nat := (k.msc.flatMap fun e => pinnedOf e.2).length

/-- Whether a row is served from the cache: its four lines are PINNED (R65). -/
def Stack.holdsRow (k : Stack) (row : Nat) : Bool :=
  k.captured.contains row && (linesOf row).all fun l => (pinnedOf (k.setLines (mscSet l))).any fun x => x.line == l

/-- One activation of a row: it counts, and a row that becomes hot is captured or refreshed around (R64-R66).  Answers the
rows whose overflow is recorded.  `fuel` bounds the write-backs that captures cause. -/
def Stack.activate (k : Stack) (row : Nat) : Nat → Stack × List Nat
  | 0 => ({ k with acts := mapSet k.acts row (k.count row + 1) }, [])
  | fuel + 1 =>
    let k := { k with acts := mapSet k.acts row (k.count row + 1) }
    if k.count row < fieldOf k.hrctl 15 0 ∨ k.holdsRow row then (k, [])
    else if bitOf k.hrctl 31 && decide (k.reserved ≤ 65532) &&
        (linesOf row).all fun l => decide ((pinnedOf (k.setLines (mscSet l))).length < 2) then
      (linesOf row).foldl (fun acc l =>
        let (k', back) := acc.1.pin l
        match back with
        | some r =>
          let (k'', ev) := k'.activate r fuel
          (k'', acc.2 ++ ev)
        | none => (k', acc.2)) ({ k with captured := if k.captured.contains row then k.captured else k.captured ++ [row] }, [])
    else
      ({ k with acts := mapSet k.acts row 0, hrovf := k.hrovf + 1 }, if bitOf k.hrctl 31 then [row] else [])

/-- Write-backs that one access may chain through captures. -/
def captureDepth : Nat := 16

/-- A fill of a line through a leaf's CHAIN and UO (R58, R63); for a write, with the DRAM bytes beneath. -/
def Stack.fill (k : Stack) (line : Nat) (chain : BitVec 8) (uo : Bool) (write : Option (BitVec 2048)) : Stack × List Nat :=
  let p : Prio := if chain ≠ 0 then .high else if uo then .low else .normal
  let (k, back) := k.insert { line := line, way := 0, dirty := write.isSome, under := write.getD 0, prio := p, chain := chain,
                              gen := k.gens[chain.toNat] }
  let (k, e1) := match back with
    | some r => k.activate r captureDepth
    | none => (k, [])
  let (k, e2) := k.activate (rowOf line) captureDepth
  (k, e1 ++ e2)

/-- The line after a hit: it leaves LOW for NORMAL unless the access streams, and a write makes it dirty (R57, R58). -/
def Stack.hitLine (k : Stack) (l : MscLine) (stream : Bool) (write : Option (BitVec 2048)) : MscLine :=
  let low := k.classOf l == .low
  { l with
    dirty := l.dirty || write.isSome
    under := if l.dirty then l.under else write.getD 0
    prio := if low && !stream then .normal else if low then .low else l.prio
    chain := if low && !stream then 0 else l.chain }

/-- An access to a line: a hit moves it to most recently used and leaves LOW unless it streams; a miss fills (R58, R76).  `write`
holds, for a write, the bytes that the line shows before it. -/
def Stack.access (k : Stack) (line : Nat) (chain : BitVec 8) (uo stream : Bool) (write : Option (BitVec 2048)) :
    Stack × List Nat :=
  let ls := k.setLines (mscSet line)
  match ls.find? fun l => l.line == line with
  | some l =>
    let l' := k.hitLine l stream write
    ({ k.withSet (mscSet line) (l' :: ls.filter fun x => x.line != line) with mschit := k.mschit + 1 }, [])
  | none => { k with mscmiss := k.mscmiss + 1 }.fill line chain uo write

/-- Recording the overflows of a stack's hot rows (R66), with SEV 0 and STRUCT 0x09, the DRAM's (log 90). -/
def hotRowEvents (stack : Nat) (rows : List Nat) : M Unit :=
  rows.forM fun r => do let _ ← tuffWrite tHotRow 0 0x09 stack (BitVec.ofNat 64 (rowPayload r))

/-- The cell of a line of a stack of this module. -/
def State.lineCell (s : State) (stack line : Nat) : Nat := cellOf s.moduleNum.val (dramCell stack (line * 256))

/-- The 256 bytes that a line of a stack shows. -/
def State.lineBytes (s : State) (stack line : Nat) : BitVec 2048 := BitVec.ofNat 2048 (s.mem.read (s.lineCell stack line) 256)

/-- An access of some agent to n bytes of a cell of this module, made before the bytes change: one count for each 256-byte line
it touches (R57, R76). -/
def mscTouch (cell n : Nat) (chain : BitVec 8) (uo stream write : Bool) : M Unit := do
  let s ← get
  if cellModule cell ≠ s.moduleNum.val then pure ()
  else
    match regionOf (cellAddr cell) with
    | .dram k off =>
      forN ((off + n - 1) / 256 + 1 - off / 256) fun i => do
        let s ← get
        let line := off / 256 + i
        let (k', ev) := (s.stack k).access line chain uo stream (if write then some (s.lineBytes k line) else none)
        modify fun s => s.setStack k k'
        hotRowEvents k ev
    | .resident k _ => modStack k fun st => { st with mschit := st.mschit + 1 }
    | _ => pure ()

/-- A line that leaves PINNED (Table 1): HIGH if its chain generation is current, else NORMAL. -/
def Stack.unpin (k : Stack) (l : MscLine) : MscLine :=
  if l.prio = .pinned then
    if l.chain ≠ 0 ∧ l.gen = k.gens[l.chain.toNat] then { l with prio := .high } else { l with prio := .normal, chain := 0 }
  else l

/-- The end of a refresh window: counts return to zero, pinned lines leave their class, and every set keeps its HIGH limit
(R59, R64, R67). -/
def Stack.endWindow (k : Stack) : Stack :=
  { k with acts := [], captured := [], msc := k.msc.map fun e => (e.1, k.highLimit 0 16 (e.2.map k.unpin)) }

/-- Keeping the lines that a test holds of; a row none of whose lines stays pinned leaves the captured rows (R46, R67). -/
def Stack.keepLines (k : Stack) (keep : MscLine → Bool) : Stack :=
  let m := k.msc.filterMap fun e =>
    let l := e.2.filter keep
    if l.isEmpty then none else some (e.1, l)
  let k' := { k with msc := m }
  { k' with captured := k.captured.filter fun r =>
      (linesOf r).any fun l => (pinnedOf (k'.setLines (mscSet l))).any fun x => x.line == l }

/-- Dropping lines of a stack without write-back: the bytes of DRAM beneath a dirty one show again (R46, R57). -/
def State.dropLines (s : State) (stack : Nat) (drop : Nat → Bool) : State :=
  let k := s.stack stack
  let gone := k.msc.flatMap fun e => e.2.filter fun l => drop l.line && l.dirty
  let s := { s with mem := gone.foldl (fun m (l : MscLine) => m.write (s.lineCell stack l.line) 256 l.under.toNat) s.mem }
  s.setStack stack (k.keepLines fun l => !drop l.line)

/-- Carrying out a change of the carve-out (R74): the lines of the ways that change use are written back, opening their rows,
and leave; pins are released and a new window starts; ACT becomes CARVE.  Answers the rows whose overflow is recorded.  The
resident bytes are zeroed by the caller. -/
def Stack.carve (k : Stack) : Stack × List Nat :=
  let c := fieldOf k.scfg 2 0
  let leaves := fun (l : MscLine) => decide (16 - 2 * c ≤ l.way)
  let rows := (k.msc.flatMap fun e => e.2.filter fun l => leaves l && l.dirty).map fun l => rowOf l.line
  let k := { k with scfg := setBit (setField k.scfg 10 8 c) 11 false }
  let (k, ev) := rows.foldl (fun acc r =>
    let (k', e) := acc.1.activate r captureDepth
    (k', acc.2 ++ e)) (k.keepLines fun l => !leaves l, [])
  (k.endWindow, ev)

/-- A DEMOTE taking effect at a stack (R61). -/
def Stack.demote (k : Stack) (c : BitVec 8) : Stack :=
  { k with gens := k.gens.set c.toNat (k.gens[c.toNat] + 1), scrubs := k.scrubs ++ [c] }

/-- The end of a scrub: stale lines of the chain lose its identifier (R62). -/
def Stack.scrub (k : Stack) (c : BitVec 8) : Stack :=
  { k with
    scrubs := k.scrubs.filter fun x => x != c
    msc := k.msc.map fun e => (e.1, e.2.map fun l =>
      if l.chain = c ∧ l.gen ≠ k.gens[c.toNat] then { l with chain := 0, prio := k.classOf l } else l) }

end Sys2Proof.Machine
end

