-- ==== Sys2Proof/Machine/Mmu.lean ====
section
/-! DEFINITION. Translation of an agent's accesses, with its checks and their order (02_address_spaces R23, R26, R32-R46,
08 R189), and the upkeep of frame classes and UO (R44, R45). -/

namespace Sys2Proof.Machine

/-- The lost units that n bytes of a cell of this module cover: unit cell address, its size, STRUCT and SEQ (R413). -/
def State.lostAt (s : State) (cell n : Nat) : List (Nat × Nat × Nat × Nat) :=
  if cellModule cell ≠ s.moduleNum.val then []
  else
    let pick := fun (l : List (Nat × Nat × Nat)) (unit : Nat) =>
      let size := fun (u : Nat × Nat × Nat) => if u.2.1 = 0x0E then 64 else unit
      (l.filter fun u => decide (u.1 < cell + n) && decide (cell < u.1 + size u)).map fun u => (u.1, size u, u.2.1, u.2.2)
    match regionOf (cellAddr cell) with
    | .dram k _ => pick (s.stack k).lost 256
    | .resident k _ => pick (s.stack k).lost 256
    | .bank d _ => pick (s.die d).lost 8
    | _ => []

/-- Who consumes data: an agent's access side, an element of a vector or an entry of a fibre, or the matrix unit, which has no lane
(R414). -/
inductive Consumer where
  | access
  | element (i : Nat) (width : Nat)
  | entry (i : Nat)
  | unit
deriving DecidableEq, Repr

/-- Live lane groups of a core in ascending order (R167). -/
def liveGroups (lgmap : Word) : List Nat := (List.range 8).filter fun g => bitOf lgmap (32 + g)

/-- The partitions that the live groups form (R167). -/
def partitions (lgmap : Word) : List (List Nat) := go 8 (liveGroups lgmap)
where
  go : Nat → List Nat → List (List Nat)
    | 0, _ => []
    | n + 1, l => if l.isEmpty then [] else l.take (2 ^ fieldOf lgmap 41 40) :: go n (l.drop (2 ^ fieldOf lgmap 41 40))

/-- The lane groups of a strand context's partition (R167). -/
def partitionOf (lgmap : Word) (c : Nat) : List Nat :=
  let ps := partitions lgmap
  ps.getD (fieldOf lgmap (3 * (c % 8) + 2) (3 * (c % 8)) % (if ps.length = 0 then 1 else ps.length)) []

/-- The report word of a data error (R414); the place of an element follows R168, that of a fibre entry R277. -/
def State.reportWord (s : State) (a : Agent) (who : Consumer) (struct seq : Nat) (lostUnit : Bool) : Word :=
  match a with
  | .cc _ => BitVec.ofNat 64 (struct * 2 ^ 59 + 2 ^ 41 + (if lostUnit then 2 ^ 40 else 0) + 0xFFFF * 2 ^ 24 + seq % 65536)
  | .strand c =>
    let groups := partitionOf (s.core (coreNum c)).lgmap c.val
    let base := struct * 2 ^ 59 + dieNum c * 2 ^ 55 + coreNum c % 256 * 2 ^ 47 + (if lostUnit then 2 ^ 40 else 0) + seq % 65536
    match who with
    | .access => BitVec.ofNat 64 (base + 2 ^ 41 + 0xFFFF * 2 ^ 24)
    | .unit => BitVec.ofNat 64 (base + 0xFFFF * 2 ^ 24)
    | .element i w =>
      let g := groups.getD (i * w / 256 % (if groups.length = 0 then 1 else groups.length)) 0
      BitVec.ofNat 64 (base + g * 2 ^ 44 + i * w % 256 / 64 * 2 ^ 42 + i % 65536 * 2 ^ 24)
    | .entry i =>
      let p := if groups.length = 0 then 1 else groups.length
      BitVec.ofNat 64 (base + groups.getD (i % p) 0 * 2 ^ 44 + Config.fibreLane (i / p) % 4 * 2 ^ 42 + i % 65536 * 2 ^ 24)

/-- Kinds of access (R32). -/
inductive Acc where
  | fetch | load | store | rw
deriving DecidableEq, Repr

/-- TCAUSE.ACC (R387). -/
def Acc.code : Acc → Nat
  | .load => 0
  | .store => 1
  | .fetch => 2
  | .rw => 3

def Acc.writes : Acc → Bool
  | .store => true
  | .rw => true
  | _ => false

/-- The permissions an access needs (Table 5). -/
def Acc.permitted (a : Acc) (l : Word) : Bool :=
  match a with
  | .fetch => leafX l
  | .load => leafR l
  | .store => leafW l
  | .rw => leafR l && leafW l

/-- The translation cache of an agent. -/
def State.tlb (s : State) (a : Agent) : List PageTr :=
  match a with
  | .strand c => (s.core (coreNum c)).tlb
  | .cc n => (s.cc n.val).tlb

def State.setTlb (s : State) (a : Agent) (t : List PageTr) : State :=
  match a with
  | .strand c => s.setCore (coreNum c) { s.core (coreNum c) with tlb := t }
  | .cc n => s.setCc n.val { s.cc n.val with tlb := t }

/-- Whether an entry maps an address of a job. -/
def PageTr.maps (p : PageTr) (job va : Nat) : Bool :=
  p.job == job && decide (p.vbase ≤ va) && decide (va < p.vbase + p.size)

/-- A walk's entry put into the cache of an agent; the oldest entry leaves beyond 1,024 (R41). -/
def State.tlbAdd (s : State) (a : Agent) (p : PageTr) : State :=
  s.setTlb a ((p :: s.tlb a).take Config.tlbEntries)

/-- Whether module m is marked present (R26). -/
def State.present (s : State) (m : Nat) : Bool := s.hub.modpres.getLsbD m

/-- A walk for an agent, with the presence check that the walk makes (R26, R29). -/
def State.walkPage (s : State) (ptbase : Word) (va : Nat) : Walk :=
  match walk s.mem s.moduleNum.val ptbase va with
  | .leaf l size pte => if !leafDead l && !s.present (leafMod l) then .malformed else .leaf l size pte
  | r => r

/-- Whether an agent reaches SYS pages (R33); an upcall handler runs at user privilege (R133). -/
def State.reachesSys (s : State) (a : Agent) : Bool :=
  match a with
  | .strand c => match s.strand? c.val with
    | some t => t.hart.sysh && !t.hart.upc
    | none => false
  | .cc n => bitOf (s.cc n.val).ccstat 0

/-- The checks of a translated page, in the order of R189 row 7: translation, protection, write-protect. -/
def State.checkPage (s : State) (a : Agent) (acc : Acc) (p : PageTr) : Option Nat :=
  if leafDead p.leaf && acc != .load then some cTranslation
  else if !leafDead p.leaf &&
      pageUnmapped (leafBase p.leaf) (leafStored p.leaf p.size) (fun k => (s.stack k).act)
        (leafMod p.leaf == s.moduleNum.val) then some cProtection
  else if leafSYS p.leaf && !s.reachesSys a then some cProtection
  else if !acc.permitted p.leaf then some cProtection
  else if leafRD p.leaf && acc.writes then some cWriteProtect
  else none

/-- The entries that a walk reads, by cell (R29). -/
def walkCells (mem : Cells) (m va : Nat) : Nat → Nat → List Nat
  | level, table =>
    if !tableOk table (tableSize level) then []
    else
      let pte := entryCell m table (levelIndex level va)
      let e := BitVec.ofNat 64 (mem.read pte 8)
      pte :: (if leafV e && !leafR e && !leafW e && !leafX e then
        match level with
        | 0 => []
        | n + 1 => if fieldOf e 63 48 != 0 || fieldOf e 7 1 != 0 then [] else walkCells mem m va n (fieldOf e 47 8 * 256)
      else [])
termination_by structural level => level

/-- The memory-side caches after a walk: each entry is read there, through no leaf (R29, R76). -/
def State.touchWalk (s : State) (ptbase : Word) (va : Nat) : State :=
  match ((walkCells s.mem s.moduleNum.val va 3 (fieldOf ptbase 47 20 * 0x100000)).forM fun c =>
      mscTouch c 8 0 false false false).run s with
  | .ok _ s' => s'
  | .error _ s' => s'

/-- The lost unit that a walk meets first: its STRUCT and SEQ (R413). -/
def State.walkLost (s : State) (ptbase : Word) (va : Nat) : Option (Nat × Nat) :=
  ((walkCells s.mem s.moduleNum.val va 3 (fieldOf ptbase 47 20 * 0x100000)).flatMap fun c => s.lostAt c 8).head?.map fun u => u.2.2

/-- The page of an address, whatever the checks of an access say of it: by it a misalignment is judged, which comes before them
(R189 row 7). -/
def State.pageAt (s : State) (a : Agent) (ptbase va : Word) : Option PageTr :=
  if fieldOf va 63 56 ≠ 0 then none
  else
    match (s.tlb a).find? fun p => p.maps (jobOf ptbase) va.toNat with
    | some p => some p
    | none =>
      match s.walkPage ptbase va.toNat with
      | .leaf l size pte =>
        some { job := jobOf ptbase, vbase := va.toNat / size * size, size := size, leaf := l, pte := pte }
      | _ => none

/-- Whether n bytes at an address touch a bank page or system space, where accesses have to be aligned (R209). -/
def State.aligns (s : State) (a : Agent) (ptbase va : Word) (n : Nat) : Bool :=
  [va, va + BitVec.ofNat 64 (n - 1)].any fun v => (s.pageAt a ptbase v).any fun p => p.isBank || p.isSystem

/-- Translating one address for an agent under a PTBASE (R23, R26-R33, R46); answers the page or the trap class. -/
def State.translate (s : State) (a : Agent) (ptbase : Word) (acc : Acc) (va : Word) : Except Nat PageTr × State :=
  if fieldOf va 63 56 ≠ 0 then (.error cProtection, s)
  else
    let v := va.toNat
    let job := jobOf ptbase
    match (s.tlb a).find? fun p => p.maps job v with
    | some p =>
      match s.checkPage a acc p with
      | some c => (.error c, s)
      | none => (.ok p, s)
    | none =>
      let s := s.touchWalk ptbase v
      match if (s.walkLost ptbase v).isSome then none else some (s.walkPage ptbase v) with
      | none => (.error cDataError, s)
      | some .invalid => (.error cTranslation, s)
      | some .malformed => (.error cProtection, s)
      | some (.leaf l size pte) =>
        let p : PageTr := { job := job, vbase := v / size * size, size := size, leaf := l, pte := pte }
        let s' := s.tlbAdd a p
        match s.checkPage a acc p with
        | some c => (.error c, s')
        | none => (.ok p, s')

/-- Translating for the executing agent; answers the trap instead of taking it. -/
def tryTranslate (acc : Acc) (va : Word) : M (Except TrapReq PageTr) := do
  let h ← hart
  let s ← get
  let (r, s') := s.translate s.turn h.ptbase acc va
  set s'
  match r with
  | .ok p => return .ok p
  | .error c =>
    -- an entry of the tables in a lost unit: the access takes the data-error trap (R412, R413)
    match if c = cDataError then s.walkLost h.ptbase va.toNat else none with
    | some (struct, seq) =>
      return .error { cause := c, tval := s.reportWord s.turn .access struct seq true, acc := acc.code, page := true }
    | none => return .error { cause := c, tval := va, acc := acc.code, page := true }

/-- Translating for the executing agent. -/
def translate (acc : Acc) (va : Word) : M PageTr := do
  match ← tryTranslate acc va with
  | .ok p => return p
  | .error t => throw (.trap t)

/-- The format-attribute trap of R37. -/
def formatTrap (acc : Acc) (va : Word) : M Unit := trapPage cFormat va acc.code

/-- The pages of n bytes from an address: each with the first address on it and the bytes on it. -/
def tryTranslateRange (acc : Acc) (va : Word) (n : Nat) : M (Except TrapReq (List (PageTr × Nat × Nat))) := do
  match ← tryTranslate acc va with
  | .error t => return .error t
  | .ok p =>
    let v := va.toNat
    if v + n ≤ p.vbase + p.size then return .ok [(p, v, n)]
    else
      let k := p.vbase + p.size - v
      match ← tryTranslate acc (va + BitVec.ofNat 64 k) with
      | .error t => return .error t
      | .ok q => return .ok [(p, v, k), (q, v + k, n - k)]

/-- The pages of an access of at most one page length (R38, R209). -/
def translateRange (acc : Acc) (va : Word) (n : Nat) : M (List (PageTr × Nat × Nat)) := do
  match ← tryTranslateRange acc va n with
  | .ok l => return l
  | .error t => throw (.trap t)

/-- Use classes of frames (R45). -/
inductive FrameUse where
  | stream | ordinary | gather
deriving DecidableEq, Repr

def FrameUse.code : FrameUse → Nat
  | .stream => 1
  | .ordinary => 2
  | .gather => 3

/-- Index of a DRAM frame in the frame-use table (R45). -/
def frameIndex (la : Nat) : Option Nat :=
  if la < 0x018000000000 then some (la / 65536)
  else if 0x020000000000 ≤ la ∧ la < 0x038000000000 then some (25165824 + (la - 0x020000000000) / 65536)
  else none

/-- Cell of the byte of the frame-use table that holds a frame's two bits. -/
def frameCell (m : Nat) (fubase : Word) (idx : Nat) : Nat := cellOf m (fieldOf fubase 47 16 * 65536 + idx / 4)

/-- Module-local address of the memory that holds a byte of a page: the block's for a converted page (R36). -/
def PageTr.storedAddr (p : PageTr) (va : Nat) : Nat :=
  match leafStored.storedBlock (leafSfmt p.leaf) with
  | some n => leafBase p.leaf + (va - p.vbase) / (32 * leafElem p.leaf) * n
  | none => p.localAddr va

/-- Bytes of memory that hold n bytes of a page from an address (R36). -/
def PageTr.storedLen (p : PageTr) (va n : Nat) : Nat :=
  match leafStored.storedBlock (leafSfmt p.leaf) with
  | some k =>
    let bb := 32 * leafElem p.leaf
    ((va + n - 1 - p.vbase) / bb + 1 - (va - p.vbase) / bb) * k
  | none => n

/-- n bytes cut at the multiples of u: each piece with its distance from the start, its address and its length. -/
def cutsAt (u start n : Nat) : List (Nat × Nat × Nat) :=
  (List.range ((start + n - 1) / u + 1 - start / u)).map fun i =>
    let lo := if i = 0 then start else (start / u + i) * u
    let hi := Nat.min (start + n) ((start / u + i + 1) * u)
    (lo - start, lo, hi - lo)

/-- The 256-byte line of a cell, to which reservations are bound (R212). -/
def lineOf (cell : Nat) : Nat := cell / 256

/-- Clearing every reservation on the lines that a write of n bytes touches (R212, R254); one that a control complex core holds in
its own cache sees only the control complex's writes (R52). -/
def State.clearResv (s : State) (cell n : Nat) : State :=
  let hit := fun (a : Nat) => decide (lineOf cell ≤ lineOf a) && decide (lineOf a ≤ lineOf (cell + n - 1))
  { s with
    strands := s.strands.map fun e => (e.1, { e.2 with
      hart := { e.2.hart with resv := e.2.hart.resv.filter fun a => !hit a }
      vresv := e.2.vresv.filter fun r => !hit r.2 })
    ccs := s.ccs.map fun e => (e.1, { e.2 with hart := { e.2.hart with
      resv := e.2.hart.resv.filter fun a => e.2.resvOwn.isSome || !hit a } }) }

/-- Clearing what the control complex's own write clears besides: the reservations that its cores hold in their cache (R52). -/
def State.clearOwn (s : State) (cell n : Nat) : State :=
  let hit := fun (a : Nat) => decide (lineOf cell ≤ lineOf a) && decide (lineOf a ≤ lineOf (cell + n - 1))
  { s with ccs := s.ccs.map fun e => (e.1, { e.2 with hart := { e.2.hart with resv := e.2.hart.resv.filter fun a => !hit a } }) }

/-- Writing n bytes at a cell (R136): memory changes and reservations on its lines are cleared. -/
def State.writeCell (s : State) (cell n v : Nat) : State := { (s.clearResv cell n) with mem := s.mem.write cell n v }

/-- The compare-and-swap that keeps UO (R44): abandoned if the entry is not the one read. -/
def updateUO (p : PageTr) (uo : Bool) : M Unit := do
  mscTouch p.pte 8 0 false false true
  modify fun s =>
    let e := BitVec.ofNat 64 (s.mem.read p.pte 8)
    if setBit e 8 false = setBit p.leaf 8 false then s.writeCell p.pte 8 (setBit e 8 uo).toNat else s

/-- The class of the frame with an index of the frame-use table (R45). -/
def State.frameClass (s : State) (i : Nat) : Nat :=
  (s.mem.get (frameCell s.moduleNum.val s.hub.fubase i)).toNat / 4 ^ (i % 4) % 4

/-- Raising the class of a frame, by an atomic update at the memory-side cache (R45); answers whether it rose, and from what. -/
def raiseClass (i new : Nat) : M (Option Nat) := do
  let s ← get
  let old := s.frameClass i
  if new ≤ old then return none
  else
    let c := frameCell s.moduleNum.val s.hub.fubase i
    mscTouch c 1 0 false false true
    modify fun s => s.writeCell c 1 ((s.mem.get c).toNat + (new - old) * 4 ^ (i % 4))
    return some old

/-- The class that a use gives a frame of a class (R45). -/
def FrameUse.raises (u : FrameUse) (old : Nat) : Nat :=
  match u with
  | .stream => if old = 0 then 1 else old
  | u => Nat.max old u.code

/-- The frames that a range of module-local addresses touches, by their index (R45). -/
def framesOf (a n : Nat) : List Nat := (cutsAt 65536 a n).filterMap fun c => frameIndex c.2.1

/-- Raising the classes of the frames that n bytes of a page touch; UO follows every change (R44, R45). -/
def touchFrame (p : PageTr) (va n : Nat) (use : FrameUse) : M Unit := do
  let s ← get
  if !bitOf s.hub.fubase 0 || leafDead p.leaf || leafMod p.leaf != s.moduleNum.val then pure ()
  else
    (framesOf (p.storedAddr va) (p.storedLen va n)).forM fun i => do
      let new := use.raises ((← get).frameClass i)
      match ← raiseClass i new with
      | some _ => updateUO p (new == 1)
      | none => pure ()

/-- Raising the classes of the frames that an access by address touches, through no leaf: a packet of another module or a root
port's DMA (R45). -/
def touchAddr (a n : Nat) : M Unit := do
  if bitOf (← get).hub.fubase 0 then (framesOf a n).forM fun i => do let _ ← raiseClass i FrameUse.ordinary.code
  else pure ()

/-- UO as it stands in memory, by which fills follow (R42, R58). -/
def currentUO (s : State) (p : PageTr) : Bool :=
  let e := BitVec.ofNat 64 (s.mem.read p.pte 8)
  if setBit e 8 false = setBit p.leaf 8 false then leafUO e else leafUO p.leaf

end Sys2Proof.Machine
end

