-- ==== Sys2Proof/Machine/Access.lean ====
section
/-! DEFINITION. How bytes are read and written at a cell: memory and bank memory, converted pages (R97-R100), lost units
(R413), reservations (R212), the L1 data cache (R114-R120), system space (R75, R426). -/

namespace Sys2Proof.Machine

def writeCell (cell n v : Nat) : M Unit := modify fun s => s.writeCell cell n v

def readCell (cell n : Nat) : M Nat := do return (← get).mem.read cell n

/-- Whether a lasting error stands at the element that a consumer is about to use (R394, R412). -/
def DataErr.meets (e : DataErr) (who : Consumer) : Bool :=
  match who with
  | .element i _ => e.elem.toNat == i
  | .entry i => e.elem.toNat == i
  | .access => false
  | .unit => false

/-- The trap of a lasting error that the executing strand meets (R412, R414). -/
def DataErr.req (e : DataErr) (s : State) (who : Consumer) : TrapReq :=
  { cause := cDataError, tval := s.reportWord s.turn who e.struct e.seq false, lost := e.lost }

/-- A consumer of data meets the lasting error that stands at it (R394, R412). -/
def meetError (who : Consumer) : M Unit := do
  match (← get).turn with
  | .cc _ => pure ()
  | .strand c =>
    match (← strandAt c.val).dataErr with
    | none => pure ()
    | some e =>
      if e.meets who then
        modStrandAt c fun t => { t with dataErr := none }
        throw (.trap (e.req (← get) who))
      else pure ()

/-- A read that covers a lost unit takes the data-error trap, without a retry (R413). -/
def checkLost (cell n : Nat) (who : Consumer) : M Unit := do
  let s ← get
  match s.lostAt cell n with
  | [] => pure ()
  | (_, _, struct, seq) :: _ => trap cDataError (s.reportWord s.turn who struct seq true)

/-- A write: a lost unit covered whole moves to a spare and its entry is cleared; a partial write traps (R413). -/
def checkLostWrite (cell n : Nat) (who : Consumer) : M Unit := do
  let s ← get
  match s.lostAt cell n with
  | [] => pure ()
  | us =>
    match us.find? fun u => decide (u.1 < cell) || decide (cell + n < u.1 + u.2.1) with
    | some (_, _, struct, seq) => trap cDataError (s.reportWord s.turn who struct seq true)
    | none =>
      let drop := fun (l : List (Nat × Nat × Nat)) => l.filter fun x => !us.any fun u => u.1 == x.1
      match regionOf (cellAddr cell) with
      | .dram k _ => modStack k fun st => { st with lost := drop st.lost }
      | .resident k _ => modStack k fun st => { st with lost := drop st.lost }
      | .bank d _ => modDie d fun st => { st with lost := drop st.lost }
      | _ => pure ()

/-- Bytes of one L1 line. -/
def L1Line.bytes (l : L1Line) (off n : Nat) : Nat := l.data.toNat / 256 ^ off % 256 ^ n

/-- Partitions of the L1 (R114). -/
inductive L1Part where
  | main | coord
deriving DecidableEq, Repr

def L1Part.sets : L1Part → Nat
  | .main => 128
  | .coord => 64

def L1Part.ways : L1Part → Nat
  | .main => 12
  | .coord => 8

/-- Whether an element of a gathered line touches a byte range. -/
def touches (cell n a m : Nat) : Bool := decide (a < cell + n) && decide (cell < a + m)

/-- Whether a line holds one of n bytes. -/
def L1Line.meets (l : L1Line) (cell n : Nat) : Bool := touches cell n (l.line * 64) 64

/-- Whether a line of the main partition holds one of n bytes. -/
def MainLine.meets (l : MainLine) (cell n : Nat) : Bool :=
  match l with
  | .plain l => l.meets cell n
  | .gathered g => g.elems.any fun e => touches cell n e.1 e.2.1

/-- The line number by which a line of the main partition finds its set: that of its first byte (R114, R117). -/
def MainLine.place (l : MainLine) : Nat :=
  match l with
  | .plain l => l.line
  | .gathered g => (g.elems.head?.map (·.1)).getD 0 / 64

/-- Whether a line is a gathered one. -/
def MainLine.isGathered (l : MainLine) : Bool :=
  match l with
  | .plain _ => false
  | .gathered _ => true

/-- Dropping every line of a core that holds one of n bytes (R137). -/
def Core.l1Drop (c : Core) (cell n : Nat) : Core :=
  { c with l1main := c.l1main.filter fun l => !l.meets cell n, l1coord := c.l1coord.filter fun l => !l.meets cell n }

/-- Dropping the whole L1 (R119). -/
def Core.l1Flush (c : Core) : Core := { c with l1main := [], l1coord := [], l1Pages := [] }

/-- The copy of n bytes that a line of the main partition answers with, if they hit it (R115, R117). -/
def MainLine.serves (l : MainLine) (cell n : Nat) : Option Nat :=
  match l with
  | .plain l => if l.line = cell / 64 then some (l.bytes (cell % 64) n) else none
  | .gathered g => (g.elems.find? fun e => e.1 == cell && e.2.1 == n).map fun e => e.2.2.toNat

/-- A lookup of n bytes within one line (R115, R117): the value, with the line moved to most recently used. -/
def Core.l1Find (c : Core) (cell n : Nat) : Option (Nat × Core) :=
  match c.l1main.find? fun l => (l.serves cell n).isSome with
  | some l => (l.serves cell n).map fun v => (v, { c with l1main := l :: c.l1main.erase l })
  | none =>
    match c.l1coord.find? fun l => l.line == cell / 64 with
    | some l => some (l.bytes (cell % 64) n, { c with l1coord := l :: c.l1coord.erase l })
    | none => none

/-- The main partition with room in a set: the least recently used line of a full set leaves (R114). -/
def mainRoom (ls : List MainLine) (place : Nat) : List MainLine :=
  let same := ls.filter fun x => x.place % L1Part.main.sets == place % L1Part.main.sets
  if same.length < L1Part.main.ways then ls
  else match same.getLast? with
    | some v => ls.erase v
    | none => ls

/-- The coordinate partition with room in a set (R114). -/
def coordRoom (ls : List L1Line) (line : Nat) : List L1Line :=
  let same := ls.filter fun x => x.line % L1Part.coord.sets == line % L1Part.coord.sets
  if same.length < L1Part.coord.ways then ls
  else match same.getLast? with
    | some v => ls.erase v
    | none => ls

/-- A line filled into a partition, most or least recently used; other copies of its bytes leave first (R114, R115, R137). -/
def Core.l1Fill (c : Core) (p : L1Part) (line : Nat) (data : BitVec 512) (mru : Bool) : Core :=
  let c := c.l1Drop (line * 64) 64
  let l : L1Line := { line := line, data := data }
  match p with
  | .main =>
    let ls := mainRoom c.l1main line
    { c with l1main := if mru then .plain l :: ls else ls ++ [.plain l] }
  | .coord =>
    let ls := coordRoom c.l1coord line
    { c with l1coord := if mru then l :: ls else ls ++ [l] }

/-- A gathered line filled into the main partition; other copies of its bytes leave first, and of 65 gathered lines the least
recently used (R117, R137). -/
def Core.l1Gather (c : Core) (g : GatheredLine) : Core :=
  let c := g.elems.foldl (fun c e => c.l1Drop e.1 e.2.1) c
  let ls := c.l1main
  let ls := if (ls.filter MainLine.isGathered).length < 64 then ls
    else match (ls.filter MainLine.isGathered).getLast? with
      | some v => ls.erase v
      | none => ls
  { c with l1main := .gathered g :: mainRoom ls (MainLine.gathered g).place }

/-- Recording a page through which a line was filled (R120). -/
def Core.l1Note (c : Core) (p : PageTr) : Core := if c.l1Pages.contains p then c else { c with l1Pages := p :: c.l1Pages }

/-- A line after a store of the core to n bytes (R116). -/
def L1Line.stored (l : L1Line) (cell n v : Nat) : L1Line :=
  if l.meets cell n then
    { l with data := BitVec.ofNat 512 (ofBytes ((List.range 64).map fun i =>
        let a := l.line * 64 + i
        if cell ≤ a ∧ a < cell + n then BitVec.ofNat 8 (v / 256 ^ (a - cell)) else BitVec.ofNat 8 (l.data.toNat / 256 ^ i))) }
  else l

/-- A gathered line after a store of the core: elements covered whole are updated; none: one is covered in part (R117). -/
def GatheredLine.stored (g : GatheredLine) (cell n v : Nat) : Option GatheredLine :=
  if g.elems.any fun e => touches cell n e.1 e.2.1 && !(decide (cell ≤ e.1) && decide (e.1 + e.2.1 ≤ cell + n)) then none
  else some { g with elems := g.elems.map fun e =>
    if cell ≤ e.1 ∧ e.1 + e.2.1 ≤ cell + n then (e.1, e.2.1, BitVec.ofNat 64 (v / 256 ^ (e.1 - cell) % 256 ^ e.2.1)) else e }

/-- A store of the core updates the bytes its lines hold (R116, R117). -/
def Core.l1Store (c : Core) (cell n v : Nat) : Core :=
  { c with
    l1coord := c.l1coord.map fun l => l.stored cell n v
    l1main := c.l1main.filterMap fun l => match l with
      | .plain l => some (.plain (l.stored cell n v))
      | .gathered g => (g.stored cell n v).map .gathered }

/-- The core of the executing agent; none on the control complex, whose cache is coherent (R425). -/
def l1Core : M (Option Nat) := do
  match (← get).turn with
  | .strand c => return some (coreNum c)
  | .cc _ => return none

/-- Dropping copies of bytes from the executing core's L1. -/
def l1DropMine (cell n : Nat) : M Unit := do
  match ← l1Core with
  | some k => modCore k fun c => c.l1Drop cell n
  | none => pure ()

/-- Invalidating the executing core's whole L1 (R119). -/
def l1FlushMine : M Unit := do
  match ← l1Core with
  | some k => modCore k Core.l1Flush
  | none => pure ()

/-- How a load meets the L1 (R115, Table 4). -/
inductive L1Use where
  /-- neither served nor filled; copies are dropped (R137) -/
  | bypass
  /-- served, but allocates nothing -/
  | served
  /-- served, and fills a partition -/
  | fills (p : L1Part) (mru : Bool)
deriving DecidableEq, Repr

/-- Whether a page's bytes may be in the L1 (R115). -/
def PageTr.inL1 (p : PageTr) : Bool := !leafDead p.leaf && !p.converts && !p.isBank && !p.isSystem

/-- The bytes of a read of another module, once all are here. -/
def FabricRead.value (r : FabricRead) : Option Nat :=
  if r.data.all (·.isSome) then some (ofBytes (r.data.filterMap id)) else none

/-- Data of another module's memory, which come over the fabric: the access waits until they have arrived (R43).  What has
arrived serves one access. -/
def fabricRead (cell n : Nat) : M Nat := do
  let s ← get
  match s.hub.fabric.find? fun r => r.who == s.turn && r.cell == cell && r.len == n && r.value.isSome with
  | some r =>
    modHub fun h => { h with fabric := h.fabric.erase r }
    return r.value.getD 0
  | none => throw (.wait (.fabric s.turn cell n))

/-- Reading n bytes at their point of coherence: here, or on another module (R43, R136). -/
def pointRead (cell n : Nat) : M Nat := do
  if cellModule cell = (← get).moduleNum.val then readCell cell n else fabricRead cell n

/-- What the L1 of the executing core answers for n bytes within one of its lines (R115); an access that it does not serve
drops their copies (R137). -/
def l1Lookup (p : PageTr) (cell n : Nat) (use : L1Use) : M (Option Nat) := do
  match ← l1Core with
  | none => return none
  | some k =>
    if !p.inL1 then return none
    else
      let s ← get
      match if use = .bypass then none else (s.core k).l1Find cell n with
      | some (v, c) =>
        set (s.setCore k c)
        return some v
      | none =>
        if use matches .fills .. then pure () else modCore k fun c => c.l1Drop cell n
        return none

/-- Reading n bytes within one L1 line that the L1 did not serve: a line may be filled (R115). -/
def readMissed (p : PageTr) (cell n : Nat) (use : L1Use) : M Nat := do
  match ← l1Core, use with
  | some k, .fills part mru =>
    if p.inL1 then
      let v ← pointRead (cell / 64 * 64) 64
      modCore k fun c => (c.l1Fill part (cell / 64) (BitVec.ofNat 512 v) mru).l1Note p
      return v / 256 ^ (cell % 64) % 256 ^ n
    else pointRead cell n
  | _, _ => pointRead cell n

/-- Reading n bytes of a page within one 256-byte line: the L1 serves what it holds, and for the rest the memory-side cache is
accessed once (R76, R115). -/
def readLine (p : PageTr) (va n : Nat) (use : L1Use) (stream : Bool) : M Nat := do
  let cuts := cutsAt 64 va n
  let held ← cuts.mapM fun c => do return (c, ← l1Lookup p (p.cell c.2.1) c.2.2 use)
  if held.any fun h => h.2.isNone then
    mscTouch (p.cell va) n (BitVec.ofNat 8 (leafChain p.leaf)) (currentUO (← get) p) stream false
  else pure ()
  held.foldlM (fun acc h => do
    let v ← match h.2 with
      | some v => pure v
      | none => readMissed p (p.cell h.1.2.1) h.1.2.2 use
    return acc + v * 256 ^ h.1.1) 0

/-- The stored block of a converted page that holds a byte: its cell and its number in the page (R36). -/
def PageTr.blockOf (p : PageTr) (va : Nat) : Nat × Nat :=
  let b := (va - p.vbase) / (32 * leafElem p.leaf)
  let n := (leafStored.storedBlock (leafSfmt p.leaf)).getD 0
  (cellOf (leafMod p.leaf) (leafBase p.leaf + b * n), b)

/-- Delivered format of a converted page (R35). -/
def dfmtOf (l : Word) : FFmt := if leafDfmt l = 1 then fp32 else if leafDfmt l = 2 then bf16 else fp16

/-- Stored format of a converted page. -/
def sfmtOf (l : Word) : Stored := (storedOf (leafSfmt l)).getD .sx4

/-- The delivered bytes of one stored block (R97), as a number. -/
def deliverBlock (l : Word) (blk : Nat) : Nat :=
  packElems (8 * leafElem l) (((sfmtOf l).decode blk).map (deliver (dfmtOf l)))

/-- The parts of a stored block, one for each 256-byte line: distance from its start, cell and length (R36). -/
def PageTr.blockParts (p : PageTr) (b n : Nat) : List (Nat × Nat × Nat) :=
  (cutsAt 256 (leafBase p.leaf + b * n) n).map fun c => (c.1, cellOf (leafMod p.leaf) c.2.1, c.2.2)

/-- Reading a stored block at its home (R97). -/
def readStored (p : PageTr) (b n : Nat) : M Nat :=
  (p.blockParts b n).foldlM (fun acc c => do return acc + (← pointRead c.2.1 c.2.2) * 256 ^ c.1) 0

/-- Accesses of a stored block at its home's memory-side cache. -/
def touchStored (p : PageTr) (b n : Nat) (uo stream write : Bool) : M Unit :=
  (p.blockParts b n).forM fun c => mscTouch c.2.1 c.2.2 (BitVec.ofNat 8 (leafChain p.leaf)) uo stream write

/-- A packet sent to another module (R431). -/
def sendPacket (pk : Packet) : M Unit := modHub fun h => { h with outbox := h.outbox ++ [pk] }

/-- Bytes of memory written at their point of coherence; to another module they travel as a remote store (R43, R431). -/
def pointWrite (cell n v : Nat) : M Unit := do
  if cellModule cell = (← get).moduleNum.val then writeCell cell n v
  else sendPacket { type := 1, dst := Fin.ofNat 4096 (cellModule cell), addr := cell, op := 0, data := bytesOf n v, operands := [] }

/-- Writing a stored block (R100). -/
def writeStored (p : PageTr) (b n v : Nat) : M Unit :=
  (p.blockParts b n).forM fun c => pointWrite c.2.1 c.2.2 (v / 256 ^ c.1 % 256 ^ c.2.2)

/-- Checking the bytes of a stored block against the lost units. -/
def lostStored (p : PageTr) (b n : Nat) (who : Consumer) : M Unit :=
  forN n fun i => checkLost (cellOf (leafMod p.leaf) (leafBase p.leaf + b * n + i)) 1 who

/-- The blocks of a converted page that hold n bytes: the first and their number (R36). -/
def PageTr.blocks (p : PageTr) (va n : Nat) : Nat × Nat :=
  let bb := 32 * leafElem p.leaf
  ((va - p.vbase) / bb, (va + n - 1 - p.vbase) / bb + 1 - (va - p.vbase) / bb)

/-- Bytes of a stored block of a page. -/
def PageTr.storedBytes (p : PageTr) : Nat := (leafStored.storedBlock (leafSfmt p.leaf)).getD 0

/-- Delivered bytes of a converted page, block by block (R97): the blocks from `va` on, low bytes first. -/
def convertedValue (p : PageTr) (va n : Nat) (who : Consumer) : M Nat := do
  let bb := 32 * leafElem p.leaf
  let (first, count) := p.blocks va n
  let v ← (List.range count).foldlM (fun acc i => do
    lostStored p (first + i) p.storedBytes who
    let blk ← readStored p (first + i) p.storedBytes
    return acc + deliverBlock p.leaf blk * 256 ^ (i * bb)) 0
  return v / 256 ^ (va - p.vbase - first * bb) % 256 ^ n

/-- An access to delivered bytes of a converted page: their blocks are read at the home's memory-side cache. -/
def readConverted (p : PageTr) (va n : Nat) (stream : Bool) (who : Consumer) : M Nat := do
  let (first, count) := p.blocks va n
  let uo := currentUO (← get) p
  forN count fun i => touchStored p (first + i) p.storedBytes uo stream false
  convertedValue p va n who

/-- Writing delivered bytes to a converted page: each touched block is re-encoded from the written and the delivered values
(R98-R100). -/
def writeConverted (p : PageTr) (va n v : Nat) (who : Consumer) : M Unit := do
  let bb := 32 * leafElem p.leaf
  let first := (va - p.vbase) / bb
  let last := (va + n - 1 - p.vbase) / bb
  let sb := (leafStored.storedBlock (leafSfmt p.leaf)).getD 0
  let uo := currentUO (← get) p
  forN (last + 1 - first) fun i => do
    let start := p.vbase + (first + i) * bb
    lostStored p (first + i) sb who
    touchStored p (first + i) sb uo false true
    let old := deliverBlock p.leaf (← readStored p (first + i) sb)
    let new := ofBytes ((List.range bb).map fun j =>
      let a := start + j
      if va ≤ a ∧ a < va + n then BitVec.ofNat 8 (v / 256 ^ (a - va)) else BitVec.ofNat 8 (old / 256 ^ j))
    let xs := (unpackElems (8 * leafElem p.leaf) 32 new).map fun c => ((dfmtOf p.leaf).decode c, false)
    writeStored p (first + i) sb ((sfmtOf p.leaf).encode (fun _ => .rne) xs).blk

/-- Reading n bytes of a page that is no system page: zero through DEAD (R46), delivered bytes of a converted page, else
the cells. -/
def readPage (p : PageTr) (va n : Nat) (use : L1Use) (stream : Bool) (who : Consumer) : M Nat := do
  if leafDead p.leaf then return 0
  else if p.converts then readConverted p va n stream who
  else
    -- the cells of a page follow each other within every 256 bytes
    (cutsAt 256 va n).forM fun c => checkLost (p.cell c.2.1) c.2.2 who
    (cutsAt 256 va n).foldlM (fun acc c => do return acc + (← readLine p c.2.1 c.2.2 use stream) * 256 ^ c.1) 0

/-- Writing n bytes of a page that is no system page: converted pages are re-quantised, the core's own copies follow
(R98, R116). -/
def writePage (p : PageTr) (va n v : Nat) (who : Consumer) : M Unit := do
  if p.converts then writeConverted p va n v who
  else
    let core ← l1Core
    (cutsAt 256 va n).forM fun c => checkLostWrite (p.cell c.2.1) c.2.2 who
    (cutsAt 256 va n).forM fun c => do
      let s ← get
      let cell := p.cell c.2.1
      let x := v / 256 ^ c.1 % 256 ^ c.2.2
      mscTouch cell c.2.2 (BitVec.ofNat 8 (leafChain p.leaf)) (currentUO s p) false true
      pointWrite cell c.2.2 x
      match core with
      | some k => modCore k fun y => y.l1Store cell c.2.2 x
      | none => pure ()

end Sys2Proof.Machine
end

