-- ==== Sys2Proof/Machine/Klass.lean ====
section
/-! DEFINITION. Which side of a strand performs each instruction (07 R161), and who may execute it: the control complex
(18 R422), an upcall handler (05 R134), system code (09 R228). -/

namespace Sys2Proof.Machine

/-- Where an instruction is performed (R161-R163). -/
inductive Side where
  /-- the access side -/
  | access
  /-- the access side, after the execute side has performed every earlier instruction -/
  | resync
  /-- the execute side; it may be forwarded and performed later -/
  | execute
  /-- the execute side; this model performs it as soon as it is reached -/
  | executeNow
  /-- no instruction: an event of the machine -/
  | event
deriving DecidableEq, Repr

/-- What the side and the privilege of an instruction are. -/
structure Klass where
  side : Side
  /-- the control complex executes it (R422) -/
  cc : Bool
  /-- an upcall handler may execute it (R134) -/
  handler : Bool
  /-- a system major (R228) -/
  system : Bool
deriving DecidableEq, Repr

/-- scalar integer, address, load, store, floating point, branch, jump -/
def kScalar : Klass := ⟨.access, true, true, false⟩
/-- other forms that the control complex executes as well -/
def kCommon : Klass := ⟨.access, true, false, false⟩
/-- the same, after a resynchronisation -/
def kCommonSync : Klass := ⟨.resync, true, false, false⟩
/-- device strands only, also in a handler -/
def kHandler : Klass := ⟨.access, false, true, false⟩
/-- device strands only -/
def kAccess : Klass := ⟨.access, false, false, false⟩
/-- device strands only, after a resynchronisation -/
def kSync : Klass := ⟨.resync, false, false, false⟩
/-- execute side -/
def kExec : Klass := ⟨.execute, false, false, false⟩
/-- execute side, not forwarded by this model -/
def kExecNow : Klass := ⟨.executeNow, false, false, false⟩
/-- system majors -/
def kSystem : Klass := ⟨.resync, true, false, true⟩
/-- system majors that wait for nothing -/
def kSystemNow : Klass := ⟨.access, true, false, true⟩
/-- events -/
def kEvent : Klass := ⟨.event, false, false, false⟩

/-- Whether a special register is one that the execute side writes: VPROG, STATUS (R163, R194). -/
def resyncReg (n : Fin 1024) : Bool := n.val == 0x004 || n.val == 0x00F

/-- The class of every instruction. -/
def klass (i : Instr) : Klass :=
  match i with
  | .add .. => kScalar
  | .sub .. => kScalar
  | .mul .. => kScalar
  | .mulh .. => kScalar
  | .mulhn .. => kScalar
  | .div .. => kScalar
  | .divn .. => kScalar
  | .rem .. => kScalar
  | .remn .. => kScalar
  | .and .. => kScalar
  | .or .. => kScalar
  | .xor .. => kScalar
  | .shl .. => kScalar
  | .shr .. => kScalar
  | .sra .. => kScalar
  | .slt .. => kScalar
  | .sltn .. => kScalar
  | .min .. => kScalar
  | .max .. => kScalar
  | .clz .. => kScalar
  | .ctz .. => kScalar
  | .popc .. => kScalar
  | .ldl .. => kCommon
  | .stc .. => kCommon
  | .addi .. => kScalar
  | .andi .. => kScalar
  | .ori .. => kScalar
  | .xori .. => kScalar
  | .shli .. => kScalar
  | .shri .. => kScalar
  | .srai .. => kScalar
  | .slti .. => kScalar
  | .lui .. => kScalar
  | .addpc .. => kScalar
  | .ldB .. => kScalar
  | .ldH .. => kScalar
  | .ldW .. => kScalar
  | .ldD .. => kScalar
  | .ldBN .. => kScalar
  | .ldHN .. => kScalar
  | .ldWN .. => kScalar
  | .stB .. => kScalar
  | .stH .. => kScalar
  | .stW .. => kScalar
  | .stD .. => kScalar
  | .srd _ n => if resyncReg n then kCommonSync else kCommon
  | .swr _ n => if resyncReg n then kCommonSync else kCommon
  | .beq .. => kScalar
  | .bne .. => kScalar
  | .blt .. => kScalar
  | .bge .. => kScalar
  | .bltn .. => kScalar
  | .bgen .. => kScalar
  | .jal .. => kScalar
  | .jalr .. => kScalar
  | .loop .. => kCommon
  | .vrep .. => kAccess
  | .yield .. => kCommon
  | .sexit .. => kSync
  | .scall .. => kCommon
  | .brk .. => kCommon
  | .qw .. => kHandler
  | .qr .. => kHandler
  | .qpeek .. => kAccess
  | .qstat .. => kAccess
  | .vadd .. => kExec
  | .vsub .. => kExec
  | .vmul .. => kExec
  | .vdiv .. => kExec
  | .vmin .. => kExec
  | .vmax .. => kExec
  | .vand .. => kExec
  | .vor .. => kExec
  | .vxor .. => kExec
  | .vshl .. => kExec
  | .vshr .. => kExec
  | .vsra .. => kExec
  | .vwmul .. => kExec
  | .vwadd .. => kExec
  | .vfma .. => kExec
  | .vfms .. => kExec
  | .vfnma .. => kExec
  | .vsqrt .. => kExec
  | .vrcp .. => kExec
  | .vabs .. => kExec
  | .vneg .. => kExec
  | .vmov .. => kExec
  | .vclass .. => kExec
  | .viota .. => kExec
  | .vsplat .. => kExec
  | .vmovQ .. => kExec
  | .vnarrow .. => kExec
  | .vaddS .. => kExec
  | .vsubS .. => kExec
  | .vmulS .. => kExec
  | .vdivS .. => kExec
  | .vminS .. => kExec
  | .vmaxS .. => kExec
  | .vandS .. => kExec
  | .vorS .. => kExec
  | .vxorS .. => kExec
  | .vshlS .. => kExec
  | .vshrS .. => kExec
  | .vsraS .. => kExec
  | .vwmulS .. => kExec
  | .vwaddS .. => kExec
  | .vfmaS .. => kExec
  | .vfmsS .. => kExec
  | .vfnmaS .. => kExec
  | .vcvt .. => kExec
  | .vqnt .. => kExec
  | .vdqnt .. => kExec
  | .vsat .. => kExec
  | .vcmp .. => kExec
  | .vcmpS .. => kExec
  | .vsel .. => kExec
  | .vmerge .. => kExec
  | .vld .. => kExec
  | .vlds .. => kExec
  | .vldx .. => kExec
  | .vldxD .. => kExec
  | .vldq .. => kExec
  | .vldl .. => kExec
  | .vldlD .. => kExec
  | .vldz .. => kExecNow
  | .vpf .. => kExec
  | .vst .. => kExec
  | .vsts .. => kExec
  | .vstx .. => kExec
  | .vstxD .. => kExec
  | .vstc .. => kExec
  | .vscc .. => kExec
  | .vsccD .. => kExec
  | .vsetl .. => kAccess
  | .vsetmf .. => kAccess
  | .vsplit .. => kExec
  | .vfuse .. => kExec
  | .mpopv .. => kExec
  | .mand .. => kExec
  | .mor .. => kExec
  | .mxor .. => kExec
  | .mnot .. => kExec
  | .mset .. => kExec
  | .mclr .. => kExec
  | .mfromfm .. => kExec
  | .mcnt .. => kSync
  | .many .. => kSync
  | .mfirst .. => kSync
  | .vslideup .. => kExec
  | .vslidedn .. => kExec
  | .vshuf .. => kExec
  | .vrev .. => kExec
  | .vcompress .. => kExecNow
  | .vexpand .. => kExec
  | .vscan .. => kExec
  | .vscanMin .. => kExec
  | .vscanMax .. => kExec
  | .vredsum .. => kExec
  | .vredsumF .. => kExec
  | .vredmax .. => kExec
  | .vredmin .. => kExec
  | .vredsumQ .. => kExec
  | .vredsumFQ .. => kExec
  | .vredmaxQ .. => kExec
  | .vredminQ .. => kExec
  | .vfold .. => kExec
  | .vfoldFin .. => kExec
  | .vfoldClr .. => kExec
  | .vfoldFinQ .. => kExec
  | .vconflict .. => kExec
  | .fld .. => kExec
  | .fst .. => kExec
  | .fldlv .. => kExec
  | .fscat .. => kExec
  | .fintA .. => kExec
  | .fintB .. => kExec
  | .fintAdd .. => kExec
  | .fintMul .. => kExec
  | .fintMin .. => kExec
  | .fintMax .. => kExec
  | .funiA .. => kExec
  | .funiB .. => kExec
  | .funiAdd .. => kExec
  | .funiMul .. => kExec
  | .funiMin .. => kExec
  | .funiMax .. => kExec
  | .fmrg .. => kExec
  | .fsort .. => kExec
  | .fsortA .. => kExec
  | .fsortB .. => kExec
  | .fsortAdd .. => kExec
  | .fsortMul .. => kExec
  | .fsortMin .. => kExec
  | .fsortMax .. => kExec
  | .fcpt .. => kExec
  | .fcptZ .. => kExec
  | .fexp .. => kExec
  | .ffromv .. => kExec
  | .fcrd .. => kExec
  | .fval .. => kExec
  | .fcnt .. => kExec
  | .mmaT .. => kExec
  | .mmaM .. => kExec
  | .mmaxT .. => kExec
  | .mmaxM .. => kExec
  | .mmasT .. => kExec
  | .mmasM .. => kExec
  | .tshape .. => kAccess
  | .accz .. => kExec
  | .accld .. => kExec
  | .accst .. => kExec
  | .accrd .. => kExec
  | .accwr .. => kExec
  | .acccvt .. => kExec
  | .accred .. => kExec
  | .accrdD .. => kExec
  | .accwrD .. => kExec
  | .tluf .. => kExec
  | .tchol .. => kExec
  | .ttrsL .. => kExec
  | .ttrsU .. => kExec
  | .ttrsL1 .. => kExec
  | .ttrsU1 .. => kExec
  | .ttrsLp .. => kExec
  | .ttrsL1p .. => kExec
  | .tres .. => kExec
  | .titer .. => kExec
  | .ctas .. => kSync
  | .cclr .. => kSync
  | .crd .. => kAccess
  | .cwr .. => kAccess
  | .bar .. => kSync
  | .fenceAv .. => kCommon
  | .fenceVa .. => kCommonSync
  | .fenceVv .. => kCommon
  | .fenceAll .. => kCommonSync
  | .xfence p c _ => if p.val == 7 || c.val == 7 then kSync else kAccess
  | .siginc .. => kCommon
  | .sigincR .. => kCommonSync
  | .sigwait .. => kCommonSync
  | .timerd .. => kCommon
  | .waitt .. => kCommon
  | .bnkopAdd .. => kCommon
  | .bnkopMin .. => kCommon
  | .bnkopMax .. => kCommon
  | .bnkopMinn .. => kCommon
  | .bnkopMaxn .. => kCommon
  | .bnkopAnd .. => kCommon
  | .bnkopOr .. => kCommon
  | .bnkopXor .. => kCommon
  | .bnkopSwap .. => kCommon
  | .bnkopCas .. => kCommon
  | .bnkopFadd32 .. => kCommon
  | .bnkopFadd64 .. => kCommon
  | .bnkrdF32 .. => kCommon
  | .bnkrdBf16 .. => kCommon
  | .bnkrdF64 .. => kCommon
  | .bnkrdF32Z .. => kCommon
  | .bnkrdBf16Z .. => kCommon
  | .bnkrdF64Z .. => kCommon
  | .gstr .. => kAccess
  | .gstop .. => kAccess
  | .copy .. => kAccess
  | .copyMt .. => kAccess
  | .copyTm .. => kAccess
  | .copyTt .. => kAccess
  | .cplw .. => kAccess
  | .oncpl .. => kHandler
  | .upret .. => kHandler
  | .resid .. => kCommon
  | .demote .. => kCommon
  | .discard .. => kCommon
  | .pghint .. => kCommon
  | .gath .. => kSync
  | .rstv .. => kExec
  | .rstvMc .. => kExec
  | .rstvAdd .. => kExec
  | .bnkexa .. => kExec
  | .ccfg .. => kAccess
  | .cap .. => kAccess
  | .capP .. => kAccess
  | .cslot .. => kAccess
  | .cslotFree .. => kAccess
  | .ctake .. => kAccess
  | .cstat .. => kAccess
  | .cdep .. => kExec
  | .fadd .. => kScalar
  | .fsub .. => kScalar
  | .fmul .. => kScalar
  | .ffma .. => kScalar
  | .fdiv .. => kScalar
  | .fsqrt .. => kScalar
  | .fcmp .. => kScalar
  | .fcvt .. => kScalar
  | .mfs _ n => if resyncReg n then kSystem else kSystemNow
  | .mts _ n => if resyncReg n then kSystem else kSystemNow
  | .tret .. => kSystemNow
  | .launch .. => kSystem
  | .launchAbort .. => kSystem
  | .preempt .. => kSystemNow
  | .ctxsave .. => kSystemNow
  | .ctxload .. => kSystemNow
  | .frestore .. => kSystemNow
  | .xlinv .. => kSystem
  | .idle .. => kSystemNow
  | .setpri .. => kSystemNow
  | .lgretire .. => kSystem
  | .sblk .. => kExecNow
  | .ccInterruptEntry .. => kEvent
  | .trapNoticeDeliver .. => kEvent
  | .nqptrConsWrite .. => kEvent
  | .nqctlWrite .. => kEvent
  | .pageWalk .. => kEvent
  | .mscFill .. => kEvent
  | .refreshWindowEnd .. => kEvent
  | .demoteApply .. => kEvent
  | .demoteScrubEnd .. => kEvent
  | .scfgCarveWrite .. => kEvent
  | .carveChange .. => kEvent
  | .hrctlWrite .. => kEvent
  | .fumaroleForwardReceive .. => kEvent
  | .fumaroleReturnReceive .. => kEvent
  | .geyserEntryDeliver .. => kEvent
  | .pathOperationComplete .. => kEvent
  | .upcallEntry .. => kEvent
  | .queueWake .. => kEvent
  | .queueDeadlock .. => kEvent
  | .semaphoreGrant .. => kEvent
  | .sigwaitWake .. => kEvent
  | .barrierEpisodeComplete .. => kEvent
  | .waittWake .. => kEvent
  | .cplwWake .. => kEvent
  | .idleWake .. => kEvent
  | .rstvOutcome .. => kEvent
  | .remoteStorePacket .. => kEvent
  | .remoteAddPacket .. => kEvent
  | .signalPacket .. => kEvent
  | .tokenRowPacket .. => kEvent
  | .ackPacket .. => kEvent
  | .remoteReadPacket .. => kEvent
  | .readDataPacket .. => kEvent
  | .remoteBankRequest .. => kEvent
  | .remoteBankReply .. => kEvent
  | .rdWriteFaultReport .. => kEvent
  | .rdSplitReceive .. => kEvent
  | .rdInvReceive .. => kEvent
  | .rdAckReceive .. => kEvent
  | .rdReleasedRetired .. => kEvent
  | .rdFormerHolderFault .. => kEvent
  | .calderaDeposit .. => kEvent
  | .calderaTimeoutRelease .. => kEvent
  | .calderaTimeoutTrap .. => kEvent
  | .launchEnterDispatch .. => kEvent
  | .dispatchPlace .. => kEvent
  | .dispatchPreempt .. => kEvent
  | .quantumExpiry .. => kEvent
  | .launchRetire .. => kEvent
  | .uncorrectableError .. => kEvent
  | .errorRetryResult .. => kEvent
  | .linkCrcResend .. => kEvent
  | .linkRetrain .. => kEvent
  | .tuffStreamSend .. => kEvent
  | .tuffctlFrzSet .. => kEvent
  | .tuffctlFrzClear .. => kEvent
  | .tuffctlStreamWrite .. => kEvent
  | .tuffputCommit .. => kEvent
  | .mextExtend .. => kEvent
  | .attestRequest .. => kEvent
  | .moduleReset .. => kEvent
  | .tftpImageReceive .. => kEvent
  | .rstctlWarmWrite .. => kEvent
  | .warmReset .. => kEvent
  | .timectlGmWrite .. => kEvent
  | .timectlRelWrite .. => kEvent
  | .gmReleaseTimeout .. => kEvent
  | .timeEventMessage .. => kEvent
  | .timeLockChange .. => kEvent
  | .pwrctlReqWrite .. => kEvent
  | .powerModeChangeEnd .. => kEvent
  | .thermalThrottle .. => kEvent
  | .thermalUnthrottle .. => kEvent
  | .thermalPowerOff .. => kEvent
  | .pcieInboundDma .. => kEvent
  | .registerWrite .. => kEvent
  | .powerLoss .. => kEvent
  | .managementPortLinkChange .. => kEvent
  | .managementPortReceive .. => kEvent
  | .bankResultReturn .. => kEvent

end Sys2Proof.Machine
end

