-- ==== Sys2Proof/Machine/Forward.lean ====
section
/-! DEFINITION. What the access side does when it hands an instruction over to the execute side (07 R162, R164): its number on
a path (05 R130, R131, 13 R338), its place in a queue, and the length step of FEXP (11 R294). -/

namespace Sys2Proof.Machine

/-- Path codes (R130). -/
def pGey : Fin 6 := 0
def pFum : Fin 6 := 1
def pCpy : Fin 6 := 2
def pRem : Fin 6 := 3
def pMof : Fin 6 := 4
def pBnk : Fin 6 := 5

/-- Operations issued on a path that DONE has not passed (R131). -/
def Strand.outstanding (t : Strand) (p : Fin 6) : Nat := (t.ops.filter fun o => o.path == p).length

/-- Issuing an operation: it takes the next number (R131). -/
def Strand.issue (t : Strand) (p : Fin 6) (w : OpWork) : Strand :=
  { t with
    cpl := t.cpl.set p.val (t.cpl[p].1 + 1, t.cpl[p].2)
    ops := t.ops ++ [{ path := p, n := t.cpl[p].1 + 1, work := w, complete := false, err := none }] }

/-- Whether a stream delivers into q4 or q5 (R344). -/
def PathOp.streamsInto (o : PathOp) (q : Fin 2) : Bool :=
  !o.complete &&
    match o.work with
    | .affine _ dest .. => bitOf dest 63 && fieldOf dest 2 0 == q.val + 4
    | _ => false

/-- The active stream of q4 or q5. -/
def Strand.activeStream (t : Strand) (q : Fin 2) : Bool := t.ops.any fun o => o.streamsInto q

/-- The path on which a forwarded instruction is numbered (R338). -/
def numberedPath (i : Instr) : Option (Fin 6) :=
  match i with
  | .mmaT .. => some pMof
  | .mmaM .. => some pMof
  | .mmaxT .. => some pMof
  | .mmaxM .. => some pMof
  | .mmasT .. => some pMof
  | .mmasM .. => some pMof
  | .rstv .. => some pRem
  | .rstvMc .. => some pRem
  | .rstvAdd .. => some pRem
  | .bnkexa .. => some pBnk
  | .cdep .. => some pBnk
  | _ => none

/-- The queue in which a forwarded instruction takes its place (R164). -/
def placedQueue (i : Instr) : Option (Fin 2) :=
  match i with
  | .vldq q _ _ => some q
  | _ => none

/-- Lane groups of the partition of a context (R167). -/
def State.groupsOf (s : State) (c : Ctx) : Nat := (partitionOf (s.core (coreNum c)).lgmap c.val).length

/-- VLMAX in elements (R242). -/
def vlmaxOf (groups et grp : Nat) : Nat :=
  match packedOf et with
  | some p => 32 * (grp * groups * 256 / p.blockBytes)
  | none => match elemTyOf et with
    | some t => grp * groups * 2048 / t.width
    | none => 0

/-- The length step of FEXP, on the access side (R294). -/
def Strand.lengthStep (t : Strand) (groups : Nat) (req : Word) : Strand :=
  let m := Nat.min req.toNat (vlmaxOf groups (fieldOf t.vtype 4 0) (2 ^ fieldOf t.vtype 13 12))
  { t with vl := BitVec.ofNat 64 (Nat.min req.toNat 0xFFFFFFFF * 2 ^ 32 + m), vpad := 0 }

/-- What the access side does for an instruction that it forwards, before it hands over the values (R162, R164, R294, R338). -/
def Strand.onForward (t : Strand) (groups : Nat) (numbered : Bool) (i : Instr) : Strand × Option (BitVec 32) :=
  let t := match i with
    | .fexp _ _ r0 => t.lengthStep groups t.hart.g[(r0.val + 1) % 32]!
    | _ => t
  let t := match placedQueue i with
    | some q => { t with qv := t.qv.set q.val (t.qv[q] ++ [{ count := 0, width := 8, bits := 0, awaits := some .load }]) }
    | none => t
  match numberedPath i with
  | some p => if numbered then (t.issue p .forwarded, some (t.cpl[p].1 + 1)) else (t, none)
  | none => (t, none)

/-- What the access side waits for before it can hand an instruction over: room on its path, or in the queue that it fills. -/
def Strand.forwardWait (t : Strand) (i : Instr) : Option Sleep :=
  match numberedPath i, placedQueue i with
  | some p, _ => if t.outstanding p < Config.maxOutstanding then none else some (.issueLimit p)
  | none, some q =>
    if t.activeStream q then some (.stream (Fin.ofNat 8 (q.val + 4)))
    else if 4 ≤ t.qv[q].length then some (.queueFull (Fin.ofNat 8 (q.val + 4)))
    else none
  | none, none => none

/-- Whether the access side may forward an instruction as far as its path and its queue are concerned. -/
def Strand.mayForward (t : Strand) (i : Instr) : Bool := (t.forwardWait i).isNone

end Sys2Proof.Machine
end

