-- ==== Sys2Proof/Machine/Ops.lean ====
section
/-! DEFINITION. The shared operations of every meaning: system-space registers, scalar accesses, the program counter with the
hardware loops (R222, R223), taking a trap and returning from one (16 R387-R398, 18 R424), and running one instruction. -/

namespace Sys2Proof.Machine

/-- Zeroing the resident bytes that a larger carve-out adds, or that a smaller one loses (R74). -/
def zeroResident (stack : Nat) (lo hi : Nat) : M Unit := modify fun s =>
  let b := cellOf s.moduleNum.val (0x018100000000 + stack * 0x10000000)
  { s with mem := s.mem.filter fun e => !(decide (b + lo * 0x4000000 ≤ e.1) && decide (e.1 < b + hi * 0x4000000)) }

/-- Whether no launch is resident on this module (R22, R376). -/
def State.noneResident (s : State) : Bool := s.hub.launches.all fun l => !l.here

/-- Carrying out a requested change of a stack's carve-out (R74). -/
def carveChange (stack : Nat) : M Unit := do
  let k := (← get).stack stack
  let c := fieldOf k.scfg 2 0
  zeroResident stack (Nat.min k.act c) (Nat.max k.act c)
  let (k', ev) := k.carve
  modify fun s => s.setStack stack k'
  hotRowEvents stack ev

/-- A write of SCFG.CARVE: recorded, and carried out at once if no launch is resident (R74). -/
def scfgWrite (stack carve : Nat) : M Unit := do
  if 4 < carve then pure ()
  else
    modStack stack fun k => { k with scfg := setBit (setField k.scfg 2 0 carve) 11 true }
    if (← get).noneResident then carveChange stack else pure ()

/-- Writing a base-die register (R75). -/
def baseWrite (stack off : Nat) (v : Word) : M Unit :=
  if off = 0x000 then scfgWrite stack (fieldOf v 2 0)
  else if off = 0x008 then modStack stack fun k => { k with hrctl := hrctlStored v }
  else pure ()

/-- Whether a system-space offset lies in a window of a PCI Express root port (R428). -/
def inPcie (off : Nat) : Bool :=
  (decide (0x1000000000 ≤ off) && decide (off < 0x1000000000 + 2 * 0x10000000)) ||
    (decide (0x2000000000 ≤ off) && decide (off < 0x2000000000 + 2 * 0x1000000000))

/-- The fill of an attestation request (R438): M, the count of extensions in 64 bytes, and the signature. -/
def attestFill (h : Hub) (nonce : List Byte) : List Byte :=
  let m := bytesOf 64 h.meas.toNat
  let c := bytesOf 64 h.measCount
  m ++ c ++ bytesOf 512 (Config.identitySign (nonce ++ m ++ c)).toNat

/-- A write of ATTEST: the hub reads the nonce and fills the request through the writer's tables; an address that is not
aligned or not writable is left alone (R438, log 14). -/
def attestRequest (va : Word) : M Unit := do
  modHub fun h => { h with attest := va }
  if va.toNat % 64 ≠ 0 then pure ()
  else
    match ← tryTranslate .rw va, ← tryTranslate .rw (va + 703) with
    | .ok p, .ok q =>
      let at' := fun (a : Nat) => if a < p.vbase + p.size then p else q
      let nonce ← (List.range 64).mapM fun i => do
        return BitVec.ofNat 8 (← readPage p (va.toNat + i) 1 .bypass false .access)
      (attestFill (← hub) nonce).zipIdx.forM fun (b, i) =>
        writePage (at' (va.toNat + 64 + i)) (va.toNat + 64 + i) 1 b.toNat .access
    | _, _ => pure ()

/-- Reading system space (R75, R426, R428): registers take aligned 8-byte accesses only. -/
def sysRead (off n : Nat) (va : Word) : M Nat := do
  if inPcie off then
    let k ← freshNum
    return ofBytes ((List.range n).map fun i => Config.pcieRead (k * 16 + i))
  else
    let s ← get
    if off < 0x50000 then
      require (n == 8) cMisaligned va
      return (hubRead s off).toNat
    else if 0x10000000 ≤ off ∧ off < 0x10100000 then
      require (n == 8) cMisaligned va
      return (baseRead s ((off - 0x10000000) / 0x10000) (off % 0x10000)).toNat
    else return 0

/-- Whether only the supervisor changes a register: the module modes, which are PWRCTL's power mode and SCFG's carve-out (R22), and
RSTCTL, by which no device strand starts a reset (R435).  A device strand whose handle carries the system bit reaches system space
(R33), and its write of one is ignored (log 77). -/
def supervisorOnly (off : Nat) : Bool :=
  off == 0x0000 || off == 0x0050 || (decide (0x10000000 ≤ off) && decide (off < 0x10100000) && off % 0x10000 == 0)

/-- Writing system space (R75, R426, R428); `sup` says whether the control complex writes. -/
def sysWrite (sup : Bool) (off n v : Nat) (va : Word) : M Unit := do
  if inPcie off then pure ()
  else if supervisorOnly off && !sup then require (n == 8) cMisaligned va
  else if off < 0x50000 then
    require (n == 8) cMisaligned va
    if off = 0x0048 then attestRequest (BitVec.ofNat 64 v) else hubWrite off (BitVec.ofNat 64 v)
  else if 0x10000000 ≤ off ∧ off < 0x10100000 then
    require (n == 8) cMisaligned va
    baseWrite ((off - 0x10000000) / 0x10000) (off % 0x10000) (BitVec.ofNat 64 v)
  else pure ()

/-- Whether a page is this module's system space. -/
def ownSystem (s : State) (p : PageTr) : Bool := p.isSystem && leafMod p.leaf == s.moduleNum.val

/-- Offset of a byte of a system page in system space. -/
def PageTr.sysOff (p : PageTr) (va : Nat) : Nat := p.localAddr va - 0x01C000000000

/-- Reading n bytes of any page. -/
def readAny (p : PageTr) (va n : Nat) (use : L1Use) (stream : Bool) (who : Consumer) : M Nat := do
  if ownSystem (← get) p then sysRead (p.sysOff va) n (BitVec.ofNat 64 va) else readPage p va n use stream who

/-- Writing n bytes of any page. -/
def writeAny (p : PageTr) (va n v : Nat) (who : Consumer) : M Unit := do
  let s ← get
  if ownSystem s p then sysWrite (s.turn matches .cc _) (p.sysOff va) n v (BitVec.ofNat 64 va) else writePage p va n v who

/-- The misalignment trap of an access to a bank page or to system space (R209); it comes before translation (R189). -/
def checkScalarAlign (va : Word) (n : Nat) : M Unit := do
  let h ← hart
  let s ← get
  require (va.toNat % n == 0 || !s.aligns s.turn h.ptbase va n) cMisaligned va

/-- Reading the parts of an access, low bytes first. -/
def readParts (ps : List (PageTr × Nat × Nat)) (va : Nat) (use : L1Use) (stream : Bool) (fu : FrameUse) (who : Consumer) :
    M Nat := do
  meetError who
  ps.foldlM (fun acc p => do
    touchFrame p.1 p.2.1 p.2.2 fu
    return acc + (← readAny p.1 p.2.1 p.2.2 use stream who) * 256 ^ (p.2.1 - va)) 0

/-- Writing the parts of an access. -/
def writeParts (ps : List (PageTr × Nat × Nat)) (va v : Nat) (fu : FrameUse) (who : Consumer) : M Unit := do
  meetError who
  ps.forM fun p => do
    touchFrame p.1 p.2.1 p.2.2 fu
    writeAny p.1 p.2.1 p.2.2 (v / 256 ^ (p.2.1 - va) % 256 ^ p.2.2) who

/-- The cells of the parts of an access, byte by byte. -/
def partCells (ps : List (PageTr × Nat × Nat)) : List Nat := ps.flatMap fun p => (List.range p.2.2).map fun i => p.1.cell (p.2.1 + i)

/-- The byte that a store leaves in a cell, if it writes it. -/
def PendingStore.byteAt (x : PendingStore) (cell : Nat) : Option Byte :=
  ((partCells x.parts).zip (bytesOf x.len x.value)).lookup cell

/-- What a load of the parts of an access returns: the bytes of the strand's own stores that have not been performed stand for those
of memory (R138). -/
def Strand.overlay (t : Strand) (ps : List (PageTr × Nat × Nat)) (v : Nat) : Nat :=
  if t.stores.isEmpty then v
  else ofBytes ((partCells ps).zipIdx.map fun (c, i) =>
    ((t.stores.filter fun x => !x.exs).reverse.findSome? fun x => x.byteAt c).getD (BitVec.ofNat 8 (v / 256 ^ i)))

/-- Stores of the executing agent that have been issued and not performed answer its loads (R138). -/
def overlayStores (ps : List (PageTr × Nat × Nat)) (v : Nat) : M Nat := do
  match (← get).turn with
  | .strand c => return (← strandAt c.val).overlay ps v
  | .cc _ => return v

/-- Whether a store may be performed later: the agenda asks for it, and it goes to whole units of this module's memory (R138). -/
def State.mayDelay (s : State) (ps : List (PageTr × Nat × Nat)) : Bool :=
  (match s.turn with
    | .strand c => (s.strand? c.val).any (·.delay)
    | .cc _ => false) &&
  ps.all fun p => !p.1.isSystem && !p.1.converts && leafMod p.1.leaf == s.moduleNum.val &&
    (cutsAt 256 p.2.1 p.2.2).all fun c => (s.lostAt (p.1.cell c.2.1) c.2.2).isEmpty

/-- A scalar load of n bytes (R208-R210). -/
def loadScalar (va : Word) (n : Nat) : M Nat := do
  checkScalarAlign va n
  let ps ← translateRange .load va n
  overlayStores ps (← readParts ps va.toNat (.fills .main true) false .ordinary .access)

/-- A scalar store of n bytes (R208-R210), performed at once or, as the agenda asks, later (R138). -/
def storeScalar (va : Word) (n v : Nat) : M Unit := do
  checkScalarAlign va n
  let ps ← translateRange .store va n
  if (← get).mayDelay ps then
    modStrand fun t => { t with stores := t.stores ++ [{ parts := ps, va := va.toNat, len := n, value := v, exs := false }] }
  else writeParts ps va.toNat v .ordinary .access

/-- Reading n bytes at a virtual address as ACS accesses, over any number of pages (R232). -/
def loadBytes (va : Word) (n : Nat) : M Nat :=
  (cutsAt 0x10000 va.toNat n).foldlM (fun acc c => do
    let ps ← translateRange .load (BitVec.ofNat 64 c.2.1) c.2.2
    return acc + (← readParts ps c.2.1 .bypass false .ordinary .access) * 256 ^ c.1) 0

/-- Writing n bytes at a virtual address as ACS accesses; every page is translated before any byte moves. -/
def storeBytes (va : Word) (n v : Nat) : M Unit := do
  let cuts ← (cutsAt 0x10000 va.toNat n).mapM fun c => do
    return (c, ← translateRange .store (BitVec.ofNat 64 c.2.1) c.2.2)
  cuts.forM fun (c, ps) => writeParts ps c.2.1 (v / 256 ^ c.1 % 256 ^ c.2.2) .ordinary .access

/-- One more overlap of atomics of the two sides (R53). -/
def State.bumpMix (s : State) (mixed : Bool) : State := if mixed then { s with hub := { s.hub with swamix := s.hub.swamix + 1 } } else s

/-- Whether a control complex core holds a linked access open in its own cache on the line of a cell (R52). -/
def State.ccOpen (s : State) (cell : Nat) : Bool :=
  s.ccs.any fun e => e.2.resvOwn.isSome && e.2.hart.resv.any fun a => lineOf a == lineOf cell

/-- Whether a strand holds a linked access open on the line of a cell. -/
def State.strandOpen (s : State) (cell : Nat) : Bool :=
  s.strands.any fun e => (e.2.hart.resv.any fun a => lineOf a == lineOf cell) || e.2.vresv.any fun r => lineOf r.2 == lineOf cell

/-- SWAMIX: an atomic of the device side at a cell, while the control complex holds a linked access open in its own cache on the
line (R52, R53, log 15). -/
def countDevice (cell : Nat) : M Unit := modify fun s => s.bumpMix (s.ccOpen cell)

/-- SWAMIX: an atomic of either side on a page, while the other side holds a linked access open on the line (R52, R53, log 15). -/
def countMix (p : PageTr) (cell : Nat) : M Unit := modify fun s =>
  match s.turn with
  | .strand _ => s.bumpMix (s.ccOpen cell)
  | .cc _ => s.bumpMix (!leafSWA p.leaf && s.strandOpen cell)

/-- The reservations that strands held before a write. -/
def State.keepStrandResv (s before : State) : State :=
  { s with strands := s.strands.map fun e => match before.strand? e.1 with
      | some t => (e.1, { e.2 with hart := { e.2.hart with resv := t.hart.resv }, vresv := t.vresv })
      | none => e }

/-- An atomic update of 8 bytes.  The control complex makes its own on a page with SWA = 0 in its cache: there the memory-side cache
may not see it, so that a strand's linked access that stands open may go on and lose the update; whether it does is free (R52, log 15). -/
def atomicUpdate (p : PageTr) (cell : Nat) (m : M Unit) : M Unit := do
  let before ← get
  m
  match before.turn with
  | .strand _ => pure ()
  | .cc _ =>
    modify fun s => s.clearOwn cell 8
    if leafSWA p.leaf then pure ()
    else
      let k ← freshNum
      if Config.mixLoses k then modify fun s => s.keepStrandResv before else pure ()

/-- The loop bookkeeping after an instruction that continues at `next` (R222). -/
def Hart.loopStep (h : Hart) (next : Word) : Hart :=
  if !h.lact || h.upc then { h with pc := next }
  else if next = h.lend then
    if 1 < h.lrem.toNat then { h with lrem := h.lrem - 1, pc := h.lbeg } else { h with lact := false, pc := next }
  else if next.toNat < h.lbeg.toNat ∨ h.lend.toNat < next.toNat then { h with lact := false, pc := next }
  else { h with pc := next }

/-- Whether a strand stands inside a VREP replay at an address: main code, in the body (R406). -/
def Strand.inReplay (t : Strand) (pc : Word) : Bool :=
  t.ract && !t.hart.upc && decide (t.rbeg.toNat ≤ pc.toNat) && decide (pc.toNat < t.rend.toNat)

/-- The replay bookkeeping of a strand (R176, R223), then its loop. -/
def Strand.continueAt (t : Strand) (next : Word) : Strand :=
  if t.ract && !t.hart.upc && next == t.rend then
    if 1 < t.rrem.toNat then { t with rrem := t.rrem - 1, hart := t.hart.loopStep t.rbeg }
    else { t with ract := false, rrem := 0, rbody := [], hart := t.hart.loopStep next }
  else { t with hart := t.hart.loopStep next }

/-- Continuing at an address; the execute side has no program counter of its own. -/
def goto (next : Word) : M Unit := do
  match (← get).turn with
  | .strand _ => modStrand fun t => if t.fromQueue.isSome then t else t.continueAt next
  | .cc _ => modHart fun h => h.loopStep next

/-- Continuing at the next word. -/
def advance : M Unit := do goto ((← pcR) + 4)

/-- The values that the access side hands over with an instruction (R162). -/
def Strand.capture (t : Strand) : Captured :=
  { g := t.hart.g, vl := t.vl, vpad := t.vpad, vtype := t.vtype, mfmt := t.mfmt, srseed := t.srseed, tm := t.tm, tn := t.tn,
    tk := t.tk, pivfloor := t.pivfloor }

/-- The strand with captured values in its registers. -/
def Strand.withCaptured (t : Strand) (c : Captured) : Strand :=
  { t with
    hart := { t.hart with g := c.g }
    vl := c.vl, vpad := c.vpad, vtype := c.vtype, mfmt := c.mfmt, srseed := c.srseed, tm := c.tm, tn := c.tn, tk := c.tk, pivfloor := c.pivfloor }

/-- Leaving an instruction that was performed from the queue. -/
def Strand.endForwarded (t : Strand) : Strand :=
  match t.saved with
  | some c => { t.withCaptured c with fromQueue := none, saved := none }
  | none => { t with fromQueue := none }

/-- Whether an instruction belongs to the execute side. -/
def isExecute (i : Instr) : Bool :=
  match (klass i).side with
  | .execute => true
  | .executeNow => true
  | _ => false

/-- Whether a trap of an instruction is held in a fault frame (R392, R393, R407). -/
def isHeld (i : Instr) (t : TrapReq) : Bool :=
  isExecute i && t.blk.isNone && !(i matches .sblk ..) &&
    (t.held || !(t.cause == cIllegal || t.cause == cReserved || t.cause == cPrivilege || t.cause == cSpeculative ||
      t.cause == cArithmetic))

/-- TCAUSE (R387). -/
def tcauseOf (t : TrapReq) (held upc rpl inBlock lost : Bool) : Word :=
  BitVec.ofNat 64 (t.cause + (if held then 2 ^ 9 else 0) + t.acc * 2 ^ 10 + (if upc then 2 ^ 12 else 0) +
    (if rpl then 2 ^ 13 else 0) + (if inBlock then 2 ^ 14 else 0) + (if lost || t.lost then 2 ^ 15 else 0))

/-- The trap notice of a strand (R390). -/
def Strand.notice (t : Strand) (c : Ctx) (saved : Bool) : Notice :=
  { w0 := BitVec.ofNat 64 (c.val + (if saved then 2 ^ 15 else 0) + t.launchMod.val * 2 ^ 16 + t.launchNum.toNat * 2 ^ 32)
    cause := t.hart.tcause, tpc := t.hart.tpc, tval := t.hart.tval }

/-- Where a strand's fault frame goes (R398). -/
def Strand.frameVa (t : Strand) : Word := t.saveArea + 0x200000

/-- The header of a fault frame (R398). -/
def frameHeader (groups psize : Nat) (lost : Bool) (a : Word) (c : Nat) : Nat :=
  0x0B04 + groups * 2 ^ 16 + psize * 2 ^ 20 + (if lost then 2 ^ 24 else 0) + Config.frameLength.toNat * 2 ^ 64 +
    a.toNat * 2 ^ 128 + c * 2 ^ 192

/-- The bytes of a fault frame: its header, and the content that the implementation fixes (R398). -/
def frameBytes (head serial : Nat) : Nat :=
  head + ofBytes ((List.range (Config.frameLength.toNat - 32)).map fun i => Config.frameByte (serial * 2 ^ 21 + i)) * 256 ^ 32

/-- Writing a fault frame through the tables of the strand whose turn it is: the bytes of the frame, each page translated before
any byte moves (R397, R398). -/
def writeFrame (c : Nat) (key : FrameKey) (va a : Word) (lost : Bool) : M Unit := do
  let lg := ((← get).core (c / 8)).lgmap
  let v := frameBytes (frameHeader (partitionOf lg c).length (fieldOf lg 41 40) lost a c) key.serial
  let cuts ← (cutsAt 0x10000 va.toNat (Nat.max 32 Config.frameLength.toNat)).mapM fun x => do
    return (x, ← translate .store (BitVec.ofNat 64 x.2.1))
  cuts.forM fun (x, p) => writePage p x.2.1 x.2.2 (v / 256 ^ x.1 % 256 ^ x.2.2) .access
  match cuts with
  | (_, p) :: _ => modify fun s => { s with frames := mapSet s.frames (p.cell va.toNat) key }
  | [] => pure ()

/-- Data of remote reads that an agent has waited for, or still waits for, are of no more use to it (R43). -/
def Hub.forget (h : Hub) (a : Agent) : Hub := { h with fabric := h.fabric.filter fun r => r.who != a }

/-- Recording a trap of the strand in a context: it stops, its trap registers are written, its reservations cleared, and the
die holds the notice (R390).  A block point that stands is kept (R407). -/
def recordTrap (c : Ctx) (t : TrapReq) (tpc : Word) (held lost rpl : Bool) (tframe : Word) : M Unit := do
  let st ← strandAt c.val
  let inBlock := t.blk.isSome || (st.blkpt.isSome && !st.hart.upc && !held)
  let h := { st.hart with
    tcause := tcauseOf t held st.hart.upc rpl inBlock lost, tpc := tpc, tval := t.tval, tframe := tframe, resv := none,
    pc := if held then st.hart.pc else tpc }
  let st := { st with hart := h, vresv := [], cond := .stopped, stop := none, delay := false, dataErr := none, blkpt := t.blk.orElse fun _ => st.blkpt }
  modify fun s => s.setStrand c.val st
  modDie (dieNum c) fun d => { d with notices := d.notices ++ [st.notice c false] }
  modHub fun h => h.forget (.strand c)

/-- The result of a part that a trap in it only shortens: the state it reached, and whether it ended. -/
def attempt (m : M Unit) (s : State) : State × Bool :=
  match m.run s with
  | .ok _ s' => (s', true)
  | .error _ s' => (s', false)

/-- VL and VPAD before the length step of an FEXP (R294). -/
def lengthBefore (t : Strand) (i : Instr) : Option (Word × Word) :=
  match i with
  | .fexp .. => some (t.vl, t.vpad)
  | _ => none

/-- A trap of an FEXP leaves VL as it was, unless the access side has gone on behind it (R298, log 83). -/
def Forwarded.unlengthen (f : Forwarded) (t : Strand) : Forwarded × Strand :=
  match f.before with
  | some (vl, vpad) =>
    if t.iq.isEmpty ∧ t.hart.pc = f.pc + 4 ∧ t.capture = f.cap then (f, { t with vl := vl, vpad := vpad })
    else ({ f with before := none }, t)
  | none => (f, t)

/-- The length step of a held FEXP, taken again where its trap undid it (R294, R298). -/
def Forwarded.relengthen (f : Forwarded) (t : Strand) : Strand :=
  if f.before.isSome then { t with vl := f.cap.vl, vpad := f.cap.vpad } else t

/-- Stopping a strand whose execute side is held in a fault frame at an instruction: the frame keeps it and everything forwarded
after it, and the access side stands at `a` (R392, R398). -/
def State.holdIn (s : State) (c : Ctx) (t : TrapReq) (head : Forwarded) (st : Strand) (a : Word) : State :=
  let (head, st) := head.unlengthen st
  let st := { st with frame := some { head := head, rest := st.iq, cm := t.cm, serial := s.fresh }, iq := [] }
  let key : FrameKey := { launch := (st.launchMod, st.launchNum), rank := st.rank, serial := s.fresh }
  let (s1, ok) := attempt (writeFrame c.val key st.frameVa a t.lost)
    { (s.setStrand c.val st) with turn := .strand c, fresh := s.fresh + 1 }
  let s2 := (attempt (recordTrap c t (t.tpc.getD head.pc) true (!ok) head.rpl (if ok then st.frameVa else 0)) s1).1
  { s2 with turn := s.turn }

/-- Whether two stores of a strand that have not been performed keep their order: scalar stores do, and those of the execute side
that touch a common byte (R138, R139). -/
def PendingStore.ordered (x y : PendingStore) : Bool :=
  x.exs == y.exs && (!x.exs || (partCells x.parts).any fun c => (partCells y.parts).contains c)

/-- Performing one of the stores that a strand has issued and not performed, unless an older one goes first (R138, R139). -/
def State.storeAt (s : State) (c : Ctx) (k : Nat) : State :=
  match s.strand? c.val with
  | some t =>
    match t.stores[k]? with
    | some x =>
      if (t.stores.take k).any x.ordered then s
      else
        { (attempt (writeParts x.parts x.va x.value .ordinary .access)
            { s.setStrand c.val { t with stores := t.stores.eraseIdx k } with turn := .strand c }).1 with turn := s.turn }
    | none => s
  | none => s

/-- Performing up to n of them, the oldest first. -/
def State.storeSome (s : State) (c : Ctx) : Nat → State
  | 0 => s
  | n + 1 => (s.storeAt c 0).storeSome c n

/-- Performing all of them, in program order (R138). -/
def State.storeAll (s : State) (c : Ctx) : State := s.storeSome c ((s.strand? c.val).elim 0 fun t => t.stores.length)

/-- TAKING A TRAP on a device strand at an instruction: held in a frame, or precise (R390-R392, R398).  What comes before it has been
performed. -/
def takeStrandTrap (c : Ctx) (i : Instr) (t : TrapReq) (s : State) : State :=
  let s := s.storeAll c
  match s.strand? c.val with
  | none => s
  | some st =>
    let pc := match st.fromQueue with
      | some f => f.pc
      | none => st.hart.pc
    let tpc := t.tpc.getD pc
    if isHeld i t then
      match if st.fromQueue.isSome then none else st.forwardWait i with
      | some r => s.setStrand c.val { st with cond := .asleep r }
      | none =>
      -- the access side stands at A; the frame keeps the instruction and everything forwarded after it
      let (st, n) := match st.fromQueue with
        | some f => (st, f.op)
        | none => st.onForward (s.groupsOf c) (!t.page) i
      let rpl := match st.fromQueue with
        | some f => f.rpl
        | none => st.inReplay pc
      let before := match st.fromQueue with
        | some f => f.before
        | none => lengthBefore ((s.strand? c.val).getD st) i
      let head : Forwarded := { pc := pc, instr := i, cap := st.capture, op := n, rpl := rpl, before := before }
      let st' := if st.fromQueue.isSome then st.endForwarded else st.continueAt (pc + 4)
      s.holdIn c t head st' st'.hart.pc
    else
      let st' := st.endForwarded
      (attempt (recordTrap c t tpc false false (st'.inReplay tpc) 0) (s.setStrand c.val st')).1

/-- CCSTAT as read: LACT is the core's loop state (Table 2 of 18). -/
def CcCore.statRead (c : CcCore) : Word := setBit c.ccstat 4 c.hart.lact

/-- Entering the handler of a control complex core (R424). -/
def CcCore.enter (c : CcCore) (tcause tpc tval : Word) : CcCore :=
  let s := c.ccstat
  let s := setBit (setBit (setBit s 1 (bitOf s 0)) 3 (bitOf s 2)) 5 c.hart.lact
  { c with
    ccstat := setBit (setBit s 0 true) 2 false, handling := c.handling + 1, asleep := none
    hart := { c.hart with tcause := tcause, tpc := tpc, tval := tval, lact := false, resv := none, pc := c.tvec } }

/-- TAKING A TRAP on a control complex core (R424). -/
def takeCcTrap (n : Nat) (t : TrapReq) (s : State) : State :=
  let c := s.cc n
  s.setCc n (c.enter (tcauseOf t false false false false false) (t.tpc.getD c.hart.pc) t.tval)

/-- TAKING A TRAP, on whichever agent executes. -/
def takeTrap (i : Instr) (t : TrapReq) (s : State) : State :=
  match s.turn with
  | .strand c => takeStrandTrap c i t s
  | .cc n => takeCcTrap n.val t s

/-- RETURNING FROM A TRAP on a control complex core: privilege, IE and LACT come back, control continues at TPC (R230,
R424). -/
def CcCore.leave (c : CcCore) : CcCore :=
  let s := c.ccstat
  { c with
    ccstat := setBit (setBit s 0 (bitOf s 1)) 2 (bitOf s 3), handling := c.handling - 1
    hart := { c.hart with lact := bitOf s 5, pc := c.hart.tpc } }

/-- The word of an instruction, as TVAL holds it (R189). -/
def wordOf (i : Instr) : Word := BitVec.ofNat 64 (encode i)

/-- What every instruction meets before its own checks: who may execute it, and the operands its encoding admits (R134, R189
rows 3 and 4, R228, R422). -/
def entryChecks (i : Instr) : M Unit := do
  let k := klass i
  match (← get).turn with
  | .strand c =>
    let t ← strandAt c.val
    if t.fromQueue.isSome then pure ()
    else
      require (!k.system || t.hart.sysh) cPrivilege (wordOf i)
      require i.wf cIllegal (wordOf i)
      require (!t.hart.upc || k.handler) cIllegal (wordOf i)
  | .cc n =>
    let c := (← get).cc n.val
    require (!k.system || bitOf c.ccstat 0) cPrivilege (wordOf i)
    require (i.wf && k.cc) cIllegal (wordOf i)

/-- What an agent sleeps on. -/
def State.sleepOf (s : State) (a : Agent) : Option Sleep :=
  match a with
  | .strand c => match s.strand? c.val with
    | some t => match t.cond with
      | .asleep r => some r
      | _ => none
    | none => none
  | .cc n => (s.cc n.val).asleep

/-- The agent whose turn it is falls asleep (R182). -/
def State.fallAsleep (s : State) (r : Sleep) : State :=
  match s.turn with
  | .strand c =>
    match s.strand? c.val with
    | some t => s.setStrand c.val { t with cond := .asleep r }
    | none => s
  | .cc n => s.setCc n.val { s.cc n.val with asleep := some r }

/-- An agent that slept may issue again. -/
def State.rouse (s : State) (a : Agent) : State :=
  match a with
  | .strand c =>
    match s.strand? c.val with
    | some t => s.setStrand c.val { t with cond := .runnable }
    | none => s
  | .cc n => s.setCc n.val { s.cc n.val with asleep := none }

/-- Asking another module for n bytes, unless they are on their way: a remote read (R43, R431). -/
def State.askFabric (s : State) (a : Agent) (cell n : Nat) : State :=
  if s.hub.fabric.any fun r => r.who == a && r.cell == cell && r.len == n then s
  else
    { s with hub := { s.hub with
        fabric := s.hub.fabric ++ [{ who := a, cell := cell, len := n, data := List.replicate n none }]
        outbox := s.hub.outbox ++ [{ type := 6, dst := Fin.ofNat 4096 (cellModule cell), addr := cell, op := BitVec.ofNat 32 n,
                                     data := [], operands := [] }] } }

/-- An agent falling asleep at its instruction: one that needs bytes of another module starts anew once they are here, so that
the state is that from before it, with the request made (R43, R182). -/
def State.waitFor (s0 s : State) (r : Sleep) : State :=
  match r with
  | .fabric a cell n => (s0.askFabric a cell n).fallAsleep r
  | _ => s.fallAsleep r

/-- A strand whose last instruction stopped part way: it is the next one again (R400). -/
def State.part (s : State) : State :=
  match s.turn with
  | .strand c =>
    match s.strand? c.val with
    | some t =>
      let u := t.endForwarded
      s.setStrand c.val { u with hart := { u.hart with pc := (t.fromQueue.map (·.pc)).getD u.hart.pc } }
    | none => s
  | .cc _ => s

/-- What a computation answers, a trap being taken. -/
def finishRun (i : Instr) (s0 : State) (r : EStateM.Result Stop State Unit) : Host.Outcome State Fault Refusal :=
  match r with
  | .ok _ s => .next s
  | .error (.trap t) s => .next (takeTrap i t s)
  | .error (.wait r) s => .next (s0.waitFor s r)
  | .error .parted s => .next s.part
  | .error (.fault f) _ => .fault f
  | .error (.refuse r) _ => .refused r

/-- Running one instruction: the checks, its meaning, and any trap taken. -/
def perform (i : Instr) (m : M Unit) (s : State) : Host.Outcome State Fault Refusal :=
  finishRun i s ((do entryChecks i; m).run s)

/-- Running one event of the machine: no agent executes it, so that it takes no trap of its own; one that needs bytes of another
module asks for them and occurs later (log 68). -/
def occur (m : M Unit) (s : State) : Host.Outcome State Fault Refusal :=
  match m.run s with
  | .ok _ s => .next s
  | .error (.trap _) s => .next s
  | .error (.wait (.fabric a cell n)) _ =>
    let s := s.askFabric a cell n
    .next { s with hub := { s.hub with rdWait := some .fabric } }
  | .error (.wait _) s => .next s
  | .error .parted s => .next s
  | .error (.fault f) _ => .fault f
  | .error (.refuse r) _ => .refused r

end Sys2Proof.Machine
end

