-- ==== Sys2Proof/Machine/Boot.lean ====
section
/-! DEFINITION. The boot ROM: checking a firmware image, measuring and starting it (18 R436-R438), and the module reset
(R435). -/

namespace Sys2Proof.Machine

/-- n bytes of a list from an offset, as a number (R2). -/
def fieldAt (l : List Byte) (off n : Nat) : Nat := ofBytes ((l.drop off).take n)

/-- The keys that a header lists: modulus, exponent and system-code flag (R436). -/
def imageKeys (h : List Byte) : List (Nat × Nat × Bool) :=
  (List.range (fieldAt h 24 8)).map fun j =>
    let o := 544 + 528 * j
    (fieldAt h o 512, fieldAt h (o + 512) 4, fieldAt h (o + 516) 4 % 2 == 1)

/-- Whether bytes are all zero. -/
def allZero (l : List Byte) : Bool := l.all fun b => b == 0

/-- Whether a header is well formed, but for its signature (R436). -/
def headerOk (h : List Byte) : Bool :=
  h.length == 4096 && (h.take 4 == [0x5A, 0x42, 0x34, 0x46]) && decide (fieldAt h 8 8 ≤ 192 * 1048576) &&
    decide (fieldAt h 16 8 < fieldAt h 8 8) && decide (fieldAt h 24 8 ≤ 4) &&
    (List.range (fieldAt h 24 8)).all (fun j => allZero ((h.drop (544 + 528 * j + 520)).take 8)) &&
    allZero (h.drop (544 + 528 * fieldAt h 24 8))

/-- The header with its signature bytes read as zero. -/
def unsignedHeader (h : List Byte) : List Byte := h.take 32 ++ List.replicate 512 0 ++ h.drop 544

/-- Whether the boot ROM accepts an image: header and body (R436); `minimum` is the fused minimum version. -/
def imageOk (minimum : Nat) (h body : List Byte) : Bool :=
  headerOk h && decide (minimum ≤ fieldAt h 4 4) && body.length == fieldAt h 8 8 &&
    rsaVerify Config.rootKey.1 Config.rootKey.2 ((h.drop 32).take 512) (unsignedHeader h ++ body)

/-- n bytes of the flash. -/
def flashBytes (s : State) (off n : Nat) : List Byte := (List.range n).map fun i => s.flash.get (off + i)

/-- Bytes put into memory from a module-local address upward. -/
def putBytes (s : State) (base : Nat) (l : List Byte) : State :=
  { s with mem := l.zipIdx.foldl (fun m (b, i) => m.set (cellOf s.moduleNum.val (base + i)) b) s.mem }

/-- Starting an accepted image: it is measured, its keys are those of the module, and core 0 enters it at supervisor
privilege (R436-R438). -/
def bootImage (s : State) (h body : List Byte) : State :=
  let s := (attempt (extendM (sha512 (h ++ body))) s).1
  let s := putBytes s Config.firmwareBase.1 body
  let c := s.cc 0
  let pc := BitVec.ofNat 64 (Config.firmwareBase.2 + fieldAt h 16 8)
  let s := s.setCc 0 { c with ccstat := setBit c.ccstat 0 true, held := false, hart := { c.hart with pc := pc } }
  { s with boot := .running, hub := { s.hub with keys := imageKeys h } }

/-- The boot ROM checks the carrier's image (BOOT_IMAGE_VERIFY): it starts it, or brings up the management port and waits
for one (R436, R437). -/
def romCheck (s : State) : State :=
  let h := flashBytes s 0 4096
  let body := flashBytes s 4096 (if headerOk h then fieldAt h 8 8 else 0)
  if imageOk (Config.fusedMinimum s.fresh) h body then bootImage { s with fresh := s.fresh + 1 } h body
  else { s with fresh := s.fresh + 1, boot := .waitImage, hub := { s.hub with mgmtUp := true } }

/-- The boot ROM's step. -/
def romStep (s : State) : Host.Outcome State Fault Refusal := .next (romCheck s)

/-- The flash holding an image. -/
def flashWith (l : List Byte) : Cells := l.zipIdx.foldl (fun m (b, i) => m.set i b) []

/-- An image sent by TFTP while the ROM waits: it is written to the flash and booted, or discarded (R437). -/
def tftpImage (image : List Byte) (s : State) : State :=
  if s.boot = .waitImage ∧ imageOk (Config.fusedMinimum s.fresh) (image.take 4096) (image.drop 4096) then
    bootImage { s with fresh := s.fresh + 1, flash := flashWith image } (image.take 4096) (image.drop 4096)
  else s

/-- Every register at its Reset column, the flash, the module number and what the collector has received kept (R417, R435, Table 12). -/
def moduleReset (s : State) : State :=
  { State.reset with
    moduleNum := s.moduleNum, flash := s.flash, fresh := s.fresh, agenda := s.agenda
    hub := { Hub.reset s.moduleNum with collector := s.hub.collector } }

end Sys2Proof.Machine
end

