-- ==== Sys2Proof/Machine/Flags.lean ====
section
/-! DEFINITION. The type state that a vector instruction decodes under, and what its results do to STATUS.FLAGS, SATM and FM
(08 R190, 10 R237-R240, 04 R81-R85, 07 R174). -/

namespace Sys2Proof.Machine

/-- What a vector instruction decodes under (R190, R237). -/
structure VView where
  /-- lane groups of the strand's partition (R167) -/
  groups : Nat
  /-- VTYPE.ET, 2^VTYPE.GRP, VTYPE.RM, VTYPE.SATM -/
  et : Nat
  grp : Nat
  rm : Nat
  satm : Nat
  /-- VL and VL - VPAD -/
  vl : Nat
  n : Nat
  /-- SRSEED: KEY and POS (R82) -/
  key : BitVec 32
  pos : BitVec 32
  /-- MFMT.FMT -/
  mfmt : Nat
deriving DecidableEq, Repr

/-- The view of a strand on a partition of P lane groups. -/
def Strand.view (t : Strand) (groups : Nat) : VView :=
  { groups := groups, et := fieldOf t.vtype 4 0, grp := 2 ^ fieldOf t.vtype 13 12, rm := fieldOf t.vtype 16 14,
    satm := fieldOf t.vtype 23 20, vl := fieldOf t.vl 31 0, n := fieldOf t.vl 31 0 - fieldOf t.vpad 5 0,
    key := BitVec.ofNat 32 (fieldOf t.srseed 63 32), pos := BitVec.ofNat 32 (fieldOf t.srseed 31 0),
    mfmt := fieldOf t.mfmt 3 0 }

/-- The view of the executing strand. -/
def view : M VView := do
  let c ← ctx
  let t ← strand
  return t.view ((← get).groupsOf c)

/-- Bits of one register on the partition. -/
def VView.regBits (v : VView) : Nat := v.groups * 2048

/-- The element type; a packed type reads as bytes. -/
def VView.ty (v : VView) : ElemTy := (elemTyOf v.et).getD (.int false 8)

/-- The element width w. -/
def VView.w (v : VView) : Nat := v.ty.width

/-- The width by which an element finds its lane: that of a packed element without scale bytes (R168, R192). -/
def VView.laneWidth (v : VView) : Nat :=
  match v.et with
  | 0x18 => 6
  | 0x19 => 6
  | 0x1A => 4
  | 0x1C => 4
  | _ => v.w

/-- The float format of the element type, where it is one. -/
def VView.fmt? (v : VView) : Option FFmt :=
  match v.ty with
  | .flt f => some f
  | .int _ _ => none

/-- Classes of R239. -/
def classF (et : Nat) : Bool := decide (et ≤ 3)
def classI (et : Nat) : Bool := decide (8 ≤ et) && decide (et ≤ 15)
def classFI (et : Nat) : Bool := classF et || classI et
def classXCode (et : Nat) : Bool := (elemTyOf et).isSome
def classPCode (et : Nat) : Bool := (packedOf et).isSome

/-- The rounding mode under VTYPE.RM at a draw coordinate (R81, R82). -/
def VView.modeXY (v : VView) (x y : Nat) : RMode :=
  (rmodeOf v.rm (srBits v.key (v.pos + BitVec.ofNat 32 x) (BitVec.ofNat 32 y)).toNat).getD .rne

/-- The rounding mode of element i (R240). -/
def VView.mode (v : VView) (i : Nat) : RMode := v.modeXY i 0

/-- An illegal-instruction trap unless a state check of row 5 of R189 holds. -/
def requireState (i : Instr) (c : Bool) : M Unit := require c cIllegal (wordOf i)

/-- Whether a conversion between two element types rounds: one between integer types does not (R83). -/
def convRounds (src dst : Nat) : Bool := !(classI src || src == 0x10) || !(classI dst || dst == 0x10)

/-- The checks of an instruction that rounds under VTYPE.RM: a reserved mode (R81, R189 row 5), and the stochastic one in
Reproducible mode before SRSEED has been written (R21, R189 row 6). -/
def checkRounding (i : Instr) (v : VView) (rounds : Bool) : M Unit := do
  let t ← strand
  require (!(rounds && (decide (4 < v.rm) || (v.rm == 4 && t.hart.repro && !t.seeded)))) cIllegal (wordOf i)

/-- A scalar side with flags raised in STATUS (R85). -/
def Hart.raise (h : Hart) (fl : FlagSet) : Hart := { h with status := h.status ||| fl.zeroExtend 64 }

/-- Setting flags in STATUS (R85). -/
def raiseFlags (fl : FlagSet) : M Unit := modHart fun h => h.raise fl

/-- The flags of a set whose traps are enabled (STATUS.TEN). -/
def enabledOf (h : Hart) (fl : FlagSet) : Bool := fieldOf h.status 12 8 &&& fl.toNat != 0

/-- A strand with bits of the mask that SATM names set (R84). -/
def Strand.withSat (t : Strand) (v : VView) (is : List Nat) : Strand :=
  if v.satm = 0 then t
  else { t with m := t.m.set! v.satm (is.foldl (fun m i => m ||| (1#32768 <<< i)) ((t.m[v.satm]?).getD 0)) }

/-- Setting bits of the mask that SATM names (R84). -/
def recordSat (v : VView) (is : List Nat) : M Unit := modStrand fun t => t.withSat v is

/-- A strand with bits of FM set (R174). -/
def Strand.withFm (t : Strand) (is : List Nat) : Strand := { t with fm := is.foldl (fun m i => m ||| (1#32768 <<< i)) t.fm }

/-- Setting bits of FM (R174). -/
def recordFm (is : List Nat) : M Unit := modStrand fun t => t.withFm is

/-- What the results of selected elements do: flags, SATM, and for an enabled flag the arithmetic trap, or FM and a zero under
.SP (R240, R174).  Answers the codes to write. -/
def settle (v : VView) (sp : Bool) (rs : List (Nat × Res)) : M (List (Nat × Nat)) := do
  let h ← hart
  raiseFlags (rs.foldl (fun a r => a ||| r.2.flags) 0)
  recordSat v ((rs.filter fun r => r.2.sat).map (·.1))
  let bad := fun (r : Nat × Res) => enabledOf h r.2.flags
  if sp then
    recordFm ((rs.filter bad).map (·.1))
    return rs.map fun r => (r.1, if bad r then 0 else r.2.bits)
  else
    match rs.find? bad with
    | some r => trap cArithmetic (BitVec.ofNat 64 r.1)
    | none => return rs.map fun r => (r.1, r.2.bits)

end Sys2Proof.Machine
end

