-- ==== Sys2Proof/Machine/Paths.lean ====
section
/-! DEFINITION. Operations on the paths: their numbers, the limit on those outstanding, completion and upcalls (05 R130-R133,
13 R338, R339), and what the access side does when it forwards an instruction (07 R162, R164). -/

namespace Sys2Proof.Machine

/-- Whether the wait for operation n of a path is satisfied (R131). -/
def Strand.waitOver (t : Strand) (p : Fin 6) (n : BitVec 32) : Bool := decide ((t.cpl[p].2 - n).toNat < 2 ^ 31)

/-- Whether operation n of a path has been issued (R352). -/
def Strand.wasIssued (t : Strand) (p : Fin 6) (n : BitVec 32) : Bool := decide ((t.cpl[p].1 - n).toNat < 2 ^ 31)

/-- An issued operation. -/
def Strand.opAt (t : Strand) (p : Fin 6) (n : BitVec 32) : Option PathOp := t.ops.find? fun o => o.path == p && o.n == n

/-- Changing an issued operation. -/
def Strand.modOp (t : Strand) (p : Fin 6) (n : BitVec 32) (f : PathOp → PathOp) : Strand :=
  { t with ops := t.ops.map fun o => if o.path == p && o.n == n then f o else o }

/-- DONE advances past the operations of a path whose predecessors are all complete (R131).  `fuel` is the number of
operations listed. -/
def Strand.advanceDone (t : Strand) (p : Fin 6) : Nat → Strand
  | 0 => t
  | fuel + 1 =>
    match t.ops.find? fun o => o.path == p with
    | some o =>
      if o.complete then
        { t with
          ops := t.ops.filter fun x => !(x.path == p && x.n == o.n)
          cpl := t.cpl.set p.val (t.cpl[p].1, o.n) }.advanceDone p fuel
      else t
    | none => t

/-- An operation completes: its armed upcalls become pending, DONE advances, and an error is kept for the observer (R131,
R132, R339). -/
def Strand.complete (t : Strand) (p : Fin 6) (n : BitVec 32) (err : Option Word) : Strand :=
  let due := fun (u : Word × Fin 6 × BitVec 32) => u.2.1 == p && u.2.2 == n
  let t := t.modOp p n fun o => { o with complete := true, err := err }
  let t := { t with
    pending := t.pending ++ t.armed.filter due, armed := t.armed.filter fun u => !due u
    ede := match err with
      | some w => t.ede ++ [(p, n, w)]
      | none => t.ede }
  t.advanceDone p t.ops.length

/-- Completing an operation of the strand in a context. -/
def completeOp (c : Nat) (p : Fin 6) (n : BitVec 32) (err : Option Word) : M Unit := modStrandAt c fun t => t.complete p n err

/-- The issuing side waits while 256 operations are outstanding on the path (R131). -/
def needIssue (p : Fin 6) : M Unit := do
  if (← strand).outstanding p < Config.maxOutstanding then pure () else sleepOn (.issueLimit p)

/-- Issuing an operation of the executing strand; answers its number. -/
def issueOp (p : Fin 6) (w : OpWork) : M (BitVec 32) := do
  modStrand fun t => t.issue p w
  return (← strand).cpl[p].1

/-- The number that the executing instruction was given when it was forwarded. -/
def givenNumber : M (Option (BitVec 32)) := do
  match (← strand).fromQueue with
  | some f => return f.op
  | none => return none

/-- Room on a path for an instruction that was given no number yet. -/
def needNumber (p : Fin 6) : M Unit := do
  match ← givenNumber with
  | some _ => pure ()
  | none => needIssue p

/-- The operation of a forwarded instruction: under the number it was given, else under the next (R338). -/
def numberOp (p : Fin 6) (w : OpWork) : M (BitVec 32) := do
  match ← givenNumber with
  | some n =>
    modStrand fun t => t.modOp p n fun o => { o with work := w }
    return n
  | none => issueOp p w

/-- Whether an operation still goes through a page of a job (R42). -/
def OpWork.uses (w : OpWork) (job va : Nat) : Bool :=
  match w with
  | .affine _ _ _ _ _ _ _ ps => ps.any fun p => p.maps job va
  | .fibre _ _ _ _ _ _ _ _ ps => ps.any fun p => p.maps job va
  | .gather _ _ es => es.any fun e => e.val.isNone && (e.src.any fun x => x.1.maps job va)
  | .copy _ _ _ _ ps => ps.any fun p => p.maps job va
  | .remoteStore _ ws _ _ => ws.any fun w => w.parts.any fun p => p.1.maps job va
  -- translated already, by pages that the operation does not keep
  | .remoteSignal .. => true
  | .bank .. => true
  | .exact .. => true
  | .deposit .. => true
  -- not translated yet, or performed already
  | .forwarded => false
  | .operandFetch => false

/-- Sleeping until a load-data queue has no active stream and a free place (R165, R344). -/
def needPlace (q : Fin 2) : M Unit := do
  let t ← strand
  if t.activeStream q then sleepOn (.stream (Fin.ofNat 8 (q.val + 4)))
  else if 4 ≤ t.qv[q].length then sleepOn (.queueFull (Fin.ofNat 8 (q.val + 4)))
  else pure ()

end Sys2Proof.Machine
end

