-- ==== Sys2Proof/Machine/Operands.lean ====
section
/-! DEFINITION. Operands of vector instructions: register groups and their checks, masks, modifiers and queues, and the writing
of results (08 R188, R190; 10 R237, R238; 07 R164, R165). -/

namespace Sys2Proof.Machine

/-- A group of consecutive registers. -/
structure Span where
  base : Nat
  count : Nat
deriving DecidableEq, Repr

/-- The registers that an operand of width w' takes (R238); an operand of the element type itself takes G. -/
def VView.spanOf (v : VView) (r : VReg) (w' : Nat) : Span :=
  ⟨r.val, Nat.max 1 (v.grp * w' / v.w)⟩

/-- The operand of the element type, packed types included (R190). -/
def VView.span (v : VView) (r : VReg) : Span := ⟨r.val, v.grp⟩

/-- Whether a field may name a group (R238). -/
def Span.ok (s : Span) : Bool := decide (s.count ≤ 8) && s.base % s.count == 0 && decide (s.base + s.count ≤ 32)

/-- Whether two groups share a register. -/
def Span.meets (s t : Span) : Bool := decide (s.base < t.base + t.count) && decide (t.base < s.base + s.count)

/-- The group checks of R238: with `strict` the destination may not even coincide with a source. -/
def groupsOk (dst : Option Span) (srcs : List Span) (strict : Bool) : Bool :=
  srcs.all Span.ok &&
    match dst with
    | some d => d.ok && srcs.all fun x => !d.meets x || (!strict && d == x)
    | none => true

/-- The registers of a group as one number, element 0 lowest. -/
def Strand.image (t : Strand) (bits : Nat) (sp : Span) : Nat :=
  (List.range sp.count).foldl (fun a j => a + ((((t.v[sp.base + j]?).getD 0).toNat % 2 ^ bits) <<< (bits * j))) 0

/-- Writing the registers of a group. -/
def Strand.setImage (t : Strand) (bits : Nat) (sp : Span) (img : Nat) : Strand :=
  { t with v := (List.range sp.count).foldl (fun v j =>
      v.set! (sp.base + j) (BitVec.ofNat 16384 ((img >>> (bits * j)) % 2 ^ bits))) t.v }

/-- A number with element i of width w replaced. -/
def setElem (w img i b : Nat) : Nat := img ^^^ ((elemAt w img i ^^^ (b % 2 ^ w)) <<< (w * i))

/-- Bit i of a mask register. -/
def Strand.maskBit (t : Strand) (m : MReg) (i : Nat) : Bool := ((t.m[m.val]?).getD 0).getLsbD i

/-- What the mk and me fields ask for (R188). -/
structure Mods where
  mask : Option MReg
  /-- the .SP form -/
  sp : Bool
  /-- the queue that stands for va, for vb, for the scalar -/
  qa : Option (Fin 2)
  qb : Option (Fin 2)
  qs : Option (Fin 4)
deriving DecidableEq, Repr

/-- Reading the modifier (R188). -/
def modsOf (mk : MReg) (me : Bool) : Mods :=
  if me then ⟨some mk, false, none, none, none⟩
  else
    match mk.val with
    | 0x1 => ⟨none, false, some 0, none, none⟩
    | 0x2 => ⟨none, false, some 1, none, none⟩
    | 0x3 => ⟨none, false, none, some 0, none⟩
    | 0x4 => ⟨none, false, none, some 1, none⟩
    | 0x8 => ⟨none, false, none, none, some 0⟩
    | 0x9 => ⟨none, false, none, none, some 1⟩
    | 0xA => ⟨none, false, none, none, some 2⟩
    | 0xB => ⟨none, false, none, none, some 3⟩
    | 0xF => ⟨none, true, none, none, none⟩
    | _ => ⟨none, false, none, none, none⟩

/-- Whether an element below n is selected (R237). -/
def Strand.selects (t : Strand) (m : Mods) (i : Nat) : Bool :=
  match m.mask with
  | some k => t.maskBit k i
  | none => true

/-- The selected elements, ascending. -/
def Strand.selected (t : Strand) (v : VView) (m : Mods) : List Nat := (List.range v.n).filter (t.selects m)

/-- The head of q4 or q5, once its data is there; else the reader sleeps (R164, R165). -/
def peekVec (q : Fin 2) : M VEntry := do
  match (← strand).qv[q] with
  | e :: _ => if e.awaits.isSome then sleepOn (.queueEmpty (Fin.ofNat 8 (q.val + 4))) else return e
  | [] => sleepOn (.queueEmpty (Fin.ofNat 8 (q.val + 4)))

/-- The head of q0-q3, or sleep. -/
def peekScalar (q : Fin 4) : M Word := do
  match (← strand).qs[q] with
  | x :: _ => return x
  | [] => sleepOn (.queueEmpty (Fin.ofNat 8 q.val))

/-- A strand that has popped the queue that an instruction has read (R164). -/
def Strand.popped (t : Strand) (m : Mods) : Strand :=
  match m.qa, m.qb, m.qs with
  | some q, _, _ => { t with qv := t.qv.set q.val (t.qv[q].drop 1) }
  | _, some q, _ => { t with qv := t.qv.set q.val (t.qv[q].drop 1) }
  | _, _, some q => { t with qs := t.qs.set q.val (t.qs[q].drop 1) }
  | _, _, _ => t

/-- Popping the queue that an instruction has read (R164). -/
def popUsed (m : Mods) : M Unit := modStrand fun t => t.popped m

/-- Element i of a queue entry read with a width: at or beyond its count it is zero (R164). -/
def VEntry.elem (e : VEntry) (w i : Nat) : Nat := if (i + 1) * w ≤ e.count * e.width then elemAt w e.bits i else 0

/-- A vector source: element i of a register group or of the head of q4 or q5. -/
def source (v : VView) (q : Option (Fin 2)) (sp : Span) (w : Nat) : M (Nat → Nat) := do
  match q with
  | some k =>
    let e ← peekVec k
    return e.elem w
  | none =>
    let img := (← strand).image v.regBits sp
    return fun i => elemAt w img i

/-- The scalar operand: the low w bits of gb or of a q0-q3 entry (R258). -/
def scalarSource (q : Option (Fin 4)) (b : GReg) : M Word := do
  match q with
  | some k => peekScalar k
  | none => gR b

/-- Room in q6 or q7 for one more entry, or sleep (R165). -/
def needRoom (q : Fin 2) : M Unit := do
  if (← strand).qr[q].length < 16 then pure () else sleepOn (.queueFull (Fin.ofNat 8 (q.val + 6)))

/-- Appending a value to q6 or q7. -/
def pushResult (q : Fin 2) (x : Word) : M Unit :=
  modStrand fun t => { t with qr := t.qr.set q.val (t.qr[q] ++ [.value x]) }

/-- A strand with elements of a vector group written: the given ones, zero at padding, the others unchanged (R237). -/
def Strand.withVec (t : Strand) (v : VView) (sp : Span) (w : Nat) (vals : List (Nat × Nat)) : Strand :=
  let img := vals.foldl (fun g x => setElem w g x.1 x.2) (t.image v.regBits sp)
  t.setImage v.regBits sp ((List.range (v.vl - v.n)).foldl (fun g j => setElem w g (v.n + j) 0) img)

/-- Writing results of width w to a vector group (R237). -/
def writeVec (v : VView) (sp : Span) (w : Nat) (vals : List (Nat × Nat)) : M Unit :=
  modStrand fun t => t.withVec v sp w vals

/-- A strand with bits of a mask register written: the given ones, padding cleared, the others unchanged (R237). -/
def Strand.withMask (t : Strand) (v : VView) (d : MReg) (vals : List (Nat × Bool)) : Strand :=
  let m := ((t.m[d.val]?).getD 0).toNat
  let m := vals.foldl (fun g x => setElem 1 g x.1 (if x.2 then 1 else 0)) m
  let m := (List.range (v.vl - v.n)).foldl (fun g j => setElem 1 g (v.n + j) 0) m
  { t with m := t.m.set! d.val (BitVec.ofNat 32768 m) }

/-- Writing bits of a mask register (R237). -/
def writeMask (v : VView) (d : MReg) (vals : List (Nat × Bool)) : M Unit := modStrand fun t => t.withMask v d vals

/-- The queue on which a forwarded instruction would sleep now, if any (R165): by its modifier in the VR family, or by the
q6-q7 destination of its form. -/
def queueNeed (i : Instr) (t : Strand) : Option (Fin 8) :=
  let vr := fun (mk : MReg) (me : Bool) =>
    let m := modsOf mk me
    match m.qa, m.qb, m.qs with
    | some q, _, _ => vecWait q
    | _, some q, _ => vecWait q
    | _, _, some q => if t.qs[q].isEmpty then some (Fin.ofNat 8 q.val) else none
    | _, _, _ => none
  let full := fun (q : Fin 2) => if 16 ≤ t.qr[q].length then some (Fin.ofNat 8 (q.val + 6)) else none
  let w := encode i
  let major := w / 2 ^ 25
  match i with
  | .vmovQ q _ _ => full q
  | .vredsumQ q _ _ mk me => (full q).orElse fun _ => vr mk me
  | .vredsumFQ q _ _ mk me => (full q).orElse fun _ => vr mk me
  | .vredmaxQ q _ _ mk me => (full q).orElse fun _ => vr mk me
  | .vredminQ q _ _ mk me => (full q).orElse fun _ => vr mk me
  | .vfoldFinQ q _ => full q
  | .fcnt q _ => full q
  | .accrdD _ q => full q
  | .tres _ _ _ _ q => full q
  | .titer _ _ _ q => if 15 ≤ t.qr[q].length then some (Fin.ofNat 8 (q.val + 6)) else none
  | .rstv _ _ _ _ q _ => full q
  | .rstvMc _ _ _ _ _ q _ => full q
  | .rstvAdd _ _ _ _ q => full q
  | .cdep _ _ _ q => full q
  | _ =>
    if (0x20 ≤ major ∧ major ≤ 0x27) ∨ (0x3C ≤ major ∧ major ≤ 0x3F) then
      vr (Fin.ofNat 16 (w / 64)) (w / 32 % 2 == 1)
    else none
where
  /-- An entry that is absent or whose data is not there. -/
  vecWait (q : Fin 2) : Option (Fin 8) :=
    match t.qv[q] with
    | e :: _ => if e.awaits.isSome then some (Fin.ofNat 8 (q.val + 4)) else none
    | [] => some (Fin.ofNat 8 (q.val + 4))

end Sys2Proof.Machine
end

