-- ==== Sys2Proof/Machine/Bank.lean ====
section
/-! DEFINITION. Bank operations and exact-accumulate slots (05 R123-R126; 13 R335-R337). -/

noncomputable section

namespace Sys2Proof.Machine

/-- W and L of an exact-accumulate slot (R126). -/
def exaW (f64 : Bool) : Nat := if f64 then 2556 else 508
def exaL (f64 : Bool) : Nat := if f64 then 1074 else 149

/-- Bytes of an exact-accumulate slot. -/
def exaBytes (f64 : Bool) : Nat := if f64 then 320 else 64

/-- ExaAdd (R126): the slot as one little-endian number. -/
def exaAdd (f64 : Bool) (slot : Nat) (x : Num) : Nat :=
  let w := exaW f64
  let sum := slot % 2 ^ w
  let fl := slot / 2 ^ (w + 1) % 8
  let setFlag := fun (b : Nat) => if fl / b % 2 = 1 then fl else fl + b
  match x with
  | .nan _ => sum + 2 ^ (w + 1) * setFlag 4
  | .inf false => sum + 2 ^ (w + 1) * setFlag 2
  | .inf true => sum + 2 ^ (w + 1) * setFlag 1
  | .fin neg sig e =>
    ((sum : Int) + signedSig neg (sig * 2 ^ (e + exaL f64).toNat)) % (2 ^ w : Nat) |>.toNat |> (· + 2 ^ (w + 1) * fl)

/-- ExaRead (R126). -/
def exaRead (f64 : Bool) (slot : Nat) (fmt : FFmt) : Nat :=
  let w := exaW f64
  let fl := slot / 2 ^ (w + 1) % 8
  if fl / 4 = 1 ∨ fl % 4 = 3 then fmt.nanBits
  else if fl % 4 = 2 then fmt.infBits false
  else if fl % 4 = 1 then fmt.infBits true
  else
    let v := toSigned w (slot % 2 ^ w)
    if v = 0 then 0 else (fmt.round .rne (.fin (decide (v < 0)) v.natAbs (-(exaL f64 : Int)))).bits

/-- Width of a bank operation's target in bytes (R124, Table 6). -/
def BankOp.bytes (o : BankOp) : Nat := if o = .fadd32 then 4 else 8

/-- What a bank operation leaves in its target (R124, Table 6). -/
def BankOp.apply (o : BankOp) (t x expected : Word) : Word :=
  match o with
  | .add => t + x
  | .min => if t.slt x then t else x
  | .max => if x.slt t then t else x
  | .minn => if t.ult x then t else x
  | .maxn => if x.ult t then t else x
  | .and => t &&& x
  | .or => t ||| x
  | .xor => t ^^^ x
  | .swap => x
  | .cas => if t = expected then x else t
  | .fadd32 => BitVec.ofNat 64 (fp32.addRne (t.toNat % 2 ^ 32) (x.toNat % 2 ^ 32))
  | .fadd64 => BitVec.ofNat 64 (fp64.addRne t.toNat x.toNat)

/-- Performing a bank operation at its cell, as one indivisible step (R125): the old target.  A compare that fails writes nothing
(R124, R212). -/
def bankPerform (o : BankOp) (cell : Nat) (x expected : Word) : M Word := do
  let t ← readCell cell o.bytes
  let old := BitVec.ofNat 64 t
  if o = .cas ∧ old ≠ expected then pure () else writeCell cell o.bytes (o.apply old x expected).toNat
  return old

/-- Adding into a slot, as one indivisible step (R125, R126). -/
def exaPerform (f64 : Bool) (cell : Nat) (x : Num) : M Unit := do
  let slot ← readCell cell (exaBytes f64)
  writeCell cell (exaBytes f64) (exaAdd f64 slot x)

/-- The page of a bank target of this module, with the traps of R335: translation, which every access but a load takes on a DEAD
page (R46), then protection where it is no bank page or lacks a permission, then write-protect. -/
def tryBank (acc : Acc) (va : Word) : M (Except TrapReq PageTr) := do
  let here := fun (s : State) (p : PageTr) => p.isBank && leafMod p.leaf == s.moduleNum.val
  let bad : TrapReq := { cause := cProtection, tval := va, acc := acc.code, page := true }
  let r ← tryTranslate acc va
  let s ← get
  match r with
  | .ok p =>
    return if leafDead p.leaf then .error { bad with cause := cTranslation } else if here s p then .ok p else .error bad
  | .error t =>
    if t.cause = cWriteProtect then
      match ← tryTranslate .load va with
      | .ok p => return .error (if here s p then t else bad)
      | .error _ => return .error bad
    else return .error t

/-- The bank target that an access-side instruction names (R335). -/
def bankCell (acc : Acc) (va : Word) : M Nat := do
  match ← tryBank acc va with
  | .ok p => return p.cell va.toNat
  | .error t => throw (.trap t)

/-- BNKOP (R335): a control complex core, which has no paths, performs it at once. -/
def bnkopM (i : Instr) (o : BankOp) (d a b : GReg) : M Unit := do
  let h ← hart
  requireState i (!(h.repro && (o == .fadd32 || o == .fadd64)))
  let va ← gR a
  let x ← gR b
  let expected ← gR d
  require (va.toNat % o.bytes == 0) cMisaligned va
  let cell ← bankCell .rw va
  match (← get).turn with
  | .strand _ =>
    needIssue pBnk
    let _ ← issueOp pBnk (.bank o cell x expected d)
  | .cc _ =>
    checkLost cell o.bytes .access
    gW d (← bankPerform o cell x expected)
  advance

/-- Whether an operation of the BNK path still has to act on bytes of a bank. -/
def OpWork.bankTouches (w : OpWork) (cell n : Nat) : Bool :=
  match w with
  | .bank o a _ _ _ => touches cell n a o.bytes
  | .exact l f64 _ => l.any fun e => touches cell n e.1 (exaBytes f64)
  | _ => false

/-- An access of the BNK class follows the strand's earlier operations at its bytes (R140). -/
def awaitBank (cell n : Nat) : M Unit := do
  match (← get).turn with
  | .strand _ =>
    match (← strand).ops.find? fun o => !o.complete && o.work.bankTouches cell n with
    | some o => sleepOn (.opDone o.path o.n)
    | none => pure ()
  | .cc _ => pure ()

/-- A value that a bank returns: to a strand it is on its way (R335, R336). -/
def bankReturn (d : GReg) (v : Word) : M Unit := do
  match (← get).turn with
  | .strand _ => modStrand fun t => { t with returns := t.returns ++ [(d, v)] }
  | .cc _ => gW d v

/-- BNKRD (R336). -/
def bnkrdM (f64 : Bool) (fmt : FFmt) (zero : Bool) (d a : GReg) : M Unit := do
  let va ← gR a
  require (va.toNat % 64 == 0 && (!f64 || decide (va.toNat % 512 + 320 ≤ 512))) cMisaligned va
  let cell ← bankCell (if zero then .rw else .load) va
  let n := exaBytes f64
  awaitBank cell n
  checkLost cell n .access
  let slot ← readCell cell n
  if zero then writeCell cell n 0 else pure ()
  bankReturn d (BitVec.ofNat 64 (exaRead f64 slot fmt))
  advance

/-- The element type that selects a slot: FP64 or not (R337). -/
def exaKind (et : Nat) : Option Bool := if et = 0 ∨ et = 3 then some false else if et = 1 then some true else none

/-- The lowest of some addresses. -/
def lowestVa (l : List Word) : Option Word :=
  l.foldl (fun m va => match m with
    | some x => if va.toNat < x.toNat then some va else some x
    | none => some va) none

/-- The cells of the slots of BNKEXA's elements, checked (R337, R338): misalignment first, then the other traps, each at the
lowest faulting slot address. -/
def exaCells (f64 : Bool) (vas : List Word) : M (List Nat) := do
  match lowestVa (vas.filter fun va => va.toNat % 64 != 0 || (f64 && decide (512 < va.toNat % 512 + 320))) with
  | some va => trap cMisaligned va
  | none =>
    let rs ← vas.mapM (tryBank .rw)
    let bad := (vas.zip rs).filterMap fun e => match e.2 with
      | .error t => some (e.1, t)
      | .ok _ => none
    match lowestVa (bad.map (·.1)) with
    | some va => throw (.trap ((bad.find? fun e => e.1 == va).elim { cause := cTranslation, tval := va, acc := 3, page := true } (·.2)))
    | none =>
      let ps := (vas.zip rs).filterMap fun e => match e.2 with
        | .ok p => some (p, p.cell e.1.toNat)
        | .error _ => none
      if Config.maxPages < (ps.map fun p => p.1.vbase).eraseDups.length then trapPage cShape 0 0
      return ps.map (·.2)

/-- BNKEXA (R337). -/
def bnkexaM (i : Instr) (r0 : VReg) (a : GReg) (b : VReg) (mk : MReg) (me : Bool) : M Unit := do
  let m := modsOf mk me
  let v ← view
  requireState i (me || mk.val == 0)
  match exaKind v.et with
  | none => trap cIllegal (wordOf i)
  | some f64 =>
    requireState i ((v.span r0).ok && (v.spanOf b 32).ok)
    needNumber pBnk
    let t ← strand
    let base ← gR a
    let sel := t.selected v m
    let idx := t.image v.regBits (v.spanOf b 32)
    let src := t.image v.regBits (v.span r0)
    let cells ← exaCells f64 (sel.map fun k => base + BitVec.ofInt 64 (toSigned 32 (elemAt 32 idx k)))
    let adds := cells.zip (sel.map fun k => BitVec.ofNat 64 (elemAt v.w src k))
    let n ← numberOp pBnk (.exact adds f64 (v.et == 3))
    if adds.isEmpty then completeOp (← ctx).val pBnk n none else pure ()
    advance

/-- BNKOP_ADD (R335): Performs a bank-ALU add and returns the old value. -/
def execBnkopAdd (d : GReg) (a : GReg) (b : GReg) (s : State) : Host.Outcome State Fault Refusal :=
  perform (.bnkopAdd d a b) (bnkopM (.bnkopAdd d a b) .add d a b) s

/-- BNKOP_MIN (R335): Performs a bank-ALU signed minimum. -/
def execBnkopMin (d : GReg) (a : GReg) (b : GReg) (s : State) : Host.Outcome State Fault Refusal :=
  perform (.bnkopMin d a b) (bnkopM (.bnkopMin d a b) .min d a b) s

/-- BNKOP_MAX (R335): Performs a bank-ALU signed maximum. -/
def execBnkopMax (d : GReg) (a : GReg) (b : GReg) (s : State) : Host.Outcome State Fault Refusal :=
  perform (.bnkopMax d a b) (bnkopM (.bnkopMax d a b) .max d a b) s

/-- BNKOP_MINN (R335): Performs a bank-ALU unsigned minimum. -/
def execBnkopMinn (d : GReg) (a : GReg) (b : GReg) (s : State) : Host.Outcome State Fault Refusal :=
  perform (.bnkopMinn d a b) (bnkopM (.bnkopMinn d a b) .minn d a b) s

/-- BNKOP_MAXN (R335): Performs a bank-ALU unsigned maximum. -/
def execBnkopMaxn (d : GReg) (a : GReg) (b : GReg) (s : State) : Host.Outcome State Fault Refusal :=
  perform (.bnkopMaxn d a b) (bnkopM (.bnkopMaxn d a b) .maxn d a b) s

/-- BNKOP_AND (R335): Performs a bank-ALU AND. -/
def execBnkopAnd (d : GReg) (a : GReg) (b : GReg) (s : State) : Host.Outcome State Fault Refusal :=
  perform (.bnkopAnd d a b) (bnkopM (.bnkopAnd d a b) .and d a b) s

/-- BNKOP_OR (R335): Performs a bank-ALU OR. -/
def execBnkopOr (d : GReg) (a : GReg) (b : GReg) (s : State) : Host.Outcome State Fault Refusal :=
  perform (.bnkopOr d a b) (bnkopM (.bnkopOr d a b) .or d a b) s

/-- BNKOP_XOR (R335): Performs a bank-ALU XOR. -/
def execBnkopXor (d : GReg) (a : GReg) (b : GReg) (s : State) : Host.Outcome State Fault Refusal :=
  perform (.bnkopXor d a b) (bnkopM (.bnkopXor d a b) .xor d a b) s

/-- BNKOP_SWAP (R335): Performs a bank-ALU swap. -/
def execBnkopSwap (d : GReg) (a : GReg) (b : GReg) (s : State) : Host.Outcome State Fault Refusal :=
  perform (.bnkopSwap d a b) (bnkopM (.bnkopSwap d a b) .swap d a b) s

/-- BNKOP_CAS (R335): Performs a bank-ALU compare-and-swap against gd. -/
def execBnkopCas (d : GReg) (a : GReg) (b : GReg) (s : State) : Host.Outcome State Fault Refusal :=
  perform (.bnkopCas d a b) (bnkopM (.bnkopCas d a b) .cas d a b) s

/-- BNKOP_FADD32 (R335): Performs an arrival-order FP32 add at the bank. -/
def execBnkopFadd32 (d : GReg) (a : GReg) (b : GReg) (s : State) : Host.Outcome State Fault Refusal :=
  perform (.bnkopFadd32 d a b) (bnkopM (.bnkopFadd32 d a b) .fadd32 d a b) s

/-- BNKOP_FADD64 (R335): Performs an arrival-order FP64 add at the bank. -/
def execBnkopFadd64 (d : GReg) (a : GReg) (b : GReg) (s : State) : Host.Outcome State Fault Refusal :=
  perform (.bnkopFadd64 d a b) (bnkopM (.bnkopFadd64 d a b) .fadd64 d a b) s

/-- BNKRD_F32 (R336): Reads a 64-byte exact-accumulate slot as FP32. -/
def execBnkrdF32 (d : GReg) (a : GReg) (s : State) : Host.Outcome State Fault Refusal :=
  perform (.bnkrdF32 d a) (bnkrdM false fp32 false d a) s

/-- BNKRD_BF16 (R336): Reads a 64-byte exact-accumulate slot as BF16. -/
def execBnkrdBf16 (d : GReg) (a : GReg) (s : State) : Host.Outcome State Fault Refusal :=
  perform (.bnkrdBf16 d a) (bnkrdM false bf16 false d a) s

/-- BNKRD_F64 (R336): Reads a 320-byte exact-accumulate slot as FP64. -/
def execBnkrdF64 (d : GReg) (a : GReg) (s : State) : Host.Outcome State Fault Refusal :=
  perform (.bnkrdF64 d a) (bnkrdM true fp64 false d a) s

/-- BNKRD_F32_Z (R336): Reads a 64-byte slot as FP32 and zeroes it. -/
def execBnkrdF32Z (d : GReg) (a : GReg) (s : State) : Host.Outcome State Fault Refusal :=
  perform (.bnkrdF32Z d a) (bnkrdM false fp32 true d a) s

/-- BNKRD_BF16_Z (R336): Reads a 64-byte slot as BF16 and zeroes it. -/
def execBnkrdBf16Z (d : GReg) (a : GReg) (s : State) : Host.Outcome State Fault Refusal :=
  perform (.bnkrdBf16Z d a) (bnkrdM false bf16 true d a) s

/-- BNKRD_F64_Z (R336): Reads a 320-byte slot as FP64 and zeroes it. -/
def execBnkrdF64Z (d : GReg) (a : GReg) (s : State) : Host.Outcome State Fault Refusal :=
  perform (.bnkrdF64Z d a) (bnkrdM true fp64 true d a) s

/-- BNKEXA (R337): Adds each selected element exactly into a bank slot. -/
def execBnkexa (r0 : VReg) (a : GReg) (b : VReg) (mk : MReg) (me : Bool) (s : State) : Host.Outcome State Fault Refusal :=
  perform (.bnkexa r0 a b mk me) (bnkexaM (.bnkexa r0 a b mk me) r0 a b mk me) s

end Sys2Proof.Machine

end
end

