-- ==== Sys2Proof/Machine/Lanes.lean ====
section
/-! DEFINITION. Length, type and shape grants, and changes of LGMAP (10 R241-R244, 07 R166-R169, 12 R301, R302). -/

noncomputable section

namespace Sys2Proof.Machine

/-- VL and VPAD granted for a request under a VTYPE (R241). -/
def grantLength (groups req : Nat) (vtype : Word) : Nat × Nat :=
  let m := Nat.min req (vlmaxOf groups (fieldOf vtype 4 0) (2 ^ fieldOf vtype 13 12))
  let g := if bitOf vtype 5 then roundUp m 32 else m
  (g, g - m)

/-- K quantum and a quarter of the bits per element of a matrix operand type (Table 1 of 12): quarters keep the scale
bytes of packed types exact. -/
def matQuantum (et : Nat) : Option (Nat × Nat) :=
  match et with
  | 0x01 => some (16, 256)
  | 0x00 => some (16, 128)
  | 0x02 => some (32, 64)
  | 0x03 => some (32, 64)
  | 0x04 => some (32, 32)
  | 0x05 => some (32, 32)
  | 0x08 => some (32, 32)
  | 0x10 => some (32, 16)
  | et => (packedOf et).map fun f => (32, f.blockBytes)

/-- The M grant: 16 rows fewer at a time until one K quantum fits (R301); `fuel` bounds the steps. -/
def fitRows (unit cap : Nat) : Nat → Nat → Nat
  | 0, mg => mg
  | fuel + 1, mg => if 16 < mg ∧ cap < mg * unit then fitRows unit cap fuel (mg - 16) else mg

/-- The grants of TSHAPE for three requests on P lane groups (R301). -/
def grantShape (groups et m n k : Nat) : Option (Nat × Nat × Nat) :=
  (matQuantum et).map fun (kq, bits4) =>
    let cap := 8 * groups * 2048 * 4
    let mg := fitRows (kq * bits4) cap 8 (roundUp (Nat.min m 128) 16)
    let kg := roundUp (Nat.min k 512) kq
    (mg, roundUp (Nat.min n 128) 16, if 0 < mg then Nat.min kg (kq * (cap / (mg * kq * bits4))) else kg)

/-- A shape register with a grant (Table 9 of 08). -/
def shapeWord (req grant : Nat) : Word := BitVec.ofNat 64 (req * 2 ^ 32 + grant)

/-- Granting again from the saved requests: VL, VPAD and the shape (R169, R302, R404). -/
def Captured.regrant (c : Captured) (groups : Nat) : Captured :=
  let req := fieldOf c.vl 63 32
  let (len, pad) := grantLength groups req c.vtype
  let (mg, ng, kg) := (grantShape groups (fieldOf c.vtype 4 0) (fieldOf c.tm 63 32) (fieldOf c.tn 63 32)
    (fieldOf c.tk 63 32)).getD (0, 0, 0)
  { c with
    vl := BitVec.ofNat 64 (req * 2 ^ 32 + len), vpad := BitVec.ofNat 64 pad
    tm := shapeWord (fieldOf c.tm 63 32) mg, tn := shapeWord (fieldOf c.tn 63 32) ng, tk := shapeWord (fieldOf c.tk 63 32) kg }

/-- Granting again everywhere the strand holds a grant: its registers and what stands in its queue (R169). -/
def Strand.regrant (t : Strand) (groups : Nat) : Strand :=
  { t.withCaptured (t.capture.regrant groups) with
    saved := t.saved.map fun c => c.regrant groups
    iq := t.iq.map fun f => { f with cap := f.cap.regrant groups } }

/-- Ending the streams that deliver into q4 and q5, as GSTOP does (R169, R345). -/
def Strand.endQueueStreams (t : Strand) : Strand :=
  (t.ops.filter fun o => o.streamsInto 0 || o.streamsInto 1).foldl (fun t o => t.complete o.path o.n none) t

/-- Ending every active Geyser stream, as GSTOP does (R345, R400). -/
def Strand.endStreams (t : Strand) : Strand :=
  (t.ops.filter fun o => o.path == pGey && !o.complete).foldl (fun t o => t.complete o.path o.n none) t

/-- What a strand loses when its partition changes (R169); places that forwarded loads hold stay theirs. -/
def Strand.loseLanes (t : Strand) (groups : Nat) : Strand :=
  let t := t.endQueueStreams.regrant groups
  { t with
    v := Vector.replicate 32 0, m := Vector.replicate 16 0, f := Vector.replicate 8 Fibre.empty, fm := 0
    qv := t.qv.map fun l => l.filter fun e => e.awaits == some .load
    hart := { t.hart with status := setBit t.hart.status 20 true } }

/-- Whether a trap has stopped a strand, and not a request to stop (R381, R409). -/
def Strand.trapStopped (t : Strand) : Bool := t.cond == .stopped && t.stop.isNone

/-- A change of LGMAP, at one point for the whole core: every strand whose partition changes loses its lane state, and every
reservation of the core is cleared (R169, R212); what a fault frame holds stays as it is, and at a retirement so does a strand
that a trap has stopped (R409). -/
def setLgmap (core : Nat) (new : Word) (retires : Bool) : M Unit := do
  let old := ((← get).core core).lgmap
  if old = new then pure ()
  else
    modCore core fun k => { k with lgmap := new }
    forN 8 fun i => do
      let c := core * 8 + i
      match (← get).strand? c with
      | some t =>
        let t := { t with hart := { t.hart with resv := none }, vresv := [] }
        let part := partitionOf new c
        modify fun s => s.setStrand c
          (if partitionOf old c = part ∨ t.frame.isSome ∨ (retires && t.trapStopped) then t else t.loseLanes part.length)
      | none => pure ()

/-- Whether an instruction is a VSPLIT or VFUSE. -/
def changesLanes (i : Instr) : Bool :=
  match i with
  | .vsplit .. => true
  | .vfuse => true
  | _ => false

/-- Whether a strand's queue holds an instruction that was issued before another strand's change of LGMAP (R169). -/
def Strand.beforeSplit (t : Strand) : Bool :=
  match t.iq with
  | f :: _ => !changesLanes f.instr
  | [] => false

/-- A strand that was asked to stop and whose operations are complete has stopped; TPC names its next instruction, and TCAUSE says
whether it stands inside a replay or a block (R400, R406, R407). -/
def Strand.finishStop (t : Strand) : Strand :=
  if t.cond = .stopped then { t with hart := { t.hart with resv := none }, vresv := [] }
  else
    { t with
      cond := .stopped, vresv := [], dataErr := none
      hart := { t.hart with
        tpc := t.hart.pc, resv := none
        tcause := setBit (setBit t.hart.tcause 13 (t.inReplay t.hart.pc)) 14 (t.blkpt.isSome && !t.hart.upc) } }

/-- Operations and bank results that a stopping strand still waits for (R400, R401). -/
def Strand.busy (t : Strand) : Bool := !t.ops.isEmpty || !t.returns.isEmpty || !t.awaitsBank.isEmpty

/-- Whether a strand has something left to do before others may go on without it. -/
def Strand.pendingWork (t : Strand) : Bool :=
  match t.stop with
  | some _ => t.cond != .stopped || t.busy
  | none => t.beforeSplit

/-- The other strands of a core whose queued instructions a change of LGMAP waits for (R169). -/
def State.splitPeers (s : State) (core : Nat) (me : Nat) : List Ctx :=
  (List.range 8).filterMap fun i =>
    let c := core * 8 + i
    match s.strand? c with
    | some t => if c ≠ me && t.beforeSplit then some (Fin.ofNat 32768 c) else none
    | none => none

/-- VSPLIT and VFUSE: the change waits until the core's execute sides have performed what was issued before it (R169). -/
def splitTo (new : Word → Word) : M Unit := do
  let c ← ctx
  let peers := (← get).splitPeers (coreNum c) c.val
  if peers.isEmpty then
    setLgmap (coreNum c) (new ((← get).core (coreNum c)).lgmap) false
    advance
  else sleepOn (.others peers)

/-- VSPLIT (R244). -/
def vsplitM (a b : GReg) : M Unit := do
  let p ← gR a
  let q ← gR b
  require (fieldOf p 63 2 == 0) cShape p
  require (fieldOf q 63 24 == 0) cShape q
  splitTo fun w => setField (setField w 41 40 (fieldOf p 1 0)) 23 0 (fieldOf q 23 0)

/-- Whether a word is an image of VTYPE that VSETL accepts (R241). -/
def vtypeOk (w : Word) : Bool :=
  fieldOf w 63 24 == 0 && fieldOf w 19 17 == 0 && fieldOf w 11 6 == 0 && (classXCode (fieldOf w 4 0) || classPCode (fieldOf w 4 0)) &&
    (rmodeOf (fieldOf w 16 14) 0).isSome && (!classPCode (fieldOf w 4 0) || bitOf w 5)

/-- VSETL (R241). -/
def vsetlM (d a b : GReg) : M Unit := do
  let r ← gR a
  let w ← gR b
  require (vtypeOk w) cIllegal w
  let p := (← get).groupsOf (← ctx)
  let (len, pad) := grantLength p r.toNat w
  modStrand fun t =>
    { t with vtype := w, vl := BitVec.ofNat 64 (Nat.min r.toNat 0xFFFFFFFF * 2 ^ 32 + len), vpad := BitVec.ofNat 64 pad }
  gW d (BitVec.ofNat 64 len)
  advance

/-- VSETMF (R243). -/
def vsetmfM (a : GReg) : M Unit := do
  let w ← gR a
  require (decide (w.toNat ≤ 0xC)) cIllegal w
  modStrand fun t => { t with mfmt := w }
  advance

/-- TSHAPE (R301). -/
def tshapeM (i : Instr) (g : GReg) : M Unit := do
  let t ← strand
  let m := Nat.min (← gR g).toNat 0xFFFFFFFF
  let n := Nat.min (← gR (Fin.ofNat 32 (g.val + 1))).toNat 0xFFFFFFFF
  let k := Nat.min (← gR (Fin.ofNat 32 (g.val + 2))).toNat 0xFFFFFFFF
  match grantShape ((← get).groupsOf (← ctx)) (fieldOf t.vtype 4 0) m n k with
  | none => trap cIllegal (wordOf i)
  | some (mg, ng, kg) =>
    modStrand fun t => { t with tm := shapeWord m mg, tn := shapeWord n ng, tk := shapeWord k kg }
    advance

/-- VSETL (R241): Sets VTYPE and grants VL and VPAD from the request. -/
def execVsetl (d : GReg) (a : GReg) (b : GReg) (s : State) : Host.Outcome State Fault Refusal :=
  perform (.vsetl d a b) (vsetlM d a b) s

/-- VSETMF (R243): Sets MFMT.FMT. -/
def execVsetmf (a : GReg) (s : State) : Host.Outcome State Fault Refusal :=
  perform (.vsetmf a) (vsetmfM a) s

/-- VSPLIT (R244): Sets LGMAP.PSIZE and PART, re-forming the core's partitions. -/
def execVsplit (a : GReg) (b : GReg) (s : State) : Host.Outcome State Fault Refusal :=
  perform (.vsplit a b) (vsplitM a b) s

/-- VFUSE (R244): Sets LGMAP.PSIZE to eight lane groups. -/
def execVfuse (s : State) : Host.Outcome State Fault Refusal :=
  perform (.vfuse) (splitTo fun w => setField w 41 40 3) s

/-- TSHAPE (R301): Negotiates the tile-shape grants TM, TN and TK from the requests. -/
def execTshape (g : GReg) (s : State) : Host.Outcome State Fault Refusal :=
  perform (.tshape g) (tshapeM (.tshape g) g) s

end Sys2Proof.Machine

end
end

