-- ==== Sys2Proof/Machine/Context.lean ====
section
/-! DEFINITION. Binding and freeing contexts, and the portable save layout (15 R374, R380; 16 R397-R405). -/

noncomputable section

namespace Sys2Proof.Machine

/-- Running a part as another agent, whose turn ends with it; a trap in the part only shortens it.  Answers whether it
ended. -/
def asAgent (a : Agent) (m : M Unit) : M Bool := do
  let s ← get
  let (s', ok) := attempt m { s with turn := a }
  set { s' with turn := s.turn }
  return ok

/-- The pages of a range of memory of an accumulator store: zeroing n bytes from an offset. -/
def Cells.clear (m : Cells) (off n : Nat) : Cells := m.filter fun e => !(decide (off ≤ e.1) && decide (e.1 < off + n))

/-- Base and size of a strand's accumulator window in bytes; a window that does not fit has size 0 (R105). -/
def accWindow (accwin : Word) : Nat × Nat :=
  let b := fieldOf accwin 14 0
  let n := fieldOf accwin 46 32
  (b * 64, if b + n ≤ Config.accUnits then n * 64 else 0)

/-- ACCWIN of context c of a core with a size (R380, R404). -/
def accwinOf (c : Nat) (size : Nat) : Word := BitVec.ofNat 64 (size * 2 ^ 32 + c % 8 * 3072)

/-- The contexts of a quad. -/
def quadCtxs (q : Nat) : List Nat := (List.range 32).map fun i => 32 * q + i

/-- Whether some strand is bound on a quad (R104). -/
def State.quadBusy (s : State) (q : Nat) : Bool := (quadCtxs q).any fun c => (s.strand? c).isSome

/-- Whether a strand of a job may be bound on a quad: it is idle or holds that job (R104). -/
def State.quadTakes (s : State) (q : Nat) (job : BitVec 16) : Bool := !s.quadBusy q || (s.quad q).job == some job

/-- A quad passing to a job: its stores and communication registers are zeroed, the lost units of its stores cleared (R104,
R413). -/
def State.enterQuad (s : State) (q : Nat) (job : BitVec 16) : State :=
  if (s.quad q).job == some job then s
  else
    let s := (List.range 4).foldl (fun s i =>
      s.setCore (4 * q + i) { s.core (4 * q + i) with tile := [], acc := [], lost := [] }) s
    s.setQuad q { Quad.reset with job := some job, nextWindow := (s.quad q).nextWindow }

/-- A strand put into a free context: its quad passes to its job, its core's L1 is dropped and its window zeroed; it starts with an
acquire, by which no open multicast window serves it (R104, R108, R113, R159, R233). -/
def State.bind (s : State) (c : Nat) (t : Strand) : State :=
  let s := s.enterQuad (c / 32) (BitVec.ofNat 16 (jobOf t.hart.ptbase))
  let (base, size) := accWindow t.accwin
  let k := (s.core (c / 8)).l1Flush
  (s.setCore (c / 8) { k with acc := k.acc.clear base size }).setStrand c { t with placedAt := s.time, cred := 0, yielded := false, winClosed := (s.quad (c / 32)).nextWindow }

/-- A strand leaves the places where it waits: barriers and semaphores (R129, R329). -/
def State.withdraw (s : State) (c : Ctx) : State :=
  let q := quadNum c
  let s := s.setQuad q { s.quad q with waiting := (s.quad q).waiting.filter fun w => w.1 != c }
  { s with hub := { s.hub with
      episodes := (s.hub.episodes.map fun e => { e with arrived := e.arrived.filter fun x => x != c }).filter fun e =>
        !e.arrived.isEmpty } }

/-- A context becomes free. -/
def State.release (s : State) (c : Ctx) : State :=
  let s := s.withdraw c
  { s with strands := mapErase s.strands c.val }

/-- A strand is asked to stop: what it sleeps in is abandoned (R400). -/
def State.askStop (s : State) (c : Ctx) (k : StopKind) : State :=
  match s.strand? c.val with
  | some t =>
    let asleep := match t.cond with
      | .asleep _ => true
      | _ => false
    let s := if asleep then s.withdraw c else s
    s.setStrand c.val { t with stop := some k, cond := if asleep then .runnable else t.cond }
  | none => s

/-- The code handle of a number. -/
def State.handle? (s : State) (n : BitVec 32) : Option Handle := s.hub.handles.find? fun h => h.num == n

/-- The resident launch of an issuing module and a number (R375). -/
def State.launch? (s : State) (m : ModNum) (n : BitVec 32) : Option Launch :=
  s.hub.launches.find? fun l => l.issuer == m && l.number == n

/-- The resume point that governs an address (R200). -/
def State.resumeFor (s : State) (t : Strand) (pc : Word) : Option Word :=
  match s.handle? t.handle with
  | some h =>
    let off := (pc - h.code).toNat
    if off < h.size then
      ((h.resumes.filter fun r => decide (r ≤ off)).getLast?).map fun r => h.code + BitVec.ofNat 64 r
    else none
  | none => none

/-- Bytes [off, off + n) of an image, as a number (R2). -/
def le (img off n : Nat) : Nat := img / 256 ^ off % 256 ^ n

/-- The low w bits of n values, packed. -/
def le64 (img off : Nat) : Word := BitVec.ofNat 64 (le img off 8)

/-- Pieces of (bytes, value), one after the other: length and value. -/
def packPieces (l : List (Nat × Nat)) : Nat × Nat :=
  l.foldl (fun a p => (a.1 + p.1, a.2 + (p.2 % 256 ^ p.1) * 256 ^ a.1)) (0, 0)

/-- A k register as Table 5 of 04 lays it out. -/
def KState.image (k : KState) : Nat :=
  k.part.toNat + 2 ^ 64 * (k.cidx.toNat + (if k.prec then 64 else 0)) + 2 ^ 96 * k.nch.toNat +
    2 ^ 128 * packElems 64 (k.slot.toList.map (·.toNat))

/-- A k register from its image. -/
def KState.ofImage (n : Nat) : KState :=
  { slot := Vector.ofFn fun i => BitVec.ofNat 64 (elemAt 64 (n / 2 ^ 128) i.val), nch := BitVec.ofNat 32 (n / 2 ^ 96)
    prec := n / 2 ^ 70 % 2 == 1, cidx := BitVec.ofNat 6 (n / 2 ^ 64), part := BitVec.ofNat 64 n }

/-- Bytes of a value of an element type. -/
def bytesOfEt (et : Nat) : Nat :=
  match elemTyOf et with
  | some t => (t.width + 7) / 8
  | none => 0

/-- A fibre header (Table 1 of 11). -/
def Fibre.header (f : Fibre) : Nat := f.fet.val * 4096 + f.ord.val * 1024 + f.entries.length % 1024

/-- The accumulator range that ACCDECL keeps: whether it is well formed, its start and its length in units (Table 5). -/
def accDecl (d accwin : Word) : Bool × Nat × Nat :=
  let start := fieldOf d 14 0
  let len := fieldOf d 46 32
  (fieldOf d 63 47 == 0 && fieldOf d 31 15 == 0 && decide ((start + len) * 64 ≤ (accWindow accwin).2), start, len)

/-- The pieces of the fixed part of the layout (R402, Table 6): offset, bytes, value. -/
def Strand.layoutFixed (t : Strand) (groups : Nat) (decl : Word) (resume : Option Word) (length : Nat) :
    List (Nat × Nat × Nat) :=
  let h := t.hart
  let ups := t.armed ++ t.pending
  let words := fun (off : Nat) (l : List Word) => l.zipIdx.map fun (w, i) => (off + 8 * i, 8, w.toNat)
  let flags := (if h.upc then 1 else 0) + (if h.lact then 2 else 0) + (if t.ract then 4 else 0) +
    (if t.blkpt.isSome then 8 else 0) + (if resume.isNone then 16 else 0) +
    (match t.ede with
      | (p, n, _) :: _ => 32 + p.val * 256 + n.toNat * 2 ^ 32
      | [] => 0)
  [(0x000, 2, 1), (0x004, 4, length), (0x008, 8, h.tpc.toNat), (0x010, 8, (resume.getD h.tpc).toNat), (0x018, 8, flags)] ++
    words 0x020 ((0 : Word) :: h.g.toList.drop 1) ++
    words 0x120 [t.vl, t.vpad, t.vtype, t.mfmt, t.vprog, t.tm, t.tn, t.tk, t.share, t.slip, t.bypt, t.srseed, t.pivfloor,
      h.status, t.accwin, h.ptbase, h.tcause, h.tval, h.tframe, t.upra] ++
    words 0x1C0 [h.lbeg, h.lend, h.lrem] ++
    [(0x1D8, 8, groups)] ++
    words 0x1E0 [t.rbeg, t.rend, t.rrem, if t.ract then h.tpc - t.rbeg else 0] ++
    words 0x200 (t.cpl.toList.map fun c => BitVec.ofNat 64 (c.1.toNat * 2 ^ 32 + c.2.toNat)) ++
    ((t.blkpt.getD []).zipIdx.map fun (x, i) => (0x230 + 4 * i, 4, x)) ++
    words 0x240 (t.d.toList.map fun d => d.zeroExtend 64) ++
    words 0x280 t.shadow.toList ++
    (ups.take 8).zipIdx.flatMap (fun (u, i) =>
      [(0x2A0 + 16 * i, 8, u.1.toNat), (0x2A8 + 16 * i, 4, u.2.2.toNat), (0x2AC + 16 * i, 1, u.2.1.val), (0x2AD + 16 * i, 1, 1)]) ++
    words 0x320 (t.pending.map fun u => BitVec.ofNat 64 (2 ^ 63 + u.2.1.val * 2 ^ 32 + u.2.2.toNat)) ++
    t.k.toList.zipIdx.map (fun (k, i) => (0x360 + 272 * i, 272, k.image)) ++
    t.qs.toList.zipIdx.flatMap (fun (q, i) => words (0x7A0 + 136 * i) (BitVec.ofNat 64 q.length :: q)) ++
    t.qr.toList.zipIdx.flatMap (fun (q, i) => words (0x9C0 + 136 * i) (BitVec.ofNat 64 q.length :: q.map fun e =>
      match e with
      | .value v => v
      | .awaits _ _ => 0)) ++
    words 0xAD0 (t.f.toList.map fun f => BitVec.ofNat 64 f.header) ++
    words 0xB10 [decl] ++
    words 0xB18 (t.timeouts.map fun x => BitVec.ofNat 64 (2 ^ 63 + x.toNat)) ++
    words 0xB58 [t.handle.zeroExtend 64, BitVec.ofNat 64 (t.launchNum.toNat * 2 ^ 32 + t.launchMod.val)]

/-- Bytes of LEN elements of w bits. -/
def bitsToBytes (n : Nat) : Nat := (n + 7) / 8

/-- Bytes of the elements of one register group that a layout holds: whole blocks for a packed type (R402). -/
def groupBytes (et len : Nat) : Nat :=
  match packedOf et with
  | some p => len / 32 * p.blockBytes
  | none => match elemTyOf et with
    | some t => bitsToBytes (len * t.width)
    | none => 0

/-- The sections of the variable part (R402), each a list of pieces. -/
def Strand.layoutVar (t : Strand) (regBits : Nat) (acc : Nat) (accBytes : Nat) : List (List (Nat × Nat)) :=
  let len := fieldOf t.vl 31 0
  let et := fieldOf t.vtype 4 0
  let grp := 2 ^ fieldOf t.vtype 13 12
  let mb := roundUp (bitsToBytes len) 8
  let gb := groupBytes et len
  [t.f.toList.flatMap fun f =>
      let vb := bytesOfEt f.fet.val
      let n := f.entries.length
      [(4 * n, packElems 32 (f.entries.map fun e => e.1.toNat)),
       (roundUp (4 * n + vb * n) 8 - 4 * n, packElems (8 * vb) (f.entries.map fun e => e.2.toNat))],
    (t.m.toList ++ [t.fm]).map fun m => (mb, m.toNat % 2 ^ len),
    (List.range (32 / grp)).map fun j => (roundUp gb 8, t.image regBits ⟨j * grp, grp⟩ % 256 ^ gb),
    t.qv.toList.flatMap fun q => (8, q.length) :: q.flatMap fun e =>
      [(8, e.count + e.width * 2 ^ 32), (roundUp (bitsToBytes (e.count * e.width)) 8, e.bits % 2 ^ (e.count * e.width))],
    [(accBytes, acc)]]

/-- The whole layout: its length in bytes and its image (R402). -/
def Strand.layout (t : Strand) (groups : Nat) (acc : Cells) (decl : Word) (resume : Option Word) : Nat × Nat :=
  let (base, _) := accWindow t.accwin
  let (_, start, units) := accDecl decl t.accwin
  let var := (t.layoutVar (groups * 2048) (acc.read (base + start * 64) (units * 64)) (units * 64)).foldl (fun a ps =>
    let (n, v) := packPieces ps
    let at' := roundUp a.1 64
    (at' + n, a.2 + v * 256 ^ at')) (0xC00, 0)
  (var.1, (t.layoutFixed groups decl resume var.1).foldl (fun a p => a + (p.2.2 % 256 ^ p.2.1) * 256 ^ p.1) var.2)

/-- The state that a layout saves of a strand: its registers, but not what its context is. -/
def Strand.savedLayout (s : State) (c : Ctx) (t : Strand) (decl : Word) : Nat × Nat :=
  t.layout (s.groupsOf c) (s.core (coreNum c)).acc decl (s.resumeFor t t.hart.tpc)

/-- Recording a saved strand in place of what was recorded of it before. -/
def Hub.remember (h : Hub) (x : SavedStrand) : Hub :=
  { h with saved := x :: h.saved.filter fun y => !(y.launch == x.launch && y.rank == x.rank) }

/-- Writing the layout of a stopped strand at an address through the executing agent's tables, with the ACCDECL that stands
0x1000 before it; answers false where ACCDECL is malformed (R397, R401, R402). -/
def saveContext (c : Ctx) (va : Word) : M Bool := do
  let t ← strandAt c.val
  let decl := BitVec.ofNat 64 (← loadBytes (va - 0x1000) 8)
  if !(accDecl decl t.accwin).1 then return false
  else
    let (n, img) := Strand.savedLayout (← get) c t decl
    storeBytes va n img
    modHub fun h => h.remember { launch := (t.launchMod, t.launchNum), rank := t.rank, seeded := t.seeded }
    return true

/-- A number with the bits set that spans (offset, length) name. -/
def spanMask (l : List (Nat × Nat)) : Nat := l.foldl (fun a p => a ||| ((2 ^ p.2 - 1) <<< p.1)) 0

/-- Bits of the fixed part that Table 6 names; g0 and the bytes that it does not name are zero, and so are bits 31:12 of LAUNCH. -/
def layoutNamed : Nat :=
  let bytes := fun (l : List (Nat × Nat)) => l.map fun p => (8 * p.1, 8 * p.2)
  spanMask (bytes ([(0x000, 2), (0x004, 0x16), (0x01C, 4), (0x028, 0x1D9 - 0x028), (0x1E0, 0x2A0 - 0x1E0), (0x360, 0xB18 - 0x360),
      (0xB58, 4), (0xB64, 4)] ++ (List.range 8).map (fun i => (0x2A0 + 16 * i, 14)) ++
      (List.range 8).flatMap (fun i => [(0x320 + 8 * i, 5), (0x327 + 8 * i, 1)]) ++
      (List.range 8).flatMap fun i => [(0xB18 + 8 * i, 4), (0xB1F + 8 * i, 1)]) ++ [(8 * 0xB60, 12)])

/-- A queue of up to 16 words in a layout. -/
def layoutQueue (img off : Nat) : List Word := (List.range (Nat.min (le img off 8) 16)).map fun i => le64 img (off + 8 + 8 * i)

/-- The armed upcalls of a layout, in its order. -/
def layoutUpcalls (img : Nat) : List (Word × Fin 6 × BitVec 32) :=
  (List.range 8).filterMap fun i =>
    if le img (0x2AD + 16 * i) 1 % 2 = 1 then
      some (le64 img (0x2A0 + 16 * i), Fin.ofNat 6 (le img (0x2AC + 16 * i) 1), BitVec.ofNat 32 (le img (0x2A8 + 16 * i) 4))
    else none

/-- The pending upcalls of a layout take their handlers from its armed ones; what is left stays armed. -/
def splitUpcalls (ups : List (Word × Fin 6 × BitVec 32)) (pend : List (Fin 6 × BitVec 32)) :
    List (Word × Fin 6 × BitVec 32) × List (Word × Fin 6 × BitVec 32) :=
  pend.foldl (fun a p =>
    match a.1.find? fun u => u.2 == p with
    | some u => (a.1.erase u, a.2 ++ [u])
    | none => a) (ups, [])

/-- The scalar side and the special registers of a layout (R404 step 1); RSVD bits of a
register are not stored (R6). -/
def Strand.ofLayout (c : Nat) (fresh : Nat) (img : Nat) (seeded : Bool) : Strand :=
  let w := fun (off : Nat) => le64 img off
  let flags := w 0x018
  let resume := w 0x010
  let inLoop := bitOf flags 1 && decide ((w 0x1C0).toNat ≤ resume.toNat) && decide (resume.toNat ≤ (w 0x1C8).toNat)
  let inReplay := bitOf flags 2 && decide ((w 0x1E0).toNat ≤ resume.toNat) && decide (resume.toNat < (w 0x1E8).toNat)
  let ups := splitUpcalls (layoutUpcalls img) ((List.range 8).filterMap fun i =>
    let x := w (0x320 + 8 * i)
    if bitOf x 63 then some (Fin.ofNat 6 (fieldOf x 34 32), BitVec.ofNat 32 x.toNat) else none)
  { Strand.initial with
    hart := { Hart.zero with
      g := Vector.ofFn fun i => if i.val = 0 then 0 else w (0x020 + 8 * i.val), pc := resume
      status := setBit (setBit (w 0x188 &&& 0xE0F01F1F) 20 true) 21 (bitOf flags 0), tcause := w 0x1A0 &&& 0xFEFF, tpc := w 0x008, tval := w 0x1A8
      tframe := w 0x1B0, ptbase := w 0x198 &&& 0xFFFFFFFFFFF00000, lact := inLoop, lbeg := w 0x1C0, lend := w 0x1C8, lrem := w 0x1D0 }
    k := Vector.ofFn fun i => KState.ofImage (le img (0x360 + 272 * i.val) 272)
    d := Vector.ofFn fun i => BitVec.ofNat 32 (le img (0x240 + 8 * i.val) 8)
    qs := Vector.ofFn fun i => layoutQueue img (0x7A0 + 136 * i.val)
    qr := Vector.ofFn fun i => (layoutQueue img (0x9C0 + 136 * i.val)).map .value
    vl := w 0x120, vpad := w 0x128 &&& 0x3F, vtype := w 0x130 &&& 0xF1F03F, mfmt := w 0x138 &&& 0xF,
    vprog := w 0x140 &&& 0xF0000000FFFFFFFF, tm := w 0x148, tn := w 0x150
    tk := w 0x158, share := w 0x160 &&& 0xF, slip := w 0x168 &&& 0xF, bypt := w 0x170 &&& 0xFFFFFFFF, srseed := w 0x178
    seeded := seeded
    pivfloor := w 0x180, accwin := accwinOf c (fieldOf (w 0x190) 46 32), upra := w 0x1B8
    cpl := Vector.ofFn fun i => (BitVec.ofNat 32 (le img (0x204 + 8 * i.val) 4), BitVec.ofNat 32 (le img (0x200 + 8 * i.val) 4))
    armed := ups.1, pending := ups.2, shadow := Vector.ofFn fun i => w (0x280 + 8 * i.val)
    ract := inReplay, rbeg := w 0x1E0, rend := w 0x1E8, rrem := w 0x1F0
    blkpt := if bitOf flags 3 && resume == w 0x008 then some ((List.range 4).map fun i => le img (0x230 + 4 * i) 4) else none
    ede := if bitOf flags 5 then [(Fin.ofNat 6 (fieldOf flags 10 8), BitVec.ofNat 32 (fieldOf flags 63 32), Config.openTval fresh)]
      else []
    timeouts := (List.range 8).filterMap fun i =>
      let x := w (0xB18 + 8 * i)
      if bitOf x 63 then some (BitVec.ofNat 32 x.toNat) else none
    launchMod := Fin.ofNat 4096 (le img 0xB60 2), launchNum := BitVec.ofNat 32 (le img 0xB64 4)
    handle := BitVec.ofNat 32 (le img 0xB58 4) }

/-- The fibres of a layout, from an offset: the registers and where they end. -/
def layoutFibres (img : Nat) : List Nat → Nat → List Fibre × Nat
  | [], off => ([], off)
  | i :: r, off =>
    let h := le64 img (0xAD0 + 8 * i)
    let n := fieldOf h 9 0
    let vb := bytesOfEt (fieldOf h 16 12)
    let (fs, fin) := layoutFibres img r (off + roundUp (4 * n + vb * n) 8)
    ({ fet := Fin.ofNat 32 (fieldOf h 16 12), ord := Fin.ofNat 4 (fieldOf h 11 10)
       entries := (List.range n).map fun j =>
         (BitVec.ofNat 32 (le img (off + 4 * j) 4), BitVec.ofNat 64 (le img (off + 4 * n + vb * j) vb)) } :: fs, fin)

/-- Entries of q4 or q5 in a layout, from an offset; `n` counts them. -/
def layoutEntries (img : Nat) : Nat → Nat → List VEntry × Nat
  | 0, off => ([], off)
  | n + 1, off =>
    let count := le img off 4
    let width := le img (off + 4) 1
    let (es, fin) := layoutEntries img n (off + 8 + roundUp (bitsToBytes (count * width)) 8)
    ({ count := count, width := width, bits := le img (off + 8) (bitsToBytes (count * width)), awaits := none } :: es, fin)

/-- The lane state of a layout (R404 step 3), and where its accumulator section starts. -/
def Strand.withLanes (t : Strand) (img regBits : Nat) : Strand × Nat :=
  let len := fieldOf t.vl 31 0
  let et := fieldOf t.vtype 4 0
  let grp := 2 ^ fieldOf t.vtype 13 12
  let mb := roundUp (bitsToBytes len) 8
  let gb := groupBytes et len
  let (fs, o1) := layoutFibres img (List.range 8) 0xC00
  let o2 := roundUp o1 64
  let o3 := roundUp (o2 + 17 * mb) 64
  let t := { t with
    f := Vector.ofFn fun i => fs.getD i.val Fibre.empty
    m := Vector.ofFn fun i => BitVec.ofNat 32768 (le img (o2 + mb * i.val) mb)
    fm := BitVec.ofNat 32768 (le img (o2 + mb * 16) mb) }
  let t := (List.range (32 / grp)).foldl (fun t j =>
    t.setImage regBits ⟨j * grp, grp⟩ (le img (o3 + roundUp gb 8 * j) gb)) t
  let o4 := roundUp (o3 + 32 / grp * roundUp gb 8) 64
  let (q4, o5) := layoutEntries img (Nat.min (le img o4 8) 4) (o4 + 8)
  let (q5, o6) := layoutEntries img (Nat.min (le img o5 8) 4) (o5 + 8)
  ({ t with qv := Vector.ofFn fun i => if i.val = 0 then q4 else q5 }, roundUp o6 64)

/-- The bytes that the fibre section of a layout names, from an offset, and where it ends. -/
def fibreSpans (img : Nat) : List Nat → Nat → List (Nat × Nat) × Nat
  | [], off => ([], off)
  | i :: r, off =>
    let h := le64 img (0xAD0 + 8 * i)
    let n := fieldOf h 9 0 * (4 + bytesOfEt (fieldOf h 16 12))
    let (l, fin) := fibreSpans img r (off + roundUp n 8)
    ((off, n) :: l, fin)

/-- The bytes that n entries of q4 or q5 name in a layout, from an offset, and where they end. -/
def entrySpans (img : Nat) : Nat → Nat → List (Nat × Nat) × Nat
  | 0, off => ([], off)
  | n + 1, off =>
    let b := bitsToBytes (le img off 4 * le img (off + 4) 1)
    let (l, fin) := entrySpans img n (off + 8 + roundUp b 8)
    ((off, 5) :: (off + 8, b) :: l, fin)

/-- The bytes that the variable part of a layout names; its padding is zero (R402, R404). -/
def layoutSpans (img : Nat) : List (Nat × Nat) :=
  let len := le img 0x120 4
  let vtype := le64 img 0x130
  let grp := 2 ^ fieldOf vtype 13 12
  let mb := bitsToBytes len
  let gb := groupBytes (fieldOf vtype 4 0) len
  let (fs, o1) := fibreSpans img (List.range 8) 0xC00
  let o2 := roundUp o1 64
  let o3 := roundUp (o2 + 17 * roundUp mb 8) 64
  let o4 := roundUp (o3 + 32 / grp * roundUp gb 8) 64
  let (q4, o5) := entrySpans img (Nat.min (le img o4 8) 4) (o4 + 8)
  let (q5, o6) := entrySpans img (Nat.min (le img o5 8) 4) (o5 + 8)
  fs ++ (List.range 17).map (fun i => (o2 + roundUp mb 8 * i, mb)) ++
    (List.range (32 / grp)).map (fun j => (o3 + roundUp gb 8 * j, gb)) ++ (o4, 8) :: q4 ++ (o5, 8) :: q5 ++
    [(roundUp o6 64, fieldOf (le64 img 0xB10) 46 32 * 64)]

/-- Whether a byte of a layout that must be zero is not (R402, R404). -/
def layoutDirty (img len : Nat) : Bool :=
  let named := layoutNamed ||| spanMask ((layoutSpans img).map fun p => (8 * p.1, 8 * p.2))
  (img % 256 ^ len) &&& named != img % 256 ^ len

/-- Whether a layout can be loaded at all: code 5 where it cannot (R404, R410). -/
def State.layoutBad (s : State) (img len : Nat) : Bool :=
  let accwin := le64 img 0x190
  let decl := le64 img 0xB10
  le img 0 2 != 1 || decide (0x1FF000 < len) || decide (len < 0xC00) || layoutDirty img len ||
    !(accDecl decl accwin).1 || (s.handle? (BitVec.ofNat 32 (le img 0xB58 4))).isNone ||
    (s.launch? (Fin.ofNat 4096 (le img 0xB60 2)) (BitVec.ofNat 32 (le img 0xB64 4))).isNone || bitOf (le64 img 0x1A0) 15

/-- Set bits of the low n of a word. -/
def bitList (n : Nat) (w : Word) : List Nat := (List.range n).filter fun i => bitOf w i

/-- Placement units of a launch: quads or dies of its mask, or modules (R373). -/
def Launch.units (l : Launch) : Nat :=
  match l.pkind.val with
  | 0 => (bitList 64 l.place1).length
  | 1 => (bitList 16 l.place0).length
  | _ => fieldOf l.place0 27 16 + 1

/-- Strands of the gang (R374). -/
def Launch.gang (l : Launch) : Nat := l.units * l.strands

/-- The gang rank whose save area starts at an address (R374, R397). -/
def Launch.rankAt (l : Launch) (area : Word) : Option Nat :=
  let off := (area - l.save).toNat
  let stride := l.savestride.toNat
  if stride = 0 then none else if off % stride = 0 ∧ off / stride < l.gang then some (off / stride) else none

/-- Rank and written mark of the strand of a layout at an address.  The layout holds neither: they are those of the strand that was
saved, found by its save area, and free where no saved strand is known (log 26). -/
def State.savedAs (s : State) (l : Launch) (va : Word) (srseed : Word) : Nat × Bool :=
  let known := s.hub.saved.filter fun x => x.launch == (l.issuer, l.number)
  let r := match l.rankAt (va - 0x1000), known with
    | some r, _ => r
    | none, x :: _ => x.rank
    | none, [] => Config.restoredRank s.fresh
  (r, match known.find? fun x => x.rank == r with
    | some x => x.seeded
    | none => srseed != 0 || Config.restoredSeed s.fresh)

/-- The strand of a layout in a free context (R404): steps 1 to 3 and 5.  Its save area is that of its rank (R397). -/
def State.restored (s : State) (c : Ctx) (img : Nat) (va : Word) : Strand × Nat :=
  let groups := s.groupsOf c
  let l := s.launch? (Fin.ofNat 4096 (le img 0xB60 2)) (BitVec.ofNat 32 (le img 0xB64 4))
  let (rank, seeded) := (l.map fun l => s.savedAs l va (le64 img 0x178)).getD (0, false)
  let saved := Strand.ofLayout c.val s.fresh img seeded
  let (lanes, accAt) := saved.withLanes img (fieldOf (le64 img 0x1D8) 3 0 * 2048)
  let t := if fieldOf (le64 img 0x1D8) 3 0 = groups then lanes else saved
  let t := t.withCaptured (t.capture.regrant groups)
  let sys := (s.handle? t.handle).any (·.system)
  ({ t with hart := { t.hart with status := setBit t.hart.status 22 sys }, rank := rank
            saveArea := (l.map fun l => l.save + BitVec.ofNat 64 rank * l.savestride).getD (va - 0x1000) }, accAt)

/-- Binding the strand of a layout (R404). -/
def State.load (s : State) (c : Ctx) (img : Nat) (save : Word) : State :=
  let (t, accAt) := s.restored c img save
  let gone := fun (x : SavedStrand) => x.launch == (t.launchMod, t.launchNum) && x.rank == t.rank
  let s := { s with fresh := s.fresh + 1, hub := { s.hub with saved := s.hub.saved.filter fun x => !gone x } }.bind c.val t
  let (_, start, units) := accDecl (le64 img 0xB10) t.accwin
  let (base, _) := accWindow t.accwin
  let k := s.core (coreNum c)
  s.setCore (coreNum c) { k with acc := k.acc.write (base + start * 64) (units * 64) (le img accAt (units * 64)) }

/-- CTXLOAD's code for a layout and a context (R404): 2, 4 or 5, or 0. -/
def State.loadCode (s : State) (c : Ctx) (img len : Nat) : Nat :=
  if (s.strand? c.val).isSome || !s.quadTakes (quadNum c) (BitVec.ofNat 16 (jobOf (le64 img 0x198))) then 2
  else if bitOf (le64 img 0x018) 4 && fieldOf (le64 img 0x1D8) 3 0 != s.groupsOf c then 4
  else if s.layoutBad img len then 5
  else 0

/-- Reading the layout at an address through the executing agent's tables: its length and its image.  A length beyond the room
leaves the header only. -/
def readLayout (va : Word) : M (Nat × Nat) := do
  let h ← loadBytes va 8
  let len := le h 4 4
  if len ≤ 0x1FF000 ∧ 0xC00 ≤ len then
    let img ← loadBytes va len
    return (len, img)
  else return (len, ← loadBytes va 0xC00)

end Sys2Proof.Machine

end
end

