-- ==== Sys2Proof/Machine/Launch.lean ====
section
/-! DEFINITION. Launches: descriptors, residence, retirement and abort (15 R373-R378), the dispatch unit of a die
(R379-R382), chains (R383) and the invalidation of translations (02 R42, 05 R120). -/

noncomputable section

namespace Sys2Proof.Machine

/-- Gang ranks whose strands a die of module m runs (R374). -/
def Launch.ranksOn (l : Launch) (m die : Nat) : List Nat :=
  match l.pkind.val with
  | 0 => if fieldOf l.place0 3 0 = die then List.range l.gang else []
  | 1 =>
    if bitOf l.place0 die then (List.range l.strands).map ((bitList die l.place0).length * l.strands + ·) else []
  | _ =>
    let first := fieldOf l.place0 11 0
    if first ≤ m ∧ m ≤ first + fieldOf l.place0 27 16 then
      (List.range (l.strands / 16)).map ((m - first) * l.strands + die * (l.strands / 16) + ·)
    else []

/-- Strands of a launch that module m runs. -/
def Launch.local (l : Launch) (m : Nat) : Nat := ((List.range 16).map fun d => (l.ranksOn m d).length).foldl (· + ·) 0

/-- Quads of a die that a launch may use, by their number in the module. -/
def Launch.quadsOn (l : Launch) (die : Nat) : List Nat :=
  (List.range 64).filterMap fun q => if l.pkind.val ≠ 0 || bitOf l.place1 q then some (64 * die + q) else none

/-- Whether a byte marked zero is not, or a field is out of range (R373, R375 code 1). -/
def descBad (d : Nat) : Bool :=
  let f := le d
  let place0 := f 72 8
  decide (7 < f 1 1) || decide (3 < f 3 1) || decide (15 < f 4 1) || decide (15 < f 5 1) || decide (3 < f 6 1) || decide (2 < f 7 1) ||
    f 16 4 == 0 || f 96 4 != 0 || f 100 28 != 0 ||
    (match f 7 1 with
      | 0 => decide (15 < place0) || f 80 8 == 0
      | 1 => decide (65535 < place0) || place0 == 0 || f 80 8 != 0
      | _ => place0 != bitsOf place0 11 0 + bitsOf place0 27 16 * 65536 || f 80 8 != 0)

/-- The launch that a descriptor asks for, before its number is given (Table 1). -/
def launchOf (m : ModNum) (d : Nat) : Launch :=
  let f := le d
  { issuer := m, number := 0, prio := Fin.ofNat 8 (f 1 1), chain := BitVec.ofNat 8 (f 2 1), repro := f 3 1 % 2 == 1
    runafter := f 3 1 / 2 % 2 == 1, slip := BitVec.ofNat 4 (f 4 1), share := BitVec.ofNat 4 (f 5 1), lgps := Fin.ofNat 4 (f 6 1)
    pkind := Fin.ofNat 3 (f 7 1), handle := BitVec.ofNat 32 (f 8 4), entry := f 12 4, strands := f 16 4, accsz := f 20 4
    param := BitVec.ofNat 64 (f 24 8), ptbase := BitVec.ofNat 64 (f 32 8), save := BitVec.ofNat 64 (f 40 8)
    savestride := BitVec.ofNat 64 (f 88 8), done := BitVec.ofNat 64 (f 48 8)
    preds := ((List.range 4).map fun i => BitVec.ofNat 32 (f (56 + 4 * i) 4)).filter fun p => p != 0
    predFailed := false, place0 := BitVec.ofNat 64 (f 72 8), place1 := BitVec.ofNat 64 (f 80 8), dispatched := false
    exited := 0, here := true, aborted := false
    othersLeft := if f 7 1 = 2 then
      ((List.range (bitsOf (f 72 8) 27 16 + 1)).filter fun i => bitsOf (f 72 8) 11 0 + i != m.val).length else 0 }

/-- The outcome of a retired launch (R377). -/
def Hub.outcome (h : Hub) (n : BitVec 32) : Option Nat := (h.history.find? fun e => e.1 == n).map (·.2)

/-- Whether a placement can never be met (R375 code 3). -/
def State.neverPlaced (s : State) (l : Launch) : Bool :=
  match l.pkind.val with
  | 0 => decide (32 < l.strands)
  | 1 => decide (2048 < l.strands)
  | _ =>
    let first := fieldOf l.place0 11 0
    decide (32768 < l.strands) || l.strands % 16 != 0 ||
      (List.range (fieldOf l.place0 27 16 + 1)).any fun i => decide (4095 < first + i) || !s.present (first + i)

/-- LAUNCH's refusal code for a new launch (Table 2); 0: it is accepted. -/
def State.launchCode (s : State) (d : Nat) (plainStrand : Bool) : Nat :=
  let l := launchOf s.moduleNum d
  if descBad d then 1
  else if !((s.handle? l.handle).any fun h => decide (l.entry < h.entries.length)) then 2
  else if s.neverPlaced l then 3
  else if l.preds.any fun p => (s.launch? s.moduleNum p).isNone && (s.hub.outcome p).isNone then 4
  else if 3072 < l.accsz then 5
  else if 65535 ≤ (s.hub.launches.filter (·.here)).length then 6
  else if plainStrand && (s.handle? l.handle).any (·.system) then 7
  else 0

/-- The next launch number that is not zero and not resident (R375); `fuel` bounds the search. -/
def State.freeNumber (s : State) : Nat → BitVec 32 → BitVec 32
  | 0, n => n
  | fuel + 1, n => if n = 0 ∨ (s.launch? s.moduleNum n).isSome then s.freeNumber fuel (n + 1) else n

/-- Accepting a launch: it is resident; predecessors that have retired are settled (R375-R377). -/
def State.accept (s : State) (l : Launch) : BitVec 32 × State :=
  let n := s.freeNumber 65537 s.hub.nextLaunch
  let failed := l.preds.any fun p => match s.hub.outcome p with
    | some o => o != 1 && (s.launch? s.moduleNum p).isNone
    | none => false
  let l := { l with number := n, preds := l.preds.filter fun p => (s.launch? s.moduleNum p).isSome, predFailed := failed }
  (n, { s with hub := { s.hub with launches := s.hub.launches ++ [l], nextLaunch := n + 1 } })

/-- Changing a resident launch. -/
def modLaunch (m : ModNum) (n : BitVec 32) (f : Launch → Launch) : M Unit := modHub fun h =>
  { h with launches := h.launches.map fun l => if l.issuer == m && l.number == n then f l else l }

/-- Whether a strand belongs to a launch. -/
def Strand.ofLaunch (t : Strand) (m : ModNum) (n : BitVec 32) : Bool := t.launchMod == m && t.launchNum == n

/-- The contexts whose strands satisfy a condition. -/
def State.ctxsWhere (s : State) (p : Ctx → Strand → Bool) : List Ctx :=
  s.strands.filterMap fun e => if p (Fin.ofNat 32768 e.1) e.2 then some (Fin.ofNat 32768 e.1) else none

/-- DEMOTE of a chain, issued to every stack; of chain 0 it has no effect (R61). -/
def demoteAll (c : BitVec 8) : M Unit := if c = 0 then pure () else forN 16 fun k => modStack k fun st => { st with demotes := st.demotes ++ [c] }

/-- The page of a hub access through a launch's tables, without a translation cache; none where it cannot be made. -/
def State.hubPage (s : State) (ptbase : Word) (va : Word) : Option PageTr :=
  if fieldOf va 63 56 ≠ 0 then none
  else
    match s.walkPage ptbase va.toNat with
    | .leaf l size pte => some { job := jobOf ptbase, vbase := va.toNat / size * size, size := size, leaf := l, pte := pte }
    | _ => none

/-- Writing the DONE word (R376). -/
def writeDone (l : Launch) (outcome : Nat) : M Unit := do
  let s ← get
  if l.done = 0 ∨ l.done.toNat % 8 ≠ 0 then pure ()
  else
    match s.hubPage l.ptbase l.done with
    | some p =>
      if leafDead p.leaf || !leafW p.leaf || p.converts || leafRD p.leaf ||
          pageUnmapped (leafBase p.leaf) (leafStored p.leaf p.size) (fun k => (s.stack k).act)
            (leafMod p.leaf == s.moduleNum.val) then pure ()
      else
        let _ ← asAgent (.cc 0) (do
          touchFrame p l.done.toNat 8 .ordinary
          writeAny p l.done.toNat 8 (l.number.toNat * 65536 + outcome) .access)
    | none => pure ()

/-- A launch retires on this module: its chain is demoted and the Calderas of its job are gone, unless another launch that is
resident here has them still (R362, R383). -/
def leaveModule (l : Launch) : M Unit := do
  modLaunch l.issuer l.number fun x => { x with here := false }
  forN 16 fun d => modDie d fun x =>
    { x with shares := x.shares.filter fun sh => !(sh.issuer == l.issuer && sh.number == l.number) }
  let left := (← hub).launches.filter (·.here)
  if left.all fun x => x.chain != l.chain then demoteAll l.chain else pure ()
  let job := jobOf l.ptbase
  if left.all fun x => jobOf x.ptbase != job then
    forN 16 fun d => modDie d fun x => { x with calderas := x.calderas.filter fun k => k.job.toNat != job }
  else pure ()

/-- A launch has left every module: its issuer keeps the outcome, tells what waits for it and writes the DONE word (R376, R377). -/
def retire (l : Launch) (outcome : Nat) : M Unit := do
  if l.here then leaveModule l else pure ()
  modHub fun h => { h with
    saved := h.saved.filter fun x => x.launch != (l.issuer, l.number)
    launches := h.launches.filter fun x => !(x.issuer == l.issuer && x.number == l.number) }
  if l.issuer ≠ (← get).moduleNum then pure ()
  else
    modHub fun h => { h with
      launches := h.launches.map fun x =>
        if x.issuer == l.issuer && x.preds.contains l.number then
          { x with preds := x.preds.filter fun p => p != l.number, predFailed := x.predFailed || outcome != 1 }
        else x
      history := ((l.number, outcome) :: h.history.filter fun e => e.1 != l.number).take 65536 }
    writeDone l outcome

/-- The outcome that a launch may retire with now, as far as this module goes (R376): one that a predecessor's outcome cancels does
not wait for its other predecessors. -/
def State.outcomeNow (s : State) (l : Launch) : Option Nat :=
  if l.aborted then
    if s.strands.any fun e => e.2.ofLaunch l.issuer l.number then none else some 2
  else if !l.dispatched then
    if l.predFailed && !l.runafter then some 3 else none
  else if l.exited = l.local s.moduleNum.val then some 1 else none

/-- What is left of a launch once its share here has retired: at the issuer it stays until the other modules have reported, unless
it never entered dispatch anywhere (R376, R386). -/
def afterShare (m : ModNum) (n : BitVec 32) (outcome : Nat) : M Unit := do
  let s ← get
  match s.launch? m n with
  | some l =>
    if l.here || (l.issuer == s.moduleNum && l.dispatched && l.othersLeft != 0) then pure () else retire l outcome
  | none => pure ()

/-- LAUNCH_RETIRE: the share of a launch on this module retires, or, while it cannot, the issuer is told that another module's share
has (R376, log 30). -/
def retireShare (m : ModNum) (n : BitVec 32) : M Unit := do
  let s ← get
  match s.launch? m n with
  | some l =>
    match if l.here then s.outcomeNow l else none with
    | some o =>
      leaveModule l
      afterShare m n o
    | none =>
      modLaunch m n fun x => { x with othersLeft := x.othersLeft - 1 }
      afterShare m n (if l.aborted then 2 else 1)
  | none => pure ()

/-- The shares of a launch enter the queues of their dies (R376, R379). -/
def enterDispatch (m : ModNum) (n : BitVec 32) : M Unit := do
  let s ← get
  match s.launch? m n with
  | some l =>
    if l.dispatched || l.aborted || !l.preds.isEmpty || (l.predFailed && !l.runafter) then pure ()
    else
      modLaunch m n fun x => { x with dispatched := true }
      forN 16 fun d =>
        let ranks := l.ranksOn s.moduleNum.val d
        if ranks.isEmpty then pure ()
        else modDie d fun x =>
          { x with
            nextAge := x.nextAge + 1
            shares := x.shares ++ [{ issuer := m, number := n, prio := l.prio, age := x.nextAge,
                                     ranks := ranks.map fun r => (r, false), placed := none }] }
  | none => pure ()

/-- The head share: the oldest of the highest queue that holds one (R379). -/
def DieState.head (d : DieState) : Option Share :=
  (d.shares.filter fun sh => !sh.ranks.isEmpty).foldl (fun acc sh =>
    match acc with
    | some b => if b.prio.val < sh.prio.val ∨ (b.prio = sh.prio ∧ sh.age < b.age) then some sh else acc
    | none => some sh) none

/-- Free contexts of a core, by their number in it. -/
def State.freeOn (s : State) (core : Nat) : List Nat := (List.range 8).filter fun i => (s.strand? (8 * core + i)).isNone

/-- The core of a quad that takes a strand of a launch (R380 step 2). -/
def State.coreFor (s : State) (q : Nat) (lgps : Nat) : Option Nat :=
  let cores := ((List.range 4).map (4 * q + ·)).filter fun k => !(s.core k).dead
  (cores.find? fun k => !(s.freeOn k).isEmpty && fieldOf (s.core k).lgmap 41 40 == lgps).orElse fun _ =>
    cores.find? fun k => (s.freeOn k).length == 8

/-- The quad that takes a strand of a launch (R380 step 1). -/
def State.quadFor (s : State) (l : Launch) (die : Nat) : Option Nat :=
  let qs := (l.quadsOn die).filter fun q => (s.coreFor q l.lgps.val).isSome
  let job := BitVec.ofNat 16 (jobOf l.ptbase)
  (qs.find? fun q => (quadCtxs q).any fun c => (s.strand? c).any fun t => t.ofLaunch l.issuer l.number).orElse fun _ =>
    (qs.find? fun q => s.quadBusy q && (s.quad q).job == some job).orElse fun _ =>
      qs.find? fun q => !s.quadBusy q

/-- The lowest partition that has the fewest bound strands (R380 step 3). -/
def State.partFor (s : State) (core : Nat) : Nat :=
  let lg := (s.core core).lgmap
  let n := (partitions lg).length
  let load := fun (p : Nat) => ((List.range 8).filter fun i =>
    (s.strand? (8 * core + i)).isSome && fieldOf lg (3 * i + 2) (3 * i) % n == p).length
  (List.range n).foldl (fun b p => if load p < load b then p else b) 0

/-- The context that takes the next strand of a launch, with the core prepared for it (R380). -/
def State.contextFor (s : State) (l : Launch) (die : Nat) : Option (Nat × State) := do
  let q ← s.quadFor l die
  let k ← s.coreFor q l.lgps.val
  let s := if (s.freeOn k).length = 8 then
    s.setCore k { s.core k with lgmap := setField (s.core k).lgmap 41 40 l.lgps.val } else s
  let i ← (s.freeOn k).head?
  some (8 * k + i, s.setCore k { s.core k with lgmap := setField (s.core k).lgmap (3 * i + 2) (3 * i) (s.partFor k) })

/-- A strand of a launch at its entry (R380). -/
def State.newStrand (s : State) (l : Launch) (c rank : Nat) : Strand :=
  let h := s.handle? l.handle
  let entry := h.elim 0 fun h => h.code + BitVec.ofNat 64 (h.entries.getD l.entry 0)
  { Strand.initial with
    hart := { Hart.zero with
      g := (((((Vector.replicate 32 (0 : Word)).set 2 (BitVec.ofNat 64 rank)).set 3 (BitVec.ofNat 64 l.gang)).set 4 l.param).set 5
        (l.number.zeroExtend 64)).set 6 (BitVec.ofNat 64 s.moduleNum.val)
      pc := entry, ptbase := l.ptbase &&& 0xFFFFFFFFFFF00000
      status := setBit (setBit 0 23 l.repro) 22 (h.any (·.system)) }
    share := l.share.zeroExtend 64, slip := l.slip.zeroExtend 64, accwin := accwinOf c l.accsz, launchMod := l.issuer
    launchNum := l.number, handle := l.handle, rank := rank, saveArea := l.save + BitVec.ofNat 64 rank * l.savestride }

/-- Loading the layout of a pre-empted strand for the dispatch unit, through the launch's tables; none where it cannot be
loaded (R381). -/
def State.dispatchLoad (s : State) (l : Launch) (c rank : Nat) : Option State :=
  let save := l.save + BitVec.ofNat 64 rank * l.savestride + 0x1000
  let probe := { Strand.initial with hart := { Hart.zero with ptbase := l.ptbase } }
  match (readLayout save).run { s.setStrand c probe with turn := .strand (Fin.ofNat 32768 c) } with
  | .ok (len, img) s' =>
    let s' := { s' with turn := s.turn, strands := mapErase s'.strands c }
    if s'.loadCode (Fin.ofNat 32768 c) img len = 0 then some (s'.load (Fin.ofNat 32768 c) img save) else none
  | .error _ _ => none

/-- Placing one rank of a launch on a die. -/
def State.placeRank (s : State) (l : Launch) (die : Nat) (r : Nat × Bool) : Option State := do
  let (c, s) ← s.contextFor l die
  if r.2 then s.dispatchLoad l c r.1 else some (s.bind c (s.newStrand l c r.1))

/-- Placing a share whole, if that can be done (R379, R380). -/
def State.placeShare (s : State) (die : Nat) (sh : Share) : Option State :=
  match s.launch? sh.issuer sh.number with
  | some l => sh.ranks.foldlM (fun s r => s.placeRank l die r) s
  | none => none

/-- Changing the share of a launch on a die. -/
def modShare (die : Nat) (m : ModNum) (n : BitVec 32) (f : Share → Share) : M Unit := modDie die fun d =>
  { d with shares := d.shares.map fun x => if x.issuer == m && x.number == n then f x else x }

/-- The dispatch unit places its head share, if it fits (R380). -/
def dispatchPlace (die : Nat) : M Unit := do
  let s ← get
  match (s.die die).head with
  | some sh =>
    match s.placeShare die sh with
    | some s' =>
      set s'
      let d := s'.die die
      modDie die fun x => { x with nextPlace := x.nextPlace + 1 }
      modShare die sh.issuer sh.number fun x => { x with ranks := [], placed := some d.nextPlace }
    | none => pure ()
  | none => pure ()

/-- The contexts of a share's strands on a die. -/
def State.shareCtxs (s : State) (die : Nat) (sh : Share) : List Ctx :=
  s.ctxsWhere fun c t => dieNum c == die && t.ofLaunch sh.issuer sh.number

/-- Whether a placed share may be a victim (R381). -/
def State.candidate (s : State) (die : Nat) (prio : Nat) (sh : Share) : Bool :=
  decide (sh.prio.val < prio) && sh.placed.isSome && sh.ranks.isEmpty &&
    (s.shareCtxs die sh).all fun c => (s.strand? c.val).any fun t =>
      decide (t.placedAt.toNat + Config.quantumNs ≤ s.time.toNat) && !t.trapStopped && t.frame.isNone

/-- The candidate to take next: lowest priority, then most recently placed (R381). -/
def pickVictim (l : List Share) : Option Share :=
  l.foldl (fun acc sh => match acc with
    | some b => if sh.prio.val < b.prio.val ∨ (sh.prio = b.prio ∧ b.placed.getD 0 < sh.placed.getD 0) then some sh else acc
    | none => some sh) none

/-- The victims that would let a share be placed, added one at a time (R381); none: the candidates do not suffice.  `fuel`
is their number. -/
def State.victims (s : State) (die : Nat) (sh : Share) : Nat → List Share → List Ctx → Option (List Ctx)
  | 0, _, _ => none
  | fuel + 1, cands, acc =>
    match pickVictim cands with
    | some v =>
      let cs := s.shareCtxs die v
      let s' := cs.foldl (fun s c => { s with strands := mapErase s.strands c.val }) s
      if (s'.placeShare die sh).isSome then some (acc ++ cs)
      else s'.victims die sh fuel (cands.filter fun x => x != v) (acc ++ cs)
    | none => none

/-- A stopped victim is saved at its save area, and its rank goes back to its share's queue; a save area that cannot be written
leaves it bound (R381, log 31). -/
def saveVictim (die : Nat) (c : Ctx) : M Unit := do
  let t ← strandAt c.val
  let before ← get
  let ok ← asAgent (.strand c) (do
    if ← saveContext c (t.saveArea + 0x1000) then pure () else throw (.refuse .noAgent))
  if ok then
    modify fun s => s.release c
    modShare die t.launchMod t.launchNum fun sh =>
      { sh with ranks := (sh.ranks.filter fun r => decide (r.1 < t.rank)) ++ (t.rank, true) :: (sh.ranks.filter fun r => decide (t.rank < r.1)),
                placed := none }
  else set (before.setStrand c.val { t with stop := none })

/-- The dispatch unit pre-empts: victims that have stopped are saved; else victims are asked to stop, if they would let the head
share be placed (R381). -/
def dispatchPreempt (die : Nat) : M Unit := do
  let s ← get
  let stopping := s.ctxsWhere fun c t => dieNum c == die && t.stop == some .dispatch
  if !stopping.isEmpty then
    if stopping.all fun c => (s.strand? c.val).all fun t => !t.pendingWork then stopping.forM (saveVictim die) else pure ()
  else
    match (s.die die).head with
    | some sh =>
      if (s.placeShare die sh).isSome then pure ()
      else
        let cands := (s.die die).shares.filter (s.candidate die sh.prio.val)
        match s.victims die sh cands.length cands [] with
        | some cs => modify fun s => cs.foldl (fun s c => s.askStop c .dispatch) s
        | none => pure ()
    | none => pure ()

/-- Aborting a launch: its unplaced shares are dropped and its strands stop; once they have, their contexts are freed and it
retires FAILED (R378).  A strand that aborts its own launch stops at the LAUNCH itself. -/
def abortLaunch (l : Launch) : M Unit := do
  forN 16 fun d => modDie d fun x =>
    { x with shares := x.shares.filter fun sh => !(sh.issuer == l.issuer && sh.number == l.number) }
  let waiting := !l.dispatched
  modLaunch l.issuer l.number fun x => { x with aborted := true }
  let s ← get
  let cs := s.ctxsWhere fun _ t => t.ofLaunch l.issuer l.number
  let me := fun (c : Ctx) => s.turn == .strand c
  let running := cs.filter fun c => !me c && (s.strand? c.val).any fun t => t.cond != .stopped || t.busy
  if !running.isEmpty then
    modify fun s => running.foldl (fun s c => s.askStop c .abort) s
    sleepOn (.others running)
  else if cs.any fun c => me c && (s.strand? c.val).any fun t => !t.ops.isEmpty then
    modStrand Strand.endStreams
    sleepOn (.drain 0x3F)
  else
    modify fun s => cs.foldl State.release s
    if waiting then retire l 2 else retireShare l.issuer l.number

/-- LAUNCH (R233, R373-R378). -/
def launchM (d a : GReg) : M Unit := do
  let va ← gR a
  require (va.toNat % 64 == 0) cMisaligned va
  let desc ← loadBytes va 128
  let s ← get
  let plain := match s.turn with
    | .strand c => !(s.strand? c.val).any fun t => t.hart.sysh
    | .cc _ => false
  let answer := fun (v : Word) => do
    gW d v
    advance
  let refuse := fun (code : Nat) => answer (BitVec.ofNat 64 (2 ^ 63 + code))
  match le desc 0 1 with
  | 0 =>
    let code := s.launchCode desc plain
    if code ≠ 0 then refuse code
    else
      let (n, s') := s.accept (launchOf s.moduleNum desc)
      set s'
      answer (n.zeroExtend 64)
  | 1 =>
    if le desc 100 28 ≠ 0 then refuse 1
    else
      let n := BitVec.ofNat 32 (le desc 96 4)
      match s.launch? s.moduleNum n with
      | some l =>
        abortLaunch l
        if ((← get).hart? s.turn).isSome then answer (n.zeroExtend 64) else pure ()
      | none => refuse 4
  | _ => refuse 1

/-- Whether a cell lies in the memory that a page maps. -/
def PageTr.holdsCell (p : PageTr) (cell : Nat) : Bool :=
  let a := cellAddr cell
  let at' := if leafBase p.leaf < 0x018000000000 then
    match regionOf a with
    | .dram k o => o / 256 * 4096 + k * 256 + o % 256
    | _ => a
  else a
  !leafDead p.leaf && cellModule cell == leafMod p.leaf && decide (leafBase p.leaf ≤ at') &&
    decide (at' < leafBase p.leaf + leafStored p.leaf p.size)

/-- Dropping from a core's L1 the lines of the cells that pages mapped (R120). -/
def Core.l1DropPages (c : Core) (ps : List PageTr) : Core :=
  let keep := fun (cell : Nat) => !ps.any fun p => p.holdsCell cell
  { c with
    l1coord := c.l1coord.filter fun l => keep (l.line * 64)
    l1main := c.l1main.filter fun l => match l with
      | .plain l => keep (l.line * 64)
      | .gathered g => g.elems.all fun e => keep e.1 }

/-- The cores within a scope of an agent, by module-wide number; none: every core and the control complex (Table 3 of 06,
R234). -/
def coresIn (a : Agent) (scope : Nat) : Option (Nat → Bool) :=
  match a with
  | .cc _ => none
  | .strand c =>
    match scope with
    | 0 => some fun k => k == coreNum c
    | 1 => some fun k => k / 4 == quadNum c
    | 2 => some fun k => k / 256 == dieNum c
    | _ => none

/-- The pages of a job that have mapped an address: those that a translation cache holds, and those through which lines of an L1
were filled (R120). -/
def State.pagesFor (s : State) (job va : Nat) : List PageTr :=
  (s.cores.flatMap (fun e => e.2.tlb ++ e.2.l1Pages) ++ s.ccs.flatMap fun e => e.2.tlb).filter fun p => p.maps job va

/-- Invalidating the translations of a page in the cores of a scope, with the L1 lines of the cells that it mapped (R42, R120);
`more` are leaves of it that the issuer knows. -/
def State.invalidate (s : State) (within : Option (Nat → Bool)) (job va : Nat) (more : List PageTr) : State :=
  let hit := fun (p : PageTr) => p.maps job va
  let inScope := fun (k : Nat) => within.all fun f => f k
  let old := s.pagesFor job va ++ more
  { s with
    cores := s.cores.map fun e =>
      if inScope e.1 then
        (e.1, { (e.2.l1DropPages old) with
          tlb := e.2.tlb.filter fun p => !hit p, l1Pages := e.2.l1Pages.filter fun p => !hit p })
      else e
    ccs := if within.isNone then s.ccs.map fun e => (e.1, { e.2 with tlb := e.2.tlb.filter fun p => !hit p }) else s.ccs }

/-- The strands in a scope that may still make accesses translated through a page of a job (R42). -/
def State.pageUsers (s : State) (within : Option (Nat → Bool)) (job va : Nat) : List Ctx :=
  s.ctxsWhere fun c t => within.all (fun f => f (coreNum c)) &&
    (!t.awaitsBank.isEmpty || t.ops.any fun o => !o.complete && o.work.uses job va)

/-- The stores that strands in a scope have issued through a page and not performed are performed (R42, R138). -/
def State.performThrough (s : State) (within : Option (Nat → Bool)) (job va : Nat) : State :=
  (s.ctxsWhere fun c t => within.all (fun f => f (coreNum c)) &&
    t.stores.any fun x => x.parts.any fun p => p.1.maps job va).foldl State.storeAll s

/-- XLINV: the issuer waits for the operations that use the page; then its stores are performed and no translation cache of the
scope holds it (R42, R234). -/
def xlinvPage (scope job va : Nat) (more : List PageTr) : M Unit := do
  let s ← get
  let within := coresIn s.turn scope
  let users := s.pageUsers within job va
  if users.isEmpty then modify fun s => (s.performThrough within job va).invalidate within job va more
  else sleepOn (.pageUse job va users)

end Sys2Proof.Machine

end
end

