-- ==== Sys2Proof/Machine/Sync.lean ====
section
/-! DEFINITION. Communication registers, barriers, fences, signals and time (05 R127-R129; 06 R141-R147; 13 R327-R334). -/

noncomputable section

namespace Sys2Proof.Machine

/-- Closing the multicast windows that are open to the executing strand (R113, R146). -/
def closeWindows : M Unit := do
  match (← get).turn with
  | .strand c =>
    let n := ((← get).quad (quadNum c)).nextWindow
    modStrand fun t => { t with winClosed := n }
  | .cc _ => pure ()

/-- What an acquire at a scope does for the issuing strand (R119, R146). -/
def acquire (scope : Nat) : M Unit := do
  if scope = 0 then pure ()
  else
    l1FlushMine
    closeWindows

/-- CTAS (R127, R128): the bit, as a QUAD-scope acquire, or a place in the wait order.  A bit that was cleared while strands sleep on
it is for the one that has waited longest (log 80). -/
def ctasM (b : Fin 32) : M Unit := do
  let c ← ctx
  let q := quadNum c
  let k := (← get).quad q
  if k.sem.getLsbD b.val || ((k.waiting.filter fun w => w.2 == b).head?.any fun w => w.1 != c) then
    modQuad q fun k => if k.waiting.contains (c, b) then k else { k with waiting := k.waiting ++ [(c, b)] }
    sleepOn (.ctas b)
  else
    modQuad q fun k => { k with sem := k.sem ||| (1#32 <<< b.val), waiting := k.waiting.filter fun w => w.1 != c }
    acquire 1
    advance

/-- CCLR (R128). -/
def cclrM (b : Fin 32) : M Unit := do
  modQuad (← myQuad) fun k => { k with sem := k.sem &&& ~~~(1#32 <<< b.val) }
  advance

/-- CRD (R127). -/
def crdM (d : GReg) (r : Fin 16) : M Unit := do
  gW d ((← get).quad (← myQuad)).data[r]
  advance

/-- CWR (R127). -/
def cwrM (a : GReg) (r : Fin 16) : M Unit := do
  let v ← gR a
  modQuad (← myQuad) fun k => { k with data := k.data.set r.val v }
  advance

/-- Strand contexts of a scope instance (R328). -/
def barrierLimit (scope : Nat) : Nat :=
  match scope with
  | 0 => 8
  | 1 => 32
  | 2 => 2048
  | 3 => 32768
  | _ => 134217728

/-- The scope instance that a context belongs to (R328). -/
def barrierAt (scope : Nat) (c : Ctx) : Nat :=
  match scope with
  | 0 => coreNum c
  | 1 => quadNum c
  | 2 => dieNum c
  | _ => 0

/-- Whether an episode is the one of a barrier, scope instance and job. -/
def Episode.isAt (e : Episode) (scope : Fin 8) (n : Nat) (b : Fin 16) (job : BitVec 16) : Bool :=
  e.scope == scope && e.inst == n && e.bar == b && e.job == job

/-- An arrival (R329): the first one fixes the count. -/
def Hub.arrive (h : Hub) (c : Ctx) (scope : Fin 8) (n : Nat) (b : Fin 16) (job : BitVec 16) (count : Nat) : Hub :=
  if h.episodes.any fun e => e.isAt scope n b job then
    { h with episodes := h.episodes.map fun e => if e.isAt scope n b job then { e with arrived := e.arrived ++ [c] } else e }
  else { h with episodes := h.episodes ++ [{ scope := scope, inst := n, bar := b, job := job, count := count, arrived := [c] }] }

/-- A participant that slept in the barrier acquires and continues (R329). -/
def leaveBarrier (scope : Fin 8) (c : Ctx) : M Unit := do
  match (← get).strand? c.val with
  | some t =>
    match t.cond with
    | .asleep (.bar ..) =>
      let _ ← asAgent (.strand c) (do
        acquire scope.val
        advance
        modStrand fun t => { t with cond := .runnable })
    | _ => pure ()
  | none => pure ()

/-- The end of an episode: every participant but one acquires and continues (R329). -/
def endEpisode (e : Episode) (but : Option Ctx) : M Unit := do
  modHub fun h => { h with episodes := h.episodes.filter fun x => !x.isAt e.scope e.inst e.bar e.job }
  e.arrived.forM fun c => if some c = but then pure () else leaveBarrier e.scope c

/-- BAR (R328, R329). -/
def barM (a : GReg) (b : Fin 16) (scope : Fin 8) : M Unit := do
  let c ← ctx
  let v ← gR a
  require (decide (0 < v.toNat) && decide (v.toNat ≤ barrierLimit scope.val)) cShape v
  let n := barrierAt scope.val c
  let job := BitVec.ofNat 16 (jobOf (← hart).ptbase)
  match (← hub).episodes.find? fun e => e.isAt scope n b job with
  | some e => require (e.count == v.toNat) cShape v
  | none => pure ()
  modHub fun h => h.arrive c scope n b job v.toNat
  match (← hub).episodes.find? fun e => e.isAt scope n b job with
  | some e =>
    if e.count ≤ e.arrived.length then
      endEpisode e (some c)
      acquire scope.val
      advance
    else sleepOn (.bar scope n b)
  | none => pure ()

/-- Whether the targets of an operation lie within a scope of its strand (R142, Table 3): memory of other modules only at POD,
the quad's other tile stores from QUAD on.  An operation with targets on both sides is not within it (log 94). -/
def OpWork.inScope (w : OpWork) (me : Nat) (core : Nat) (scope : Nat) : Bool :=
  let module := fun (m : Nat) => m == me || scope == 4
  let tile := fun (d : Word) => !bitOf d 23 || fieldOf d 22 21 == core % 4 || decide (1 ≤ scope)
  let pages := fun (ps : List PageTr) => ps.all fun p => leafDead p.leaf || module (leafMod p.leaf)
  match w with
  | .affine _ dest _ _ _ _ _ ps => (bitOf dest 63 || tile dest) && pages ps
  | .fibre dest _ _ _ _ _ _ _ ps => tile dest && pages ps
  | .gather dest _ es => (bitOf dest 63 || tile dest) && pages (es.filterMap fun e => e.src.map (·.1))
  | .copy form dst src _ ps => pages ps && (form.val % 2 == 0 || tile dst) && (form.val < 2 || tile src)
  | .remoteStore _ ws _ _ => ws.all fun w => pages (w.parts.map (·.1))
  | .remoteSignal addr .. => module (cellModule addr)
  | .deposit addr .. => module (cellModule addr)
  | .bank _ addr _ _ _ => module (cellModule addr)
  | .exact l _ _ => l.all fun e => module (cellModule e.1)
  -- the reads of a matrix operand have been made
  | .operandFetch => false
  | .forwarded => true

/-- XFENCE (R143): the operations of a path within the scope are waited for, an operation that the execute side has not reached until
its targets are known; accesses of the agents are performed already. -/
def xfenceM (p c scope : Fin 8) : M Unit := do
  let me := (← get).moduleNum.val
  let core ← myCore
  match (← strand).ops.find? fun o => o.path.val == p.val && !o.complete && o.work.inScope me core scope.val with
  | some o => if o.work = .forwarded then sleepOn (.performed o.path o.n) else sleepOn (.opDone o.path o.n)
  | none => pure ()
  if p = 5 ∧ scope = 4 ∧ !(← strand).awaitsBank.isEmpty then sleepOn .replies else pure ()
  if 6 ≤ c.val then l1FlushMine else pure ()
  if c = 4 then closeWindows else pure ()
  advance

/-- The page of a SIGINC, checked (R332). -/
def signalPage (va : Word) : M PageTr := do
  require (va.toNat % 8 == 0) cMisaligned va
  let p ← translate .rw va
  if p.converts then formatTrap .rw va else pure ()
  return p

/-- The atomic add of a SIGINC on the module's own memory (R332). -/
def signalHere (p : PageTr) (va x : Word) : M Unit := do
  touchFrame p va.toNat 8 .ordinary
  countMix p (p.cell va.toNat)
  let v ← readAny p va.toNat 8 .bypass false .access
  atomicUpdate p (p.cell va.toNat) (writeAny p va.toNat 8 ((v + x.toNat) % 2 ^ 64) .access)
  l1DropMine (p.cell va.toNat) 8

/-- A SIGINC to another module from an agent that has no paths: the control complex. -/
def signalAway (p : PageTr) (va x : Word) (release : Bool) : M Unit := do
  let cell := p.cell va.toNat
  writeCell cell 8 ((← readCell cell 8) + x.toNat)
  sendPacket { type := 3, dst := Fin.ofNat 4096 (leafMod p.leaf), addr := cell, op := 0, data := [],
               operands := [x], release := release }

/-- SIGINC (R332). -/
def sigincM (a b : GReg) : M Unit := do
  let va ← gR a
  let x ← gR b
  let p ← signalPage va
  if leafMod p.leaf = (← get).moduleNum.val then signalHere p va x
  else
    match (← get).turn with
    | .strand _ =>
      needIssue pRem
      let _ ← issueOp pRem (.remoteSignal (p.cell va.toNat) x false)
    | .cc _ => signalAway p va x false
  advance

/-- SIGINC.R (R145, R332): to another module it follows, but at CORE scope, the strand's earlier REM operations, and nothing after it
issues until it is performed. -/
def sigincRM (a b : GReg) (scope : Fin 8) : M Unit := do
  let va ← gR a
  let x ← gR b
  let p ← signalPage va
  if leafMod p.leaf = (← get).moduleNum.val then
    signalHere p va x
    advance
  else
    match (← get).turn with
    | .strand _ =>
      if scope ≠ 0 ∧ (← strand).outstanding pRem ≠ 0 then sleepOn (.drain 8)
      else
        needIssue pRem
        let n ← issueOp pRem (.remoteSignal (p.cell va.toNat) x true)
        advance
        sleepOn (.opDone pRem n)
    | .cc _ =>
      signalAway p va x true
      advance

/-- The word that a SIGWAIT reads, at its point of coherence (R333). -/
def signalRead (va : Word) : M Word := do
  require (va.toNat % 8 == 0) cMisaligned va
  let p ← translate .load va
  if !leafDead p.leaf && leafMod p.leaf != (← get).moduleNum.val then trap cProtection va
  else
    touchFrame p va.toNat 8 .ordinary
    return BitVec.ofNat 64 (← readAny p va.toNat 8 .bypass false .access)

/-- Whether a word has reached the value that a SIGWAIT waits for (R333). -/
def reached (v ref : Word) : Bool := decide ((v - ref).toNat < 2 ^ 63)

/-- The return of a SIGWAIT (R333). -/
def sigwaitReturn (d : GReg) (v : Word) (scope : Nat) : M Unit := do
  gW d v
  acquire scope
  advance

/-- SIGWAIT (R333). -/
def sigwaitM (d a b : GReg) (scope : Fin 8) : M Unit := do
  let va ← gR a
  let ref ← gR b
  let v ← signalRead va
  if reached v ref then sigwaitReturn d v scope.val else sleepOn (.sigwait d va ref scope)

/-- TIMERD (R334). -/
def timerdM (d : GReg) : M Unit := do
  gW d (← get).time
  advance

/-- WAITT (R334). -/
def waittM (d a : GReg) : M Unit := do
  let target ← gR a
  if target.toNat ≤ (← get).time.toNat then timerdM d else sleepOn (.waitt d target)

/-- CTAS (R327): Obtains a quad semaphore bit, sleeping while it is held. -/
def execCtas (b : Fin 32) (s : State) : Host.Outcome State Fault Refusal :=
  perform (.ctas b) (ctasM b) s

/-- CCLR (R327): Clears a quad semaphore bit as a QUAD-scope release. -/
def execCclr (b : Fin 32) (s : State) : Host.Outcome State Fault Refusal :=
  perform (.cclr b) (cclrM b) s

/-- CRD (R327): Reads a quad data register into gd. -/
def execCrd (d : GReg) (r : Fin 16) (s : State) : Host.Outcome State Fault Refusal :=
  perform (.crd d r) (crdM d r) s

/-- CWR (R327): Writes ga to a quad data register. -/
def execCwr (a : GReg) (r : Fin 16) (s : State) : Host.Outcome State Fault Refusal :=
  perform (.cwr a r) (cwrM a r) s

/-- BAR (R329): Releases, then arrives at a barrier of the given scope and sleeps until the episode completes. -/
def execBar (a : GReg) (b : Fin 16) (r0 : Fin 8) (s : State) : Host.Outcome State Fault Refusal :=
  perform (.bar a b r0) (barM a b r0) s

/-- FENCE_AV (R141): Orders earlier ACS accesses before later EXS accesses. -/
def execFenceAv (s : State) : Host.Outcome State Fault Refusal :=
  perform (.fenceAv) advance s

/-- FENCE_VA (R141): Orders earlier EXS accesses before later ACS accesses. -/
def execFenceVa (s : State) : Host.Outcome State Fault Refusal :=
  perform (.fenceVa) advance s

/-- FENCE_VV (R141): Orders earlier EXS accesses before later EXS accesses. -/
def execFenceVv (s : State) : Host.Outcome State Fault Refusal :=
  perform (.fenceVv) advance s

/-- FENCE_ALL (R141): Orders all earlier ACS and EXS accesses before all later ones. -/
def execFenceAll (s : State) : Host.Outcome State Fault Refusal :=
  perform (.fenceAll) advance s

/-- XFENCE (R143): Orders producer-class operations within a scope before later consumer-class ones. -/
def execXfence (p : Fin 8) (c : Fin 8) (r0 : Fin 8) (s : State) : Host.Outcome State Fault Refusal :=
  perform (.xfence p c r0) (xfenceM p c r0) s

/-- SIGINC (R332): Atomically adds gb to a 64-bit word. -/
def execSiginc (a : GReg) (b : GReg) (s : State) : Host.Outcome State Fault Refusal :=
  perform (.siginc a b) (sigincM a b) s

/-- SIGINC_R (R332): Releases at its scope, then atomically adds gb to a 64-bit word. -/
def execSigincR (a : GReg) (b : GReg) (r0 : Fin 8) (s : State) : Host.Outcome State Fault Refusal :=
  perform (.sigincR a b r0) (sigincRM a b r0) s

/-- SIGWAIT (R333): Sleeps until a word reaches a value, then returns it as an acquire. -/
def execSigwait (d : GReg) (a : GReg) (b : GReg) (r0 : Fin 8) (s : State) : Host.Outcome State Fault Refusal :=
  perform (.sigwait d a b r0) (sigwaitM d a b r0) s

/-- TIMERD (R334): Reads TIME into gd. -/
def execTimerd (d : GReg) (s : State) : Host.Outcome State Fault Refusal :=
  perform (.timerd d) (timerdM d) s

/-- WAITT (R334): Sleeps until TIME reaches ga, then returns TIME. -/
def execWaitt (d : GReg) (a : GReg) (s : State) : Host.Outcome State Fault Refusal :=
  perform (.waitt d a) (waittM d a) s

end Sys2Proof.Machine

end
end

