-- ==== Sys2Proof/Machine/VecArith.lean ====
section
/-! DEFINITION. Vector arithmetic, conversion, compares and selection (10 R258-R264). -/

noncomputable section

namespace Sys2Proof.Machine

/-- A result that raises nothing. -/
def quiet (b : Nat) : Res := ⟨b, 0, false⟩

/-- The checks that every vector instruction makes before its operands: accepted type and register groups (R238, R239), and the
refusal of R21. -/
def vecPre (i : Instr) (accept : Nat → Bool) (rounds strict : Bool) (dst : VView → Option Span)
    (srcs : VView → List Span) : M VView := do
  let v ← view
  requireState i (accept v.et && groupsOk (dst v) (srcs v) strict)
  checkRounding i v (rounds && classF v.et)
  return v

/-- The end of an element-wise instruction: flags and traps, the queue it read, its results (R240, R164, R237). -/
def vecFinish (v : VView) (m : Mods) (d : Span) (w : Nat) (rs : List (Nat × Res)) : M Unit := do
  let vals ← settle v m.sp rs
  popUsed m
  writeVec v d w vals
  advance

/-- A group of sources less the one that a queue stands for. -/
def unlessQueue (q : Option (Fin 2)) (s : Span) : List Span := if q.isSome then [] else [s]

/-- An element operation: rounding mode, then the codes of its operands. -/
abbrev ElemOp := ElemTy → RMode → Nat → Nat → Res

/-- vd[i] := op(va[i], vb[i]); the destination has width `dw`. -/
def vecBin (i : Instr) (accept : Nat → Bool) (rounds strict : Bool) (dw : VView → Nat) (d a b : VReg) (mk : MReg)
    (me : Bool) (op : ElemOp) : M Unit := do
  let m := modsOf mk me
  let v ← vecPre i accept rounds strict (fun v => some (v.spanOf d (dw v)))
    (fun v => unlessQueue m.qa (v.span a) ++ unlessQueue m.qb (v.span b))
  let x ← source v m.qa (v.span a) v.w
  let y ← source v m.qb (v.span b) v.w
  vecFinish v m (v.spanOf d (dw v)) (dw v) (((← strand).selected v m).map fun k => (k, op v.ty (v.mode k) (x k) (y k)))

/-- vd[i] := op(va[i], scalar). -/
def vecScal (i : Instr) (accept : Nat → Bool) (rounds strict : Bool) (dw : VView → Nat) (d a : VReg) (b : GReg)
    (mk : MReg) (me : Bool) (op : ElemOp) : M Unit := do
  let m := modsOf mk me
  let v ← vecPre i accept rounds strict (fun v => some (v.spanOf d (dw v))) (fun v => unlessQueue m.qa (v.span a))
  let x ← source v m.qa (v.span a) v.w
  let y := (← scalarSource m.qs b).toNat % 2 ^ v.w
  vecFinish v m (v.spanOf d (dw v)) (dw v) (((← strand).selected v m).map fun k => (k, op v.ty (v.mode k) (x k) y))

/-- vd[i] := op(va[i]). -/
def vecUn (i : Instr) (accept : Nat → Bool) (rounds : Bool) (d a : VReg) (mk : MReg) (me : Bool)
    (op : ElemTy → RMode → Nat → Res) : M Unit := do
  let m := modsOf mk me
  let v ← vecPre i accept rounds false (fun v => some (v.span d)) (fun v => unlessQueue m.qa (v.span a))
  let x ← source v m.qa (v.span a) v.w
  vecFinish v m (v.span d) v.w (((← strand).selected v m).map fun k => (k, op v.ty (v.mode k) (x k)))

/-- The element width of a view. -/
def sameWidth (v : VView) : Nat := v.w

/-- The integer that a code stands for. -/
def intVal (s : Bool) (w v : Nat) : Int := if s then toSigned w v else (v : Int)

/-- A wrapping integer result. -/
def wrapped (w : Nat) (x : Int) : Res := quiet (ofSigned w x)

/-- VADD (R259). -/
def elemAdd : ElemOp := fun t rm x y => match t with
  | .flt f => f.add rm x y
  | .int s w => wrapped w (intVal s w x + intVal s w y)

/-- VSUB (R259). -/
def elemSub : ElemOp := fun t rm x y => match t with
  | .flt f => f.sub rm x y
  | .int s w => wrapped w (intVal s w x - intVal s w y)

/-- VMUL (R259). -/
def elemMul : ElemOp := fun t rm x y => match t with
  | .flt f => f.mul rm x y
  | .int s w => wrapped w (intVal s w x * intVal s w y)

/-- VDIV (R259): integer division by zero gives all ones. -/
def elemDiv : ElemOp := fun t rm x y => match t with
  | .flt f => f.div rm x y
  | .int s w => if y = 0 then quiet (2 ^ w - 1) else wrapped w ((intVal s w x).tdiv (intVal s w y))

/-- Whether the first of two numbers comes first, with -0 below +0 (R259). -/
def numBefore (x y : Num) : Bool :=
  match numCmp x y with
  | .lt => true
  | .eq => x.isNeg && !y.isNeg
  | .gt => false

/-- VMIN or VMAX (R259). -/
def elemMinMax (greatest : Bool) : ElemOp := fun t _ x y => match t with
  | .flt f =>
    let a := f.decode x
    let b := f.decode y
    if a.isNan || b.isNan then ⟨f.nanBits, if a.isSnan || b.isSnan then flagNV else 0, false⟩
    else quiet (if numBefore b a = greatest then x else y)
  | .int s w =>
    let a := intVal s w x
    let b := intVal s w y
    quiet (if decide (b < a) = greatest then x else y)

/-- VAND, VOR, VXOR, on the codes (R259). -/
def elemBits (op : Nat → Nat → Nat) : ElemOp := fun _ _ x y => quiet (op x y)

/-- VSHL (R259). -/
def elemShl : ElemOp := fun t _ x y => quiet (x * 2 ^ (y % t.width) % 2 ^ t.width)

/-- VSHR (R259). -/
def elemShr : ElemOp := fun t _ x y => quiet (x / 2 ^ (y % t.width))

/-- VSRA (R259). -/
def elemSra : ElemOp := fun t _ x y => wrapped t.width (toSigned t.width x / (2 ^ (y % t.width) : Nat))

/-- The ET code of the wide type (R260). -/
def wideOf (et : Nat) : Option Nat :=
  match et with
  | 0x00 => some 0x01
  | 0x02 => some 0x00
  | 0x03 => some 0x00
  | 0x08 => some 0x09
  | 0x09 => some 0x0A
  | 0x0A => some 0x0B
  | 0x0C => some 0x0D
  | 0x0D => some 0x0E
  | 0x0E => some 0x0F
  | _ => none

/-- Whether a type has a wide type. -/
def hasWide (et : Nat) : Bool := (wideOf et).isSome

/-- Width of a wide operand. -/
def wideWidth (v : VView) : Nat := 2 * v.w

/-- The wide type of an element type. -/
def wideTy (t : ElemTy) : ElemTy :=
  match t with
  | .flt f => .flt (if f.width = 32 then fp64 else fp32)
  | .int s w => .int s (2 * w)

/-- VWMUL (R260): one rounding, to the wide type. -/
def elemWmul : ElemOp := fun t rm x y => match t with
  | .flt f =>
    let (p, fl) := numMul (f.decode x) (f.decode y)
    let r := (wideTy t).round rm p
    { r with flags := r.flags ||| fl }
  | .int s w => wrapped (2 * w) (intVal s w x * intVal s w y)

/-- VWADD (R260). -/
def elemWadd : ElemOp := fun t rm x y => match t with
  | .flt f =>
    let (p, fl) := numAdd rm.isRdn (f.decode x) (f.decode y)
    let r := (wideTy t).round rm p
    { r with flags := r.flags ||| fl }
  | .int s w => wrapped (2 * w) (intVal s w x + intVal s w y)

/-- The three fused forms (R259): whether the product and the addend are negated. -/
def elemFma (negProd negAdd : Bool) (t : ElemTy) (rm : RMode) (x y z : Nat) : Res :=
  match t with
  | .flt f =>
    let a := f.decode x
    let c := f.decode z
    f.fma rm (if negProd then a.neg else a) (f.decode y) (if negAdd then c.neg else c)
  | .int s w =>
    let p := intVal s w x * intVal s w y
    let c := intVal s w z
    wrapped w ((if negProd then -p else p) + (if negAdd then -c else c))

/-- vd[i] := the fused form of va[i], vb[i] and vd[i]. -/
def vecFma (i : Instr) (np na : Bool) (d a b : VReg) (mk : MReg) (me : Bool) : M Unit := do
  let m := modsOf mk me
  let v ← vecPre i classFI true false (fun v => some (v.span d))
    (fun v => unlessQueue m.qa (v.span a) ++ unlessQueue m.qb (v.span b))
  let x ← source v m.qa (v.span a) v.w
  let y ← source v m.qb (v.span b) v.w
  let z ← source v none (v.span d) v.w
  vecFinish v m (v.span d) v.w
    (((← strand).selected v m).map fun k => (k, elemFma np na v.ty (v.mode k) (x k) (y k) (z k)))

/-- vd[i] := the fused form of va[i], the scalar and vd[i]. -/
def vecFmaS (i : Instr) (np na : Bool) (d a : VReg) (b : GReg) (mk : MReg) (me : Bool) : M Unit := do
  let m := modsOf mk me
  let v ← vecPre i classFI true false (fun v => some (v.span d)) (fun v => unlessQueue m.qa (v.span a))
  let x ← source v m.qa (v.span a) v.w
  let y := (← scalarSource m.qs b).toNat % 2 ^ v.w
  let z ← source v none (v.span d) v.w
  vecFinish v m (v.span d) v.w
    (((← strand).selected v m).map fun k => (k, elemFma np na v.ty (v.mode k) (x k) y (z k)))

/-- VSQRT (R259). -/
def elemSqrt (t : ElemTy) (rm : RMode) (x : Nat) : Res :=
  match t with
  | .flt f => f.sqrt rm x
  | .int _ _ => quiet x

/-- VRCP (R259): one rounding. -/
def elemRcp (t : ElemTy) (rm : RMode) (x : Nat) : Res :=
  match t with
  | .flt f =>
    let (q, fl) := numDiv (.fin false 1 0) (f.decode x)
    let r := f.round rm q
    { r with flags := r.flags ||| fl }
  | .int _ _ => quiet x

/-- A float code with its sign handled by `g`; a NaN becomes canonical, and a signalling one sets NV (R78, R259). -/
def signOp (f : FFmt) (x : Nat) (g : Nat → Nat) : Res :=
  match f.decode x with
  | .nan s => ⟨f.nanBits, if s then flagNV else 0, false⟩
  | _ => quiet (g x)

/-- VABS (R259). -/
def elemAbs (t : ElemTy) (_ : RMode) (x : Nat) : Res :=
  match t with
  | .flt f => signOp f x fun c => c % 2 ^ (f.width - 1)
  | .int s w => wrapped w (intVal s w x).natAbs

/-- VNEG (R259). -/
def elemNeg (t : ElemTy) (_ : RMode) (x : Nat) : Res :=
  match t with
  | .flt f => signOp f x fun c => (c + 2 ^ (f.width - 1)) % 2 ^ f.width
  | .int s w => wrapped w (-intVal s w x)

/-- VCLASS (R264): a quiet reading of the class. -/
def classWord (f : FFmt) (x : Nat) : Nat :=
  let normal := x / 2 ^ f.mw % 2 ^ f.ew != 0
  match f.decode x with
  | .nan s => if s then 256 else 512
  | .inf n => if n then 1 else 128
  | .fin n 0 _ => if n then 8 else 16
  | .fin n _ _ => if n then (if normal then 2 else 4) else (if normal then 64 else 32)

/-- VCLASS on an element type. -/
def elemClass (t : ElemTy) (_ : RMode) (x : Nat) : Res :=
  match t with
  | .flt f => quiet (classWord f x)
  | .int _ _ => quiet 0

/-- Stored bytes of one block of the packed element type. -/
def VView.block (v : VView) : Nat :=
  match packedOf v.et with
  | some p => p.blockBytes
  | none => 1

/-- Moving packed blocks (R238): a selected block comes whole from the first source, another below n from the second if there
is one, and padding blocks are zero. -/
def Strand.withBlocks (t : Strand) (v : VView) (sel : Nat → Bool) (d : Span) (x : Nat) (y : Option Nat) : Strand :=
  let bw := 8 * v.block
  let img := (List.range (v.vl / 32)).foldl (fun g k =>
    if v.n ≤ 32 * k then setElem bw g k 0
    else if (List.range 32).any fun j => decide (32 * k + j < v.n) && sel (32 * k + j) then setElem bw g k (elemAt bw x k)
    else match y with
      | some b => setElem bw g k (elemAt bw b k)
      | none => g) (t.image v.regBits d)
  t.setImage v.regBits d img

/-- Moving packed blocks (R238). -/
def moveBlocks (v : VView) (sel : Nat → Bool) (d : Span) (x : Nat) (y : Option Nat) : M Unit :=
  modStrand fun t => t.withBlocks v sel d x y

/-- The bits of a packed source. -/
def packedSource (v : VView) (q : Option (Fin 2)) (sp : Span) : M Nat := do
  match q with
  | some k => return (← peekVec k).bits
  | none => return (← strand).image v.regBits sp

/-- Class X or P (R239). -/
def classXP (et : Nat) : Bool := classXCode et || classPCode et

/-- VMOV (R259): bit-exact. -/
def vmovM (i : Instr) (d a : VReg) (mk : MReg) (me : Bool) : M Unit := do
  let m := modsOf mk me
  let v ← vecPre i classXP false false (fun v => some (v.span d)) (fun v => unlessQueue m.qa (v.span a))
  if classPCode v.et then
    let x ← packedSource v m.qa (v.span a)
    moveBlocks v ((← strand).selects m) (v.span d) x none
    popUsed m
    advance
  else
    let x ← source v m.qa (v.span a) v.w
    vecFinish v m (v.span d) v.w (((← strand).selected v m).map fun k => (k, quiet (x k)))

/-- VIOTA (R264). -/
def viotaM (i : Instr) (d : VReg) (mk : MReg) (me : Bool) : M Unit := do
  let m := modsOf mk me
  let v ← vecPre i classI false false (fun v => some (v.span d)) (fun _ => [])
  vecFinish v m (v.span d) v.w (((← strand).selected v m).map fun k => (k, quiet (k % 2 ^ v.w)))

/-- VSPLAT (R264). -/
def vsplatM (i : Instr) (d : VReg) (b : GReg) (mk : MReg) (me : Bool) : M Unit := do
  let m := modsOf mk me
  let v ← vecPre i classXCode false false (fun v => some (v.span d)) (fun _ => [])
  let y := (← scalarSource m.qs b).toNat % 2 ^ v.w
  vecFinish v m (v.span d) v.w (((← strand).selected v m).map fun k => (k, quiet y))

/-- VMOV.Q (R264). -/
def vmovQM (i : Instr) (q : Fin 2) (a : VReg) (b : GReg) : M Unit := do
  let v ← vecPre i classXCode false false (fun _ => none) (fun v => [v.span a])
  needRoom q
  let j := fieldOf (← gR b) 31 0
  let x ← source v none (v.span a) v.w
  pushResult q (if j < v.vl then BitVec.ofNat 64 (x j) else 0)
  advance

/-- VNARROW (R260). -/
def vnarrowM (i : Instr) (d a : VReg) (mk : MReg) (me : Bool) : M Unit := do
  let m := modsOf mk me
  let v ← vecPre i hasWide true true (fun v => some (v.span d)) (fun v => unlessQueue m.qa (v.spanOf a (2 * v.w)))
  let x ← source v m.qa (v.spanOf a (2 * v.w)) (2 * v.w)
  vecFinish v m (v.span d) v.w
    (((← strand).selected v m).map fun k => (k, v.ty.round (v.mode k) ((wideTy v.ty).num (x k))))

/-- The type that a literal type field names (R260). -/
def litTy (t : Fin 32) : ElemTy := (elemTyOf t.val).getD (.int false 8)

/-- VCVT (R260). -/
def vcvtM (i : Instr) (d a : VReg) (t : Fin 32) (mk : MReg) (me : Bool) : M Unit := do
  let m := modsOf mk me
  let src := litTy t
  let v ← vecPre i classXCode false false (fun v => some (v.span d)) (fun v => unlessQueue m.qa (v.spanOf a src.width))
  checkRounding i v (convRounds t.val v.et)
  let x ← source v m.qa (v.spanOf a src.width) src.width
  vecFinish v m (v.span d) v.w (((← strand).selected v m).map fun k => (k, v.ty.round (v.mode k) (src.num (x k))))

/-- The ends of a type's range (R260). -/
def rangeOf (t : ElemTy) : Num × Num :=
  match t with
  | .flt f =>
    let m := f.decode f.maxCode
    (m.neg, m)
  | .int s w => (numOfInt (intRange s w).1, numOfInt (intRange s w).2)

/-- VSAT (R260): a clamp records SATM and sets no flag. -/
def elemSat (bound t : ElemTy) (x : Nat) : Res :=
  let v := t.num x
  let (lo, hi) := rangeOf bound
  if v.isNan then quiet x
  else if numCmp v lo == .lt then ⟨(t.round .rz lo).bits, 0, true⟩
  else if numCmp v hi == .gt then ⟨(t.round .rz hi).bits, 0, true⟩
  else quiet x

/-- VSAT. -/
def vsatM (i : Instr) (d a : VReg) (t : Fin 32) (mk : MReg) (me : Bool) : M Unit :=
  vecUn i classXCode false d a mk me fun ty _ x => elemSat (litTy t) ty x

/-- The types that VQNT and VDQNT convert between registers (R261). -/
def classQ (et : Nat) : Bool := et == 0x00 || et == 0x02 || et == 0x03

/-- Bits before the element codes of a block: scale, and for SX4 the outlier byte. -/
def headBits : Stored → Nat
  | .sx4 => 16
  | _ => 8

/-- Bits of one element code of a block. -/
def codeBits (p : Stored) : Nat := (8 * p.blockBytes - headBits p) / 32

/-- The shape trap of R261, whose TVAL no rule states. -/
def requireBlocks (v : VView) : M Unit := do
  if v.vl % 32 = 0 then pure () else trapOpen cShape

/-- A block with the codes of some elements made zero. -/
def zeroCodes (p : Stored) (blk : Nat) (js : List Nat) : Nat :=
  js.foldl (fun b j =>
    b - elemAt (codeBits p) (b >>> headBits p) j * 2 ^ (headBits p + codeBits p * j)) blk

/-- The blocks that VQNT makes of its elements; padding elements count as zero (R261). -/
def quantBlocks (v : VView) (p : Stored) (x : Nat → Nat) : List BlockRes :=
  (List.range (v.vl / 32)).map fun k =>
    p.encode (fun j => v.mode (32 * k + j)) ((List.range 32).map fun j => (v.ty.num (x (32 * k + j)), decide (v.n ≤ 32 * k + j)))

/-- What each element below n of quantised blocks raises (R261). -/
def quantResults (v : VView) (blks : List BlockRes) : List (Nat × Res) :=
  (blks.zipIdx.flatMap fun (b, k) =>
    (List.range 32).map fun j => (32 * k + j, (⟨0, b.flags.getD j 0, b.sat.getD j false⟩ : Res))).filter fun r => decide (r.1 < v.n)

/-- A strand with quantised blocks written to a group, the codes of the elements in `drop` made zero (R261, R174). -/
def Strand.withQuant (t : Strand) (v : VView) (p : Stored) (d : Span) (blks : List BlockRes) (drop : List Nat) : Strand :=
  t.setImage v.regBits d (blks.zipIdx.foldl (fun g (b, k) =>
    setElem (8 * p.blockBytes) g k
      (zeroCodes p b.blk ((drop.filter fun e => e / 32 == k).map fun e => e % 32))) (t.image v.regBits d))

/-- VQNT (R261). -/
def vqntM (i : Instr) (d a : VReg) (t : Fin 32) (mk : MReg) : M Unit := do
  let m := modsOf mk false
  let p := (packedOf t.val).getD .sx4
  let v ← vecPre i classQ true true (fun v => some (v.spanOf d 16)) (fun v => unlessQueue m.qa (v.span a))
  let x ← source v m.qa (v.span a) v.w
  requireBlocks v
  let blks := quantBlocks v p x
  let h ← hart
  let _ ← settle v m.sp (quantResults v blks)
  popUsed m
  modStrand fun s => s.withQuant v p (v.spanOf d 16) blks
    (if m.sp then ((quantResults v blks).filter fun r => enabledOf h r.2.flags).map (·.1) else [])
  advance

/-- VDQNT (R261). -/
def vdqntM (i : Instr) (d a : VReg) (t : Fin 32) (mk : MReg) : M Unit := do
  let m := modsOf mk false
  let p := (packedOf t.val).getD .sx4
  let v ← vecPre i classQ true true (fun v => some (v.span d)) (fun v => unlessQueue m.qa (v.spanOf a 16))
  let x ← packedSource v m.qa (v.spanOf a 16)
  requireBlocks v
  let vals := (List.range (v.vl / 32)).flatMap fun k => p.decode (elemAt (8 * p.blockBytes) x k)
  vecFinish v m (v.span d) v.w ((List.range v.n).map fun k => (k, v.ty.round (v.mode k) (vals.getD k (.nan false))))

/-- The conditions of VCMP (R262). -/
def condHolds (c : Nat) (x y : Num) : Bool :=
  if x.isNan || y.isNan then c == 1 || c == 6
  else
    match c, numCmp x y with
    | 0, o => o == .eq
    | 1, o => o != .eq
    | 2, o => o == .lt
    | 3, o => o != .gt
    | 4, o => o == .gt
    | 5, o => o != .lt
    | _, _ => false

/-- One compared element: its bit, and NV for a signalling NaN. -/
def elemCmp (c : Nat) : ElemOp := fun t _ x y =>
  let a := t.num x
  let b := t.num y
  ⟨if condHolds c a b then 1 else 0, if a.isSnan || b.isSnan then flagNV else 0, false⟩

/-- Writing compared elements to a mask. -/
def cmpFinish (v : VView) (m : Mods) (d : MReg) (rs : List (Nat × Res)) : M Unit := do
  let vals ← settle v m.sp rs
  popUsed m
  writeMask v d (vals.map fun x => (x.1, x.2 == 1))
  advance

/-- VCMP (R262). -/
def vcmpM (i : Instr) (d : MReg) (a b : VReg) (mk : MReg) (me : Bool) (c : Fin 8) : M Unit := do
  let m := modsOf mk me
  let v ← vecPre i classXCode false false (fun _ => none)
    (fun v => unlessQueue m.qa (v.span a) ++ unlessQueue m.qb (v.span b))
  let x ← source v m.qa (v.span a) v.w
  let y ← source v m.qb (v.span b) v.w
  cmpFinish v m d (((← strand).selected v m).map fun k => (k, elemCmp c.val v.ty .rne (x k) (y k)))

/-- VCMP.S (R262). -/
def vcmpSM (i : Instr) (d : MReg) (a : VReg) (b : GReg) (mk : MReg) (me : Bool) (c : Fin 8) : M Unit := do
  let m := modsOf mk me
  let v ← vecPre i classXCode false false (fun _ => none) (fun v => unlessQueue m.qa (v.span a))
  let x ← source v m.qa (v.span a) v.w
  let y := (← scalarSource m.qs b).toNat % 2 ^ v.w
  cmpFinish v m d (((← strand).selected v m).map fun k => (k, elemCmp c.val v.ty .rne (x k) y))

/-- VSEL (R263). -/
def vselM (i : Instr) (d a b : VReg) (mk : MReg) : M Unit := do
  let v ← vecPre i classXP false false (fun v => some (v.span d)) (fun v => [v.span a, v.span b])
  let t ← strand
  if classPCode v.et then
    moveBlocks v (t.maskBit mk) (v.span d) (t.image v.regBits (v.span a)) (some (t.image v.regBits (v.span b)))
  else
    let x ← source v none (v.span a) v.w
    let y ← source v none (v.span b) v.w
    writeVec v (v.span d) v.w ((List.range v.n).map fun k => (k, if t.maskBit mk k then x k else y k))
  advance

/-- VMERGE (R263), after the FM test of R175. -/
def vmergeM (i : Instr) (d a : VReg) (mk : MReg) : M Unit := do
  let v ← vecPre i classXP false false (fun v => some (v.span d)) (fun v => [v.span a])
  let t ← strand
  match (List.range v.vl).find? fun k => t.maskBit mk k && t.fm.getLsbD k with
  | some k => trap cSpeculative (BitVec.ofNat 64 k)
  | none => pure ()
  if classPCode v.et then moveBlocks v (t.maskBit mk) (v.span d) (t.image v.regBits (v.span a)) none
  else
    let x ← source v none (v.span a) v.w
    writeVec v (v.span d) v.w (((List.range v.n).filter (t.maskBit mk)).map fun k => (k, x k))
  advance

/-- VADD (R259): Adds vector elements. -/
def execVadd (d : VReg) (a : VReg) (b : VReg) (mk : MReg) (me : Bool) (s : State) : Host.Outcome State Fault Refusal :=
  perform (.vadd d a b mk me) (vecBin (.vadd d a b mk me) classFI true false sameWidth d a b mk me elemAdd) s

/-- VADD_S (R259): Adds a scalar to vector elements. -/
def execVaddS (d : VReg) (a : VReg) (b : GReg) (mk : MReg) (me : Bool) (s : State) : Host.Outcome State Fault Refusal :=
  perform (.vaddS d a b mk me) (vecScal (.vaddS d a b mk me) classFI true false sameWidth d a b mk me elemAdd) s

/-- VSUB (R259): Subtracts vector elements. -/
def execVsub (d : VReg) (a : VReg) (b : VReg) (mk : MReg) (me : Bool) (s : State) : Host.Outcome State Fault Refusal :=
  perform (.vsub d a b mk me) (vecBin (.vsub d a b mk me) classFI true false sameWidth d a b mk me elemSub) s

/-- VSUB_S (R259): Subtracts a scalar from vector elements. -/
def execVsubS (d : VReg) (a : VReg) (b : GReg) (mk : MReg) (me : Bool) (s : State) : Host.Outcome State Fault Refusal :=
  perform (.vsubS d a b mk me) (vecScal (.vsubS d a b mk me) classFI true false sameWidth d a b mk me elemSub) s

/-- VMUL (R259): Multiplies vector elements. -/
def execVmul (d : VReg) (a : VReg) (b : VReg) (mk : MReg) (me : Bool) (s : State) : Host.Outcome State Fault Refusal :=
  perform (.vmul d a b mk me) (vecBin (.vmul d a b mk me) classFI true false sameWidth d a b mk me elemMul) s

/-- VMUL_S (R259): Multiplies vector elements by a scalar. -/
def execVmulS (d : VReg) (a : VReg) (b : GReg) (mk : MReg) (me : Bool) (s : State) : Host.Outcome State Fault Refusal :=
  perform (.vmulS d a b mk me) (vecScal (.vmulS d a b mk me) classFI true false sameWidth d a b mk me elemMul) s

/-- VDIV (R259): Divides vector elements. -/
def execVdiv (d : VReg) (a : VReg) (b : VReg) (mk : MReg) (me : Bool) (s : State) : Host.Outcome State Fault Refusal :=
  perform (.vdiv d a b mk me) (vecBin (.vdiv d a b mk me) classFI true false sameWidth d a b mk me elemDiv) s

/-- VDIV_S (R259): Divides vector elements by a scalar. -/
def execVdivS (d : VReg) (a : VReg) (b : GReg) (mk : MReg) (me : Bool) (s : State) : Host.Outcome State Fault Refusal :=
  perform (.vdivS d a b mk me) (vecScal (.vdivS d a b mk me) classFI true false sameWidth d a b mk me elemDiv) s

/-- VMIN (R259): Takes the element-wise minimum. -/
def execVmin (d : VReg) (a : VReg) (b : VReg) (mk : MReg) (me : Bool) (s : State) : Host.Outcome State Fault Refusal :=
  perform (.vmin d a b mk me) (vecBin (.vmin d a b mk me) classFI false false sameWidth d a b mk me (elemMinMax false)) s

/-- VMIN_S (R259): Takes the minimum of each element and a scalar. -/
def execVminS (d : VReg) (a : VReg) (b : GReg) (mk : MReg) (me : Bool) (s : State) : Host.Outcome State Fault Refusal :=
  perform (.vminS d a b mk me) (vecScal (.vminS d a b mk me) classFI false false sameWidth d a b mk me (elemMinMax false)) s

/-- VMAX (R259): Takes the element-wise maximum. -/
def execVmax (d : VReg) (a : VReg) (b : VReg) (mk : MReg) (me : Bool) (s : State) : Host.Outcome State Fault Refusal :=
  perform (.vmax d a b mk me) (vecBin (.vmax d a b mk me) classFI false false sameWidth d a b mk me (elemMinMax true)) s

/-- VMAX_S (R259): Takes the maximum of each element and a scalar. -/
def execVmaxS (d : VReg) (a : VReg) (b : GReg) (mk : MReg) (me : Bool) (s : State) : Host.Outcome State Fault Refusal :=
  perform (.vmaxS d a b mk me) (vecScal (.vmaxS d a b mk me) classFI false false sameWidth d a b mk me (elemMinMax true)) s

/-- VAND (R259): Takes the element-wise bitwise AND. -/
def execVand (d : VReg) (a : VReg) (b : VReg) (mk : MReg) (me : Bool) (s : State) : Host.Outcome State Fault Refusal :=
  perform (.vand d a b mk me) (vecBin (.vand d a b mk me) classXCode false false sameWidth d a b mk me (elemBits Nat.land)) s

/-- VAND_S (R259): Takes the bitwise AND of each element and a scalar. -/
def execVandS (d : VReg) (a : VReg) (b : GReg) (mk : MReg) (me : Bool) (s : State) : Host.Outcome State Fault Refusal :=
  perform (.vandS d a b mk me) (vecScal (.vandS d a b mk me) classXCode false false sameWidth d a b mk me (elemBits Nat.land)) s

/-- VOR (R259): Takes the element-wise bitwise OR. -/
def execVor (d : VReg) (a : VReg) (b : VReg) (mk : MReg) (me : Bool) (s : State) : Host.Outcome State Fault Refusal :=
  perform (.vor d a b mk me) (vecBin (.vor d a b mk me) classXCode false false sameWidth d a b mk me (elemBits Nat.lor)) s

/-- VOR_S (R259): Takes the bitwise OR of each element and a scalar. -/
def execVorS (d : VReg) (a : VReg) (b : GReg) (mk : MReg) (me : Bool) (s : State) : Host.Outcome State Fault Refusal :=
  perform (.vorS d a b mk me) (vecScal (.vorS d a b mk me) classXCode false false sameWidth d a b mk me (elemBits Nat.lor)) s

/-- VXOR (R259): Takes the element-wise bitwise XOR. -/
def execVxor (d : VReg) (a : VReg) (b : VReg) (mk : MReg) (me : Bool) (s : State) : Host.Outcome State Fault Refusal :=
  perform (.vxor d a b mk me) (vecBin (.vxor d a b mk me) classXCode false false sameWidth d a b mk me (elemBits Nat.xor)) s

/-- VXOR_S (R259): Takes the bitwise XOR of each element and a scalar. -/
def execVxorS (d : VReg) (a : VReg) (b : GReg) (mk : MReg) (me : Bool) (s : State) : Host.Outcome State Fault Refusal :=
  perform (.vxorS d a b mk me) (vecScal (.vxorS d a b mk me) classXCode false false sameWidth d a b mk me (elemBits Nat.xor)) s

/-- VSHL (R259): Shifts elements left. -/
def execVshl (d : VReg) (a : VReg) (b : VReg) (mk : MReg) (me : Bool) (s : State) : Host.Outcome State Fault Refusal :=
  perform (.vshl d a b mk me) (vecBin (.vshl d a b mk me) classI false false sameWidth d a b mk me elemShl) s

/-- VSHL_S (R259): Shifts elements left by a scalar. -/
def execVshlS (d : VReg) (a : VReg) (b : GReg) (mk : MReg) (me : Bool) (s : State) : Host.Outcome State Fault Refusal :=
  perform (.vshlS d a b mk me) (vecScal (.vshlS d a b mk me) classI false false sameWidth d a b mk me elemShl) s

/-- VSHR (R259): Shifts elements right logically. -/
def execVshr (d : VReg) (a : VReg) (b : VReg) (mk : MReg) (me : Bool) (s : State) : Host.Outcome State Fault Refusal :=
  perform (.vshr d a b mk me) (vecBin (.vshr d a b mk me) classI false false sameWidth d a b mk me elemShr) s

/-- VSHR_S (R259): Shifts elements right logically by a scalar. -/
def execVshrS (d : VReg) (a : VReg) (b : GReg) (mk : MReg) (me : Bool) (s : State) : Host.Outcome State Fault Refusal :=
  perform (.vshrS d a b mk me) (vecScal (.vshrS d a b mk me) classI false false sameWidth d a b mk me elemShr) s

/-- VSRA (R259): Shifts elements right arithmetically. -/
def execVsra (d : VReg) (a : VReg) (b : VReg) (mk : MReg) (me : Bool) (s : State) : Host.Outcome State Fault Refusal :=
  perform (.vsra d a b mk me) (vecBin (.vsra d a b mk me) classI false false sameWidth d a b mk me elemSra) s

/-- VSRA_S (R259): Shifts elements right arithmetically by a scalar. -/
def execVsraS (d : VReg) (a : VReg) (b : GReg) (mk : MReg) (me : Bool) (s : State) : Host.Outcome State Fault Refusal :=
  perform (.vsraS d a b mk me) (vecScal (.vsraS d a b mk me) classI false false sameWidth d a b mk me elemSra) s

/-- VWMUL (R260): Multiplies elements into the wide type. -/
def execVwmul (d : VReg) (a : VReg) (b : VReg) (mk : MReg) (me : Bool) (s : State) : Host.Outcome State Fault Refusal :=
  perform (.vwmul d a b mk me) (vecBin (.vwmul d a b mk me) hasWide true true wideWidth d a b mk me elemWmul) s

/-- VWMUL_S (R260): Multiplies elements by a scalar into the wide type. -/
def execVwmulS (d : VReg) (a : VReg) (b : GReg) (mk : MReg) (me : Bool) (s : State) : Host.Outcome State Fault Refusal :=
  perform (.vwmulS d a b mk me) (vecScal (.vwmulS d a b mk me) hasWide true true wideWidth d a b mk me elemWmul) s

/-- VWADD (R260): Adds elements into the wide type. -/
def execVwadd (d : VReg) (a : VReg) (b : VReg) (mk : MReg) (me : Bool) (s : State) : Host.Outcome State Fault Refusal :=
  perform (.vwadd d a b mk me) (vecBin (.vwadd d a b mk me) hasWide true true wideWidth d a b mk me elemWadd) s

/-- VWADD_S (R260): Adds a scalar to elements into the wide type. -/
def execVwaddS (d : VReg) (a : VReg) (b : GReg) (mk : MReg) (me : Bool) (s : State) : Host.Outcome State Fault Refusal :=
  perform (.vwaddS d a b mk me) (vecScal (.vwaddS d a b mk me) hasWide true true wideWidth d a b mk me elemWadd) s

/-- VFMA (R259): Computes a×b+d with one rounding. -/
def execVfma (d : VReg) (a : VReg) (b : VReg) (mk : MReg) (me : Bool) (s : State) : Host.Outcome State Fault Refusal :=
  perform (.vfma d a b mk me) (vecFma (.vfma d a b mk me) false false d a b mk me) s

/-- VFMA_S (R259): Computes a×scalar+d with one rounding. -/
def execVfmaS (d : VReg) (a : VReg) (b : GReg) (mk : MReg) (me : Bool) (s : State) : Host.Outcome State Fault Refusal :=
  perform (.vfmaS d a b mk me) (vecFmaS (.vfmaS d a b mk me) false false d a b mk me) s

/-- VFMS (R259): Computes a×b−d with one rounding. -/
def execVfms (d : VReg) (a : VReg) (b : VReg) (mk : MReg) (me : Bool) (s : State) : Host.Outcome State Fault Refusal :=
  perform (.vfms d a b mk me) (vecFma (.vfms d a b mk me) false true d a b mk me) s

/-- VFMS_S (R259): Computes a×scalar−d with one rounding. -/
def execVfmsS (d : VReg) (a : VReg) (b : GReg) (mk : MReg) (me : Bool) (s : State) : Host.Outcome State Fault Refusal :=
  perform (.vfmsS d a b mk me) (vecFmaS (.vfmsS d a b mk me) false true d a b mk me) s

/-- VFNMA (R259): Computes −(a×b)+d with one rounding. -/
def execVfnma (d : VReg) (a : VReg) (b : VReg) (mk : MReg) (me : Bool) (s : State) : Host.Outcome State Fault Refusal :=
  perform (.vfnma d a b mk me) (vecFma (.vfnma d a b mk me) true false d a b mk me) s

/-- VFNMA_S (R259): Computes −(a×scalar)+d with one rounding. -/
def execVfnmaS (d : VReg) (a : VReg) (b : GReg) (mk : MReg) (me : Bool) (s : State) : Host.Outcome State Fault Refusal :=
  perform (.vfnmaS d a b mk me) (vecFmaS (.vfnmaS d a b mk me) true false d a b mk me) s

/-- VSQRT (R259): Takes the element-wise square root. -/
def execVsqrt (d : VReg) (a : VReg) (mk : MReg) (me : Bool) (s : State) : Host.Outcome State Fault Refusal :=
  perform (.vsqrt d a mk me) (vecUn (.vsqrt d a mk me) classF true d a mk me elemSqrt) s

/-- VRCP (R259): Takes the element-wise reciprocal. -/
def execVrcp (d : VReg) (a : VReg) (mk : MReg) (me : Bool) (s : State) : Host.Outcome State Fault Refusal :=
  perform (.vrcp d a mk me) (vecUn (.vrcp d a mk me) classF true d a mk me elemRcp) s

/-- VABS (R259): Takes the element-wise absolute value. -/
def execVabs (d : VReg) (a : VReg) (mk : MReg) (me : Bool) (s : State) : Host.Outcome State Fault Refusal :=
  perform (.vabs d a mk me) (vecUn (.vabs d a mk me) classFI false d a mk me elemAbs) s

/-- VNEG (R259): Negates elements. -/
def execVneg (d : VReg) (a : VReg) (mk : MReg) (me : Bool) (s : State) : Host.Outcome State Fault Refusal :=
  perform (.vneg d a mk me) (vecUn (.vneg d a mk me) classFI false d a mk me elemNeg) s

/-- VMOV (R259): Copies elements bit-exactly, packed blocks included. -/
def execVmov (d : VReg) (a : VReg) (mk : MReg) (me : Bool) (s : State) : Host.Outcome State Fault Refusal :=
  perform (.vmov d a mk me) (vmovM (.vmov d a mk me) d a mk me) s

/-- VCLASS (R264): Writes a class word for each floating-point element. -/
def execVclass (d : VReg) (a : VReg) (mk : MReg) (me : Bool) (s : State) : Host.Outcome State Fault Refusal :=
  perform (.vclass d a mk me) (vecUn (.vclass d a mk me) (fun et => decide (et ≤ 2)) false d a mk me elemClass) s

/-- VIOTA (R264): Writes element i := i mod 2^w. -/
def execViota (d : VReg) (mk : MReg) (me : Bool) (s : State) : Host.Outcome State Fault Refusal :=
  perform (.viota d mk me) (viotaM (.viota d mk me) d mk me) s

/-- VSPLAT (R264): Writes gb to every selected element. -/
def execVsplat (d : VReg) (b : GReg) (mk : MReg) (me : Bool) (s : State) : Host.Outcome State Fault Refusal :=
  perform (.vsplat d b mk me) (vsplatM (.vsplat d b mk me) d b mk me) s

/-- VMOV_Q (R264): Appends one element of va to q6 or q7. -/
def execVmovQ (q : Fin 2) (a : VReg) (b : GReg) (s : State) : Host.Outcome State Fault Refusal :=
  perform (.vmovQ q a b) (vmovQM (.vmovQ q a b) q a b) s

/-- VNARROW (R260): Narrows elements from the wide type, saturating. -/
def execVnarrow (d : VReg) (a : VReg) (mk : MReg) (me : Bool) (s : State) : Host.Outcome State Fault Refusal :=
  perform (.vnarrow d a mk me) (vnarrowM (.vnarrow d a mk me) d a mk me) s

/-- VCVT (R260): Converts elements from type T to VTYPE.ET, rounding and saturating. -/
def execVcvt (d : VReg) (a : VReg) (t : Fin 32) (mk : MReg) (me : Bool) (s : State) : Host.Outcome State Fault Refusal :=
  perform (.vcvt d a t mk me) (vcvtM (.vcvt d a t mk me) d a t mk me) s

/-- VQNT (R261): Quantises elements into packed blocks of type T. -/
def execVqnt (d : VReg) (a : VReg) (t : Fin 32) (mk : MReg) (s : State) : Host.Outcome State Fault Refusal :=
  perform (.vqnt d a t mk) (vqntM (.vqnt d a t mk) d a t mk) s

/-- VDQNT (R261): Decodes packed blocks of type T into elements. -/
def execVdqnt (d : VReg) (a : VReg) (t : Fin 32) (mk : MReg) (s : State) : Host.Outcome State Fault Refusal :=
  perform (.vdqnt d a t mk) (vdqntM (.vdqnt d a t mk) d a t mk) s

/-- VSAT (R260): Clamps elements to the range of type T and sets their SATM bits. -/
def execVsat (d : VReg) (a : VReg) (t : Fin 32) (mk : MReg) (me : Bool) (s : State) : Host.Outcome State Fault Refusal :=
  perform (.vsat d a t mk me) (vsatM (.vsat d a t mk me) d a t mk me) s

/-- VCMP (R262): Compares vector elements under condition cc into a mask. -/
def execVcmp (d : MReg) (a : VReg) (b : VReg) (mk : MReg) (me : Bool) (c : Fin 8) (s : State) : Host.Outcome State Fault Refusal :=
  perform (.vcmp d a b mk me c) (vcmpM (.vcmp d a b mk me c) d a b mk me c) s

/-- VCMP_S (R262): Compares vector elements with a scalar under condition cc into a mask. -/
def execVcmpS (d : MReg) (a : VReg) (b : GReg) (mk : MReg) (me : Bool) (c : Fin 8) (s : State) : Host.Outcome State Fault Refusal :=
  perform (.vcmpS d a b mk me c) (vcmpSM (.vcmpS d a b mk me c) d a b mk me c) s

/-- VSEL (R263): Selects va or vb for each element under the mask. -/
def execVsel (d : VReg) (a : VReg) (b : VReg) (mk : MReg) (s : State) : Host.Outcome State Fault Refusal :=
  perform (.vsel d a b mk) (vselM (.vsel d a b mk) d a b mk) s

/-- VMERGE (R263): Applies the FM test, then writes va to the selected elements. -/
def execVmerge (d : VReg) (a : VReg) (mk : MReg) (s : State) : Host.Outcome State Fault Refusal :=
  perform (.vmerge d a mk) (vmergeM (.vmerge d a mk) d a mk) s

end Sys2Proof.Machine

end
end

