-- ==== Sys2Proof/Machine/VecMem.lean ====
section
/-! DEFINITION. Vector memory (10 R247-R257, 02 R38-R40, 05 R115-R118). -/

noncomputable section

namespace Sys2Proof.Machine

/-- One thing that a vector memory instruction moves whole: an element, or a block of elements (R102, R238). -/
structure MUnit where
  /-- its first element and how many it holds -/
  lo : Nat
  cnt : Nat
  va : Word
  /-- bytes, alignment that a bank page or system space asks for, and first bit within the byte (INT4) -/
  len : Nat
  align : Nat
  sub : Nat
deriving DecidableEq, Repr

/-- The pages of a unit: each with the first address and the bytes on it. -/
abbrev Parts := List (PageTr × Nat × Nat)

/-- The format of elements in memory, where it is no block format: none for a block (R101). -/
def VView.memTy (v : VView) : Option ElemTy :=
  if v.mfmt = 0 then elemTyOf v.et
  else match storedOf v.mfmt with
    | some (.plain f) => some (.flt f)
    | _ => none

/-- Bits of an element in memory (R247). -/
def VView.memBits (v : VView) : Nat :=
  match v.memTy with
  | some t => t.width
  | none => 8

/-- Bytes of an element in memory; 1 for INT4. -/
def VView.memBytes (v : VView) : Nat := (v.memBits + 7) / 8

/-- Whether the MFMT and VTYPE pair is permitted (R101). -/
def VView.pairOk (v : VView) : Bool :=
  if v.mfmt = 0 then true
  else match storedOf v.mfmt with
    | some (.plain _) => classF v.et
    | some _ => v.et == 0x00 || v.et == 0x02 || v.et == 0x03
    | none => false

/-- What a form accepts (R248). -/
inductive MemForm where
  /-- VLD, VST -/
  | unit
  /-- VLDQ -/
  | queue
  /-- strided, indexed, VPF, VSTC -/
  | other
  /-- VLDL, VSCC -/
  | linked
deriving DecidableEq, Repr

/-- The type and format checks of R248. -/
def VView.formOk (v : VView) (f : MemForm) : Bool :=
  v.pairOk &&
    match f with
    | .unit => if classPCode v.et then v.mfmt == 0 else true
    | .queue => classXCode v.et && v.memTy.isSome
    | .other => classXCode v.et && v.memTy.isSome && decide (8 ≤ v.memBits)
    | .linked => classXCode v.et && v.mfmt == 0 && (v.w == 32 || v.w == 64)

/-- The block format that MFMT or a packed ET makes a unit-stride access move, if any. -/
def VView.blockFmt (v : VView) : Option Stored :=
  if classPCode v.et then packedOf v.et
  else if v.mfmt = 0 then none
  else match storedOf v.mfmt with
    | some (.plain _) => none
    | some s => some s
    | none => none

/-- A unit for element i at an address. -/
def VView.elemUnit (v : VView) (i : Nat) (va : Word) : MUnit :=
  { lo := i, cnt := 1, va := va, len := v.memBytes, align := v.memBytes, sub := 0 }

/-- The unit of element i of a unit-stride access; elements narrower than a byte pack from bit 0 (R248). -/
def VView.strideUnit (v : VView) (base : Word) (i : Nat) : MUnit :=
  if v.memBits = 4 then
    { lo := i, cnt := 1, va := base + BitVec.ofNat 64 (i / 2), len := 1, align := 1, sub := 4 * (i % 2) }
  else v.elemUnit i (base + BitVec.ofNat 64 (i * v.memBytes))

/-- The unit of block k of a unit-stride access. -/
def blockUnit (p : Stored) (base : Word) (k : Nat) : MUnit :=
  { lo := 32 * k, cnt := 32, va := base + BitVec.ofNat 64 (k * p.blockBytes), len := p.blockBytes, align := 1, sub := 0 }

/-- Whether the mask or the length selects an element of block k (R238). -/
def blockSelected (v : VView) (sel : Nat → Bool) (k : Nat) : Bool :=
  (List.range 32).any fun j => decide (32 * k + j < v.n) && sel (32 * k + j)

/-- Bit i of a completed-element mask. -/
def cmBit (cm i : Nat) : Bool := cm / 2 ^ i % 2 == 1

/-- Whether n bytes at an address meet registers of system space, which take 8-byte accesses only (R426). -/
def State.meetsRegisters (s : State) (ptbase va : Word) (n : Nat) : Bool :=
  [va, va + BitVec.ofNat 64 (n - 1)].any fun v => (s.pageAt s.turn ptbase v).any fun p =>
    ownSystem s p && !inPcie (p.sysOff v.toNat)

/-- Whether a unit asks for alignment that it has not, whatever its translation says otherwise (R189, R249). -/
def State.misaligned (s : State) (ptbase : Word) (linked : Bool) (u : MUnit) : Bool :=
  (u.va.toNat % u.align != 0 && (linked || s.aligns s.turn ptbase u.va u.len)) ||
    (u.len != 8 && s.meetsRegisters ptbase u.va u.len)

/-- The pages that a unit is enumerated with: the translated ones, or that at which its translation fails, 64 KiB where there is
none (R38, R39, log 36). -/
def State.unitPages (s : State) (ptbase : Word) (u : MUnit) : List Nat :=
  ([u.va, u.va + BitVec.ofNat 64 (u.len - 1)].map fun v =>
    ((s.pageAt s.turn ptbase v).map (·.vbase)).getD (v.toNat / 65536 * 65536)).eraseDups

/-- The trap of a linked element on a page that takes none (R249). -/
def linkedFault (s : State) (ps : Parts) : Option Nat :=
  if ps.any fun p => p.1.isSystem || leafMod p.1.leaf != s.moduleNum.val then some cProtection
  else if ps.any fun p => p.1.converts then some cFormat
  else none

/-- How an instruction enumerates: the kind of access, whether it is a linked or conditional one, whether it refuses converted pages
(R285), whether it is a .SP form, and whether its base is misaligned, so that a misaligned element is no fault of that element
alone (R174). -/
structure Walker where
  acc : Acc
  linked : Bool := false
  stored : Bool := false
  sp : Bool := false
  offBase : Bool := false
deriving DecidableEq, Repr

/-- The trap that a walker takes on translated pages (R249, R285). -/
def Walker.refuses (e : Walker) (s : State) (ps : Parts) : Option Nat :=
  if e.linked then linkedFault s ps
  else if e.stored && ps.any fun p => p.1.converts then some cFormat
  else none

/-- Translating one unit; the trap names the unit's address (R40). -/
def translateUnit (e : Walker) (u : MUnit) : M (Except TrapReq Parts) := do
  match ← tryTranslateRange e.acc u.va u.len with
  | .error t => return .error { t with tval := u.va }
  | .ok ps =>
    match e.refuses (← get) ps with
    | some c => return .error { cause := c, tval := u.va, acc := e.acc.code, page := true }
    | none => return .ok ps

/-- Enumerating a piece: units in element order up to 512 distinct pages (R38, R39).  Answers the piece and what is left. -/
def enumGo (e : Walker) : List MUnit → List Nat → M (List (MUnit × Except TrapReq Parts) × List MUnit)
  | [], _ => return ([], [])
  | u :: r, pages => do
    let before ← get
    let t ← translateUnit e u
    let new := ((← get).unitPages (← hart).ptbase u).filter fun b => !pages.contains b
    if Config.maxPages < (pages ++ new).length then
      set before
      return ([], u :: r)
    else
      let (l, rest) ← enumGo e r (pages ++ new)
      return ((u, t) :: l, rest)

/-- A translated piece: its units, those that .SP records in FM, and the units of later pieces. -/
structure Piece where
  good : List (MUnit × Parts)
  bad : List MUnit
  rest : List MUnit
deriving DecidableEq, Repr

/-- A piece enumerated and checked: misalignment first, then translation, of the lowest element; under .SP a fault of an
element is kept for FM (R40, R174, R189). -/
def enumPiece (e : Walker) (us : List MUnit) : M Piece := do
  let (l, rest) ← enumGo e us []
  let s ← get
  let base := (← hart).ptbase
  let mis := fun (x : MUnit × Except TrapReq Parts) => s.misaligned base e.linked x.1
  let good := l.filterMap fun x => match x.2 with
    | .ok ps => if mis x then none else some (x.1, ps)
    | .error _ => none
  let bad := (l.filter fun x => mis x || !(x.2 matches .ok _)).map (·.1)
  match if e.sp && !e.offBase then none else l.find? mis with
  | some x => trap cMisaligned x.1.va
  | none =>
    -- a data error is never recorded in FM (R412)
    match l.findSome? fun x => match x.2 with
      | .error t => if e.sp && t.cause != cDataError then none else some t
      | .ok _ => none with
    | some t => throw (.trap t)
    | none => return { good := good, bad := bad, rest := rest }

/-- What came of an action, without ending; one that has to wait is not begun. -/
def caught {α : Type} (m : M α) : M (Except Stop α) :=
  tryCatch (do return .ok (← m)) fun e => match e with
    | .wait r => throw (.wait r)
    | e => return .error e

/-- Stores of the execute side that stand unperformed and touch a common byte are performed before an access to a unit; its own
stores then wait no longer (R139). -/
def orderExs (ps : Parts) : M Unit := do
  let s ← get
  match s.turn with
  | .strand c =>
    match s.strand? c.val with
    | some t =>
      if (t.stores.filter (·.exs)).any fun x => (partCells x.parts).any fun a => (partCells ps).contains a then
        set (s.storeAll c)
        modStrand fun t => { t with delay := false }
      else pure ()
    | none => pure ()
  | .cc _ => pure ()

/-- Acting on units in order until one stops: what was done, and the stop. -/
def overUnits {β : Type} (f : MUnit → Parts → M β) : List (MUnit × Parts) → M (List (MUnit × β) × Option Stop)
  | [] => return ([], none)
  | (u, ps) :: r => do
    match ← caught (do
      orderExs ps
      f u ps) with
    | .ok x =>
      let (l, e) ← overUnits f r
      return ((u, x) :: l, e)
    | .error e => return ([], some e)

/-- A run over all pieces: what was done, the units kept for FM, the stop, and the element at which VPROG resumes. -/
structure Run (β : Type) where
  done : List (MUnit × β)
  bad : List MUnit
  stop : Option Stop
  resume : Option Nat

/-- Whether a stop that is asked for takes effect at a piece boundary of the executing instruction: it stands immediately before the
stop point, and R400 leaves it open (R246, log 81). -/
def stopsHere : M Bool := do
  let t ← strand
  match t.fromQueue, t.saved with
  | some f, some c =>
    if t.stop.isSome && t.iq.isEmpty && t.hart.pc == f.pc + 4 && !t.hart.lact && !t.ract && c == f.cap then
      return Config.stopsEarly (← freshNum)
    else return false
  | _, _ => return false

/-- Running pieces one after the other (R39); `before` runs once the first piece is translated. -/
def runPieces {β : Type} (w : Walker) (before : M Unit) (f : MUnit → Parts → M β) :
    Nat → List MUnit → Bool → M (Run β)
  | 0, _, _ => return ⟨[], [], none, none⟩
  | fuel + 1, us, first => do
    match ← caught (do
      let p ← enumPiece w us
      if first then before else pure ()
      return p) with
    | .error e => return ⟨[], [], some e, if first then none else us.head?.map (·.lo)⟩
    | .ok p =>
      let (l, e) ← overUnits f p.good
      match e with
      | some e => return ⟨l, p.bad, some e, if first then none else us.head?.map (·.lo)⟩
      | none =>
        if p.rest.isEmpty then return ⟨l, p.bad, none, none⟩
        else if ← stopsHere then return ⟨l, p.bad, some .parted, p.rest.head?.map (·.lo)⟩
        else
          let r ← runPieces w before f fuel p.rest false
          return ⟨l ++ r.done, p.bad ++ r.bad, r.stop, r.resume⟩

/-- VPROG FLAG, KIND, CURA, CURB (R245). -/
def vprogWord (flag : Bool) (kind cura curb : Nat) : Word :=
  BitVec.ofNat 64 ((if flag then 2 ^ 63 else 0) + kind % 8 * 2 ^ 60 + curb % 65536 * 65536 + cura % 65536)

/-- Whether VPROG holds a stop of a KIND (R246). -/
def Strand.stoppedAt (t : Strand) (kind : Nat) : Bool := bitOf t.vprog 63 && fieldOf t.vprog 62 60 == kind

/-- The element from which a KIND 0 instruction runs (R246). -/
def Strand.resumeElem (t : Strand) : Nat := if t.stoppedAt 0 then fieldOf t.vprog 15 0 else 0

/-- Completing an instruction that had been stopped writes VPROG := 0 (R246); one of KIND 2 drops a fibre record as well (R291). -/
def clearProgress (kind : Nat) : M Unit :=
  modStrand fun t =>
    if t.stoppedAt kind || (kind == 2 && bitOf t.vprog 63 && decide (3 ≤ fieldOf t.vprog 62 60)) then { t with vprog := 0 } else t

/-- A trap carries the mask of completed elements: those that were completed before the instruction ran again and, for a data error,
what it has done since (R394). -/
def withDone (before done : Nat) (e : Stop) : Stop :=
  match e with
  | .trap t => .trap { t with cm := if t.cause = cDataError then before ||| done else before }
  | e => e

/-- The elements of units, as a completed-element mask. -/
def cmOf (us : List MUnit) : Nat :=
  (us.flatMap fun u => (List.range u.cnt).map fun j => u.lo + j).foldl (fun a i => if cmBit a i then a else a + 2 ^ i) 0

/-- The stop of a run taken, VPROG written before it (R246). -/
def takeStop {β : Type} (r : Run β) (kind curb : Nat) (e : Stop) : M Unit := do
  match r.resume with
  | some j => modStrand fun t => { t with vprog := vprogWord true kind j curb }
  | none => pure ()
  throw (withDone (← strand).cm (cmOf (r.done.map (·.1))) e)

/-- Results of width w written as they stand, padding untouched: what a stopped load leaves. -/
def writePartial (v : VView) (sp : Span) (w : Nat) (vals : List (Nat × Nat)) : M Unit := modStrand fun t =>
  t.setImage v.regBits sp (vals.foldl (fun g x => setElem w g x.1 x.2) (t.image v.regBits sp))

/-- ConvertIn of one element (R101). -/
def VView.convertIn (v : VView) (i raw : Nat) : Res :=
  if v.mfmt = 0 then quiet raw
  else match v.memTy with
    | some t => v.ty.round (v.mode i) (t.num raw)
    | none => quiet raw

/-- ConvertOut of one element (R101). -/
def VView.convertOut (v : VView) (i code : Nat) : Res :=
  if v.mfmt = 0 then quiet code
  else match v.memTy with
    | some t => t.round (v.mode i) (v.ty.num code)
    | none => quiet code

/-- The elements that a unit's bytes give (R102, R250). -/
def VView.unitElems (v : VView) (sel : Nat → Bool) (u : MUnit) (raw : Nat) : List (Nat × Res) :=
  match v.blockFmt with
  | some p =>
    let xs := p.decode raw
    ((List.range 32).filter fun j => decide (u.lo + j < v.n) && sel (u.lo + j)).map fun j =>
      (u.lo + j, v.ty.round (v.mode (u.lo + j)) (xs.getD j (.nan false)))
  | none => [(u.lo, v.convertIn u.lo raw)]

/-- Reading a unit. -/
def readUnit (v : VView) (use : L1Use) (stream : Bool) (fu : FrameUse) (u : MUnit) (ps : Parts) : M Nat := do
  let x ← readParts ps u.va.toNat use stream fu (.element u.lo v.laneWidth)
  return if v.memBits = 4 then x / 2 ^ u.sub % 16 else x

/-- How a load of footprint F meets the L1 (R115, R118). -/
def bypUse (t : Strand) (footprint : Nat) : L1Use :=
  if footprint ≤ fieldOf t.bypt 31 0 then .fills .main true else .served

/-- The units that a load still has to read. -/
def pendingUnits (t : Strand) (us : List MUnit) : List MUnit := us.filter fun u => decide (t.resumeElem ≤ u.lo)

/-- The end of a load into a vector group (R250, R240, R246): what is done of one that stops in a later piece has set its flags,
SATM and FM, and an arithmetic trap of it comes first (log 82). -/
def finishLoad (v : VView) (m : Mods) (d : Span) (sel : Nat → Bool) (r : Run Nat) : M Unit := do
  let vals ← settle v m.sp (r.done.flatMap fun x => v.unitElems sel x.1 x.2)
  let bad := r.bad.flatMap fun u => (List.range u.cnt).filterMap fun j =>
    if u.lo + j < v.n then some (u.lo + j) else none
  recordFm bad
  let vals := vals ++ bad.map fun i => (i, 0)
  match r.stop with
  | some e =>
    writePartial v d v.w vals
    takeStop r 0 0 e
  | none =>
    writeVec v d v.w vals
    clearProgress 0
    advance

/-- How a load from a base enumerates. -/
def loadWalker (v : VView) (m : Mods) (base : Word) : Walker :=
  { acc := .load, sp := m.sp, offBase := base.toNat % v.memBytes != 0 }

/-- A load of units from a base into a vector group. -/
def loadVec (v : VView) (m : Mods) (d : Span) (base : Word) (us : List MUnit) (f : MUnit → Parts → M Nat) : M Unit := do
  let t ← strand
  let todo := pendingUnits t us
  let r ← runPieces (loadWalker v m base) (pure ()) f (todo.length + 1) todo true
  finishLoad v m d (t.selects m) r

/-- The selected packed blocks below VL / 32. -/
def packedUnits (v : VView) (p : Stored) (base : Word) (sel : Nat → Bool) : List MUnit :=
  ((List.range (v.vl / 32)).filter (blockSelected v sel)).map (blockUnit p base)

/-- VLD of a packed type: blocks move unchanged (R238, R248). -/
def loadPacked (v : VView) (m : Mods) (p : Stored) (d : Span) (base : Word) : M Unit := do
  let t ← strand
  let us := pendingUnits t (packedUnits v p base (t.selects m))
  let r ← runPieces { acc := .load, sp := m.sp } (pure ()) (readUnit v (bypUse t (v.vl / 32 * p.blockBytes)) true .stream)
    (us.length + 1) us true
  let bw := 8 * p.blockBytes
  let put := fun (t : Strand) (pad : Bool) =>
    let img := r.done.foldl (fun g x => setElem bw g (x.1.lo / 32) x.2) (t.image v.regBits d)
    let img := (r.bad.map fun u => u.lo / 32).foldl (fun g k => setElem bw g k 0) img
    let img := if pad then
        ((List.range (v.vl / 32)).filter fun k => decide (v.n ≤ 32 * k)).foldl (fun g k => setElem bw g k 0) img
      else img
    t.setImage v.regBits d img
  recordFm (r.bad.flatMap fun u => (List.range 32).filterMap fun j =>
    if u.lo + j < v.n then some (u.lo + j) else none)
  match r.stop with
  | some e =>
    modStrand fun t => put t false
    takeStop r 0 0 e
  | none =>
    modStrand fun t => put t true
    clearProgress 0
    advance

/-- The checks of a vector memory instruction at row 5 and 6 of R189. -/
def memPre (i : Instr) (f : MemForm) (converts : Bool) (dst : VView → Option Span) (srcs : VView → List Span) : M VView := do
  let v ← view
  requireState i (v.formOk f && groupsOk (dst v) (srcs v) false)
  checkRounding i v (converts && v.mfmt != 0)
  return v

/-- The units of a unit-stride load: elements, or the covered blocks of a block MFMT that hold a selected one (R38, R102). -/
def unitLoadUnits (t : Strand) (v : VView) (m : Mods) (base : Word) : List MUnit :=
  match v.blockFmt with
  | some p => ((List.range ((v.vl + 31) / 32)).filter (blockSelected v (t.selects m))).map (blockUnit p base)
  | none => (t.selected v m).map (v.strideUnit base)

/-- Bytes that a unit-stride load covers (R118). -/
def unitFootprint (v : VView) : Nat :=
  match v.blockFmt with
  | some p => (v.vl + 31) / 32 * p.blockBytes
  | none => (v.n * v.memBits + 7) / 8

/-- VLD (R250). -/
def vldM (i : Instr) (d : VReg) (a : GReg) (mk : MReg) (me : Bool) : M Unit := do
  let m := modsOf mk me
  let v ← memPre i .unit true (fun v => some (v.span d)) (fun _ => [])
  let base ← gR a
  match packedOf v.et with
  | some p => loadPacked v m p (v.span d) base
  | none =>
    let t ← strand
    loadVec v m (v.span d) base (unitLoadUnits t v m base)
      (readUnit v (bypUse t (unitFootprint v)) true .stream)

/-- Elements of one gathered line (R117). -/
def gatherChunk (e : Nat) : Nat := Nat.min 16 (64 / e)

/-- Elements of a strided load, in order, that missed the L1: each with its only page and what it read. -/
abbrev Missed := List (MUnit × PageTr × Nat)

/-- Cutting the elements that missed into gathered lines: consecutive elements of one page, at most k of them (R117). -/
def gatheredRuns (k : Nat) : Missed → List Missed
  | [] => []
  | x :: r =>
    match gatheredRuns k r with
    | (y :: l) :: ls =>
      if x.1.lo + 1 = y.1.lo ∧ x.2.1 = y.2.1 ∧ l.length + 1 < k then (x :: y :: l) :: ls else [x] :: (y :: l) :: ls
    | ls => [x] :: ls

/-- Filling gathered lines after a strided load that missed (R117). -/
def fillGathered (v : VView) (stride : Int) (missed : Missed) : M Unit := do
  match ← l1Core with
  | none => pure ()
  | some k =>
    (gatheredRuns (gatherChunk v.memBytes) missed).forM fun run =>
      match run with
      | [] => pure ()
      | (_, p, _) :: _ =>
        let elems := run.map fun x => (p.cell x.1.va.toNat, x.1.len, BitVec.ofNat 64 x.2.2)
        modCore k fun c => (c.l1Gather { stride := stride, elems := elems }).l1Note p

/-- The page of an element that may be in a core's L1 and is not there. -/
def l1Misses (s : State) (k : Option Nat) (u : MUnit) (ps : Parts) : Option PageTr :=
  match k, ps with
  | some c, [(p, _, _)] =>
    if p.inL1 && ((s.core c).l1Find (p.cell u.va.toNat) u.len).isNone then some p else none
  | _, _ => none

/-- VLDS (R250, R117). -/
def vldsM (i : Instr) (d : VReg) (a b : GReg) (mk : MReg) (me : Bool) : M Unit := do
  let m := modsOf mk me
  let v ← memPre i .other true (fun v => some (v.span d)) (fun _ => [])
  let base ← gR a
  let stride ← gR b
  let t ← strand
  let us := (t.selected v m).map fun i => v.elemUnit i (base + BitVec.ofNat 64 i * stride)
  let use := bypUse t (v.n * Nat.max stride.toInt.natAbs v.memBytes)
  if 64 < stride.toInt.natAbs ∧ use ≠ .served then
    let todo := pendingUnits t us
    let k ← l1Core
    let r ← runPieces (loadWalker v m base) (pure ()) (fun u ps => do
        let missed := l1Misses (← get) k u ps
        let x ← readUnit v .served false .ordinary u ps
        return (x, missed)) (todo.length + 1) todo true
    fillGathered v stride.toInt (r.done.filterMap fun x => x.2.2.map fun p => (x.1, p, x.2.1))
    finishLoad v m (v.span d) (t.selects m) ⟨r.done.map fun x => (x.1, x.2.1), r.bad, r.stop, r.resume⟩
  else loadVec v m (v.span d) base us (readUnit v use false .ordinary)

/-- An index element as a byte offset: INT32 or INT64 (R247). -/
def offsetOf (w v : Nat) : Word := BitVec.ofInt 64 (toSigned w v)

/-- The units of an indexed access. -/
def indexUnits (t : Strand) (v : VView) (m : Mods) (base : Word) (b : VReg) (iw : Nat) : List MUnit :=
  let img := t.image v.regBits (v.spanOf b iw)
  (t.selected v m).map fun i => v.elemUnit i (base + offsetOf iw (elemAt iw img i))

/-- VLDX, VLDX.D (R250). -/
def vldxM (i : Instr) (iw : Nat) (d : VReg) (a : GReg) (b : VReg) (mk : MReg) (me : Bool) : M Unit := do
  let m := modsOf mk me
  let v ← memPre i .other true (fun v => some (v.span d)) (fun v => [v.spanOf b iw])
  let base ← gR a
  let t ← strand
  loadVec v m (v.span d) base (indexUnits t v m base b iw) (readUnit v (bypUse t (v.n * 64)) false .gather)

/-- VLDL, VLDL.D (R254): the reservation set names the words read; elements completed before a data error are not read
again. -/
def vldlM (i : Instr) (iw : Nat) (d : VReg) (a : GReg) (b : VReg) (mk : MReg) (me : Bool) : M Unit := do
  let m := modsOf mk me
  let v ← memPre i .linked true (fun v => some (v.span d)) (fun v => [v.spanOf b iw])
  let base ← gR a
  let t ← strand
  let us := (indexUnits t v m base b iw).filter fun u => !cmBit t.cm u.lo
  let todo := pendingUnits t us
  let r ← runPieces { acc := .rw, linked := true } (pure ()) (fun u ps => do
      let x ← readUnit v .bypass false .gather u ps
      return (x, match ps with
        | (p, _, _) :: _ => p.cell u.va.toNat
        | [] => 0)) (todo.length + 1) todo true
  if r.stop.isNone || !r.done.isEmpty then
    modStrand fun t => { t with vresv := r.done.map fun x => (x.1.lo, x.2.2) }
  finishLoad v m (v.span d) (t.selects m) ⟨r.done.map fun x => (x.1, x.2.1), r.bad, r.stop, r.resume⟩

/-- The place that a forwarded VLDQ took when it was issued, filled; or a new entry (R164, R251). -/
def fillPlace (q : Fin 2) (e : VEntry) : M Unit := modStrand fun t =>
  let l := t.qv[q]
  match t.fromQueue, l.findIdx? fun x => x.awaits == some .load with
  | some _, some k => { t with qv := t.qv.set q.val (l.set k e) }
  | _, _ => { t with qv := t.qv.set q.val (l ++ [e]) }

/-- VLDQ (R251). -/
def vldqM (i : Instr) (q : Fin 2) (a : GReg) (mk : MReg) : M Unit := do
  let m := modsOf mk false
  let v ← memPre i .queue true (fun _ => none) (fun _ => [])
  let t ← strand
  if t.fromQueue.isNone then needPlace q else pure ()
  let base ← gR a
  let us := unitLoadUnits t v m base
  let r ← runPieces (loadWalker v m base) (pure ()) (readUnit v (bypUse t (unitFootprint v)) true .stream) (us.length + 1) us true
  match r.stop with
  | some e => throw e
  | none =>
    let vals ← settle v m.sp (r.done.flatMap fun x => v.unitElems (t.selects m) x.1 x.2)
    recordFm (r.bad.map (·.lo))
    fillPlace q { count := v.vl, width := v.w, bits := vals.foldl (fun g x => setElem v.w g x.1 x.2) 0, awaits := none }
    advance

/-- The fetch of one part of a prefetched element (R252): no value moves, nothing traps, and nothing is asked of another module
(log 68). -/
def prefetchPart (alloc : Bool) (p : PageTr) (va n : Nat) : M Unit := do
  if leafDead p.leaf || p.isBank || p.isSystem then pure ()
  else
    touchFrame p va n .ordinary
    let uo := currentUO (← get) p
    if p.converts then
      let (first, count) := p.blocks va n
      forN count fun i => touchStored p (first + i) p.storedBytes uo false false
    else
      (cutsAt 64 va n).forM fun c => do
        let cell := p.cell c.2.1
        mscTouch cell c.2.2 (BitVec.ofNat 8 (leafChain p.leaf)) uo false false
        match ← l1Core with
        | some k =>
          let s ← get
          if alloc && cellModule cell == s.moduleNum.val && ((s.core k).l1Find cell c.2.2).isNone then
            let data ← pointRead (cell / 64 * 64) 64
            modCore k fun x => (x.l1Fill .main (cell / 64) (BitVec.ofNat 512 data) false).l1Note p
          else pure ()
        | none => pure ()

/-- VPF (R252). -/
def vpfM (i : Instr) (k : Fin 4) (a b : GReg) (mk : MReg) (me : Bool) : M Unit := do
  let m := modsOf mk me
  let iw := if k.val = 3 then 64 else 32
  let v ← memPre i .other false (fun _ => none) (fun v => if 2 ≤ k.val then [v.spanOf b iw] else [])
  let base ← gR a
  let stride ← gR b
  let t ← strand
  let us := match k.val with
    | 0 => (t.selected v m).map (v.strideUnit base)
    | 1 => (t.selected v m).map fun i => v.elemUnit i (base + BitVec.ofNat 64 i * stride)
    | _ => indexUnits t v m base b iw
  let foot := match k.val with
    | 0 => unitFootprint v
    | 1 => v.n * Nat.max stride.toInt.natAbs v.memBytes
    | _ => v.n * 64
  us.forM fun u => do
    match ← translateUnit { acc := .load } u with
    | .ok ps =>
      if (← get).misaligned (← hart).ptbase false u then pure ()
      else ps.forM fun p => prefetchPart (bypUse t foot matches .fills ..) p.1 p.2.1 p.2.2
    | .error _ => pure ()
  advance

/-- The byte of which a 4-bit element takes one half, at its point of coherence. -/
def halfByte (p : PageTr) (va : Nat) (who : Consumer) : M Nat := do
  if ownSystem (← get) p then sysRead (p.sysOff va) 1 (BitVec.ofNat 64 va)
  else if p.converts then readConverted p va 1 false who
  else pointRead (p.cell va) 1

/-- Writing a unit; a 4-bit element keeps the other half of its byte. -/
def writeUnit (v : VView) (fu : FrameUse) (u : MUnit) (ps : Parts) (data : Nat) : M Unit := do
  let w := Consumer.element u.lo v.laneWidth
  if v.memBits = 4 && u.cnt == 1 then
    match ps with
    | (p, va, _) :: _ =>
      let old ← halfByte p va w
      writeParts ps u.va.toNat (setElem 4 old (u.sub / 4) data) fu w
    | [] => pure ()
  else writeParts ps u.va.toNat data fu w

/-- A unit of a store: written, or, as the agenda asks, kept to be performed later (R139). -/
def storeUnit (v : VView) (fu : FrameUse) (u : MUnit) (ps : Parts) (data : Nat) : M Unit := do
  if (← get).mayDelay ps && !(v.memBits = 4 && u.cnt == 1) then
    meetError (.element u.lo v.laneWidth)
    ps.forM fun p => touchFrame p.1 p.2.1 p.2.2 fu
    modStrand fun t => { t with stores := t.stores ++ [{ parts := ps, va := u.va.toNat, len := u.len, value := data, exs := true }] }
  else writeUnit v fu u ps data

/-- A store of units: the data of each, with the results to settle before the first byte is written (R240, R250). -/
def storeVec (v : VView) (fu : FrameUse) (us : List MUnit) (rs : List (Nat × Res)) (data : MUnit → Nat)
    (kind : Nat) (curb : MUnit → Nat) : M Unit := do
  let t ← strand
  let todo := us.filter fun u => !cmBit t.cm u.lo
  let r ← runPieces { acc := .store } (do let _ ← settle v false rs) (fun u ps => storeUnit v fu u ps (data u))
    (todo.length + 1) todo true
  match r.stop with
  | some e =>
    let next := us.find? fun u => some u.lo == r.resume
    takeStop r kind ((next.map curb).getD 0) e
  | none =>
    clearProgress kind
    advance

/-- The result of a list at an element. -/
def resAt (rs : List (Nat × Res)) (i : Nat) : Nat :=
  match rs.find? fun x => x.1 == i with
  | some x => x.2.bits
  | none => 0

/-- The stored codes of the selected elements of a register operand. -/
def storedElems (v : VView) (sel : List Nat) (x : Nat → Nat) : List (Nat × Res) :=
  sel.map fun i => (i, v.convertOut i (x i))

/-- The blocks that a store under a block MFMT writes, encoded (R102). -/
def encodedBlocks (v : VView) (p : Stored) (sel : Nat → Bool) (x : Nat → Nat) : List (Nat × BlockRes) :=
  ((List.range ((v.vl + 31) / 32)).filter (blockSelected v sel)).map fun k =>
    (k, p.encode (fun j => v.mode (32 * k + j))
      ((List.range 32).map fun j => (v.ty.num (x (32 * k + j)), decide (v.n ≤ 32 * k + j))))

/-- What a store moves: its units, the results of its conversions, and the data of each unit. -/
structure StorePlan where
  units : List MUnit
  results : List (Nat × Res)
  data : MUnit → Nat

/-- The plan of a store of single elements at given units (R250). -/
def elemPlan (t : Strand) (v : VView) (sel : List Nat) (r0 : VReg) (us : List MUnit) : StorePlan :=
  let img := t.image v.regBits (v.span r0)
  let rs := storedElems v sel fun i => elemAt v.w img i
  ⟨us, rs, fun u => resAt rs u.lo⟩

/-- The plan of VST: packed blocks, blocks encoded under MFMT, or elements (R102, R238, R250). -/
def vstPlan (t : Strand) (v : VView) (m : Mods) (r0 : VReg) (base : Word) : StorePlan :=
  let sel := t.selects m
  let img := t.image v.regBits (v.span r0)
  match packedOf v.et with
  | some p => ⟨packedUnits v p base sel, [], fun u => elemAt (8 * p.blockBytes) img (u.lo / 32)⟩
  | none =>
    match v.blockFmt with
    | some p =>
      let bs := encodedBlocks v p sel fun i => elemAt v.w img i
      ⟨bs.map fun b => blockUnit p base b.1,
        bs.flatMap fun b => ((List.range 32).filter fun j => decide (32 * b.1 + j < v.n) && sel (32 * b.1 + j)).map fun j =>
          (32 * b.1 + j, (⟨0, b.2.flags.getD j 0, b.2.sat.getD j false⟩ : Res)),
        fun u => match bs.find? fun b => 32 * b.1 == u.lo with
          | some b => b.2.blk
          | none => 0⟩
    | none => elemPlan t v (t.selected v m) r0 ((t.selected v m).map (v.strideUnit base))

/-- Carrying out the plan of a KIND 0 store. -/
def storePlan (v : VView) (fu : FrameUse) (p : StorePlan) : M Unit := do
  let t ← strand
  storeVec v fu (pendingUnits t p.units) p.results p.data 0 (fun _ => 0)

/-- VST (R250). -/
def vstM (i : Instr) (r0 : VReg) (a : GReg) (mk : MReg) (me : Bool) : M Unit := do
  let m := modsOf mk me
  let v ← memPre i .unit true (fun _ => none) (fun v => [v.span r0])
  let base ← gR a
  storePlan v .ordinary (vstPlan (← strand) v m r0 base)

/-- VSTS (R250). -/
def vstsM (i : Instr) (r0 : VReg) (a b : GReg) (mk : MReg) (me : Bool) : M Unit := do
  let m := modsOf mk me
  let v ← memPre i .other true (fun _ => none) (fun v => [v.span r0])
  let base ← gR a
  let stride ← gR b
  let t ← strand
  storePlan v .ordinary (elemPlan t v (t.selected v m) r0
    ((t.selected v m).map fun i => v.elemUnit i (base + BitVec.ofNat 64 i * stride)))

/-- VSTX, VSTX.D (R250). -/
def vstxM (i : Instr) (iw : Nat) (r0 : VReg) (a : GReg) (b : VReg) (mk : MReg) (me : Bool) : M Unit := do
  let m := modsOf mk me
  let v ← memPre i .other true (fun _ => none) (fun v => [v.span r0, v.spanOf b iw])
  let base ← gR a
  let t ← strand
  storePlan v .gather (elemPlan t v (t.selected v m) r0 (indexUnits t v m base b iw))

/-- VSTC (R253): the k-th selected element goes to ga + k * e; KIND 2 keeps the element to examine and the count stored. -/
def vstcM (i : Instr) (r0 : VReg) (a : GReg) (mk : MReg) (me : Bool) : M Unit := do
  let m := modsOf mk me
  let v ← memPre i .other true (fun _ => none) (fun v => [v.span r0])
  let base ← gR a
  let t ← strand
  let (from', count) := if t.stoppedAt 2 then (fieldOf t.vprog 15 0, fieldOf t.vprog 31 16) else (0, 0)
  let sel := (t.selected v m).filter fun i => decide (from' ≤ i)
  let us := sel.zipIdx.map fun x => v.elemUnit x.1 (base + BitVec.ofNat 64 ((count + x.2) * v.memBytes))
  let p := elemPlan t v sel r0 us
  storeVec v .ordinary p.units p.results p.data 2
    (fun u => count + (sel.filter fun i => decide (i < u.lo)).length)

/-- VSCC, VSCC.D (R254). -/
def vsccM (i : Instr) (iw : Nat) (r0 : VReg) (a : GReg) (b : VReg) (mk : MReg) : M Unit := do
  let m := modsOf mk true
  let v ← memPre i .linked true (fun _ => none) (fun v => [v.span r0, v.spanOf b iw])
  let base ← gR a
  let t ← strand
  if v.vl = 0 then
    modStrand fun t => { t with vresv := [] }
    advance
  else
    let img := t.image v.regBits (v.span r0)
    let us := (pendingUnits t (indexUnits t v m base b iw)).filter fun u => !cmBit t.cm u.lo
    let r ← runPieces { acc := .rw, linked := true } (pure ()) (fun u ps => do
        let cell := match ps with
          | (p, _, _) :: _ => p.cell u.va.toNat
          | [] => 0
        return (ps, cell)) (us.length + 1) us true
    -- every element is translated; now each stores in ascending order if its entry still names its word
    let step := fun (acc : List (MUnit × Bool) × List Nat × Option Stop) (x : MUnit × Parts × Nat) =>
      match acc with
      | (l, won, some e) => (return (l, won, some e) : M _)
      | (l, won, none) => do
        let (u, ps, cell) := x
        if t.vresv.contains (u.lo, cell) && !won.contains cell then
          match ← caught (do
            ps.forM fun p => countMix p.1 cell
            writeUnit v .gather u ps (elemAt v.w img u.lo)
            l1DropMine (cell / 64 * 64) 64) with
          | .ok _ => return (l ++ [(u, true)], cell :: won, none)
          | .error e => return (l, won, some e)
        else
          l1DropMine (cell / 64 * 64) 64
          return (l ++ [(u, false)], won, none)
    let (res, _, e) ← r.done.foldlM step ([], [], none)
    let bits := res.map fun x => (x.1.lo, x.2)
    match (r.stop.orElse fun _ => e) with
    | some e =>
      modStrand fun t =>
        let mm := bits.foldl (fun g x => setElem 1 g x.1 (if x.2 then 1 else 0)) ((t.m[mk.val]?).getD 0).toNat
        { t with m := t.m.set! mk.val (BitVec.ofNat 32768 mm) }
      takeStop (⟨res, [], some e, r.resume⟩ : Run Bool) 0 0 e
    | none =>
      writeMask v mk bits
      modStrand fun t => { t with vresv := [] }
      clearProgress 0
      advance

/-- UnZigzag of a value of b bits (R255). -/
def unZigzag (b d : Nat) : Nat := (d / 2) ^^^ (if d % 2 = 1 then 2 ^ b - 1 else 0)

/-- The elements of a coded block: its bytes as a number, delta width, element bytes, count (R255). -/
def codedElems (blk w e cnt : Nat) : List Nat :=
  let b := 8 * e
  let x0 := blk / 256 % 2 ^ b
  let ds := blk / 256 ^ (1 + e)
  (List.range cnt).foldl (fun l j =>
    let x := if j = 0 then x0 else (l.getLastD x0 + unZigzag b (if w = 0 then 0 else elemAt w ds (j - 1))) % 2 ^ b
    l ++ [x]) []

/-- Translating n bytes, over any number of pages, for the execute side. -/
def rangeParts (va : Word) (n : Nat) : M (List ((Nat × Nat × Nat) × Parts)) :=
  (cutsAt 0x10000 va.toNat n).mapM fun c => do return (c, ← translateRange .load (BitVec.ofNat 64 c.2.1) c.2.2)

/-- Translating n bytes; then reading them. -/
def readRange (v : VView) (elem : Nat) (use : L1Use) (va : Word) (n : Nat) : M Nat := do
  (← rangeParts va n).foldlM (fun acc (c, ps) => do
    return acc + (← readParts ps c.2.1 use true .stream (.element elem v.w)) * 256 ^ c.1) 0

/-- The misalignment trap of the lowest of cnt elements of e bytes on a bank page or in system space (R249). -/
def requireAligned (va : Word) (e cnt : Nat) : M Unit := do
  let s ← get
  let base := (← hart).ptbase
  match ((List.range cnt).map fun j => va + BitVec.ofNat 64 (j * e)).find? fun a =>
      (a.toNat % e != 0 && s.aligns s.turn base a e) || (e != 8 && s.meetsRegisters base a e) with
  | some a => trap cMisaligned a
  | none => pure ()

/-- A stream's header: T, LE, N (R255). -/
structure StreamHead where
  t : Nat
  le : Nat
  n : Nat
deriving DecidableEq, Repr

/-- The loop of VLDZ (R256): elements so far, bytes used, block index; answers the elements, blocks expanded, why. -/
def vldzGo (v : VView) (h : StreamHead) (va bound : Word) (use : L1Use) (vlmax : Nat) :
    Nat → Nat → Nat → List Nat → M (List Nat × Nat × Nat)
  | 0, b, _, xs => return (xs, b, 0)
  | fuel + 1, b, used, xs => do
    let e := 2 ^ h.le
    if (h.n + 63) / 64 ≤ b then return (xs, b, 0)
    else if vlmax < xs.length + 64 then return (xs, b, 1)
    else
      let a := va + BitVec.ofNat 64 (16 + b * h.t)
      let _ ← rangeParts a h.t
      let h0 ← readRange v xs.length use a 1
      let escape := decide (128 ≤ h0)
      let cost := h.t + (if escape then 64 * e else 0)
      if bound.toNat < used + cost then return (xs, b, 2)
      else
        let cnt := Nat.min 64 (h.n - 64 * b)
        if !escape then
          requireAligned (a + 1) e 1
          require (decide (h0 ≤ 8 * e) && decide (1 + e + (63 * h0 + 7) / 8 ≤ h.t)) cShape va
          let blk ← readRange v xs.length use a h.t
          vldzGo v h va bound use vlmax fuel (b + 1) (used + cost) (xs ++ codedElems blk h0 e cnt)
        else
          let off ← readRange v xs.length use (a + 1) 4
          requireAligned (va + BitVec.ofNat 64 off) e cnt
          let raw ← readRange v xs.length use (va + BitVec.ofNat 64 off) (cnt * e)
          vldzGo v h va bound use vlmax fuel (b + 1) (used + cost) (xs ++ unpackElems (8 * e) cnt raw)

/-- VLDZ (R256, R257); the register pair is 2b, 2b + 1. -/
def vldzM (i : Instr) (d : VReg) (a : GReg) (b : Fin 16) : M Unit := do
  let v ← view
  requireState i (v.mfmt == 0 && groupsOk (some (v.span d)) [] false)
  let va ← gR a
  let bound ← gR (Fin.ofNat 32 (2 * b.val))
  let first ← gR (Fin.ofNat 32 (2 * b.val + 1))
  let use := bypUse (← strand) bound.toNat
  let head ← readRange v 0 use va 16
  let h : StreamHead := ⟨head % 65536, head / 65536 % 256, head / 2 ^ 32 % 2 ^ 32⟩
  let vlmax := vlmaxOf v.groups v.et v.grp
  require (decide (5 ≤ h.t) && decide (h.t ≤ 4096) && decide (h.le ≤ 3) && classXCode v.et && v.w == 8 * 2 ^ h.le &&
    decide (64 ≤ vlmax)) cShape va
  let (xs, nb, why) ← vldzGo v h va bound use vlmax (vlmax / 64 + 1) first.toNat 0 []
  modStrand fun t =>
    let img := xs.zipIdx.foldl (fun g x => setElem v.w g x.2 x.1) (t.image v.regBits (v.span d))
    let t := t.setImage v.regBits (v.span d) img
    { t with vl := BitVec.ofNat 64 (xs.length * 2 ^ 32 + xs.length), vpad := 0,
             vprog := vprogWord false 1 (nb - first.toNat) why }
  gW (Fin.ofNat 32 (2 * b.val + 1)) (BitVec.ofNat 64 nb)
  advance

/-- VLD (R250): Loads unit-stride elements, converting under MFMT. -/
def execVld (d : VReg) (a : GReg) (mk : MReg) (me : Bool) (s : State) : Host.Outcome State Fault Refusal :=
  perform (.vld d a mk me) (vldM (.vld d a mk me) d a mk me) s

/-- VLDS (R250): Loads strided elements. -/
def execVlds (d : VReg) (a : GReg) (b : GReg) (mk : MReg) (me : Bool) (s : State) : Host.Outcome State Fault Refusal :=
  perform (.vlds d a b mk me) (vldsM (.vlds d a b mk me) d a b mk me) s

/-- VLDX (R250): Gathers elements through INT32 byte offsets. -/
def execVldx (d : VReg) (a : GReg) (b : VReg) (mk : MReg) (me : Bool) (s : State) : Host.Outcome State Fault Refusal :=
  perform (.vldx d a b mk me) (vldxM (.vldx d a b mk me) 32 d a b mk me) s

/-- VLDX_D (R250): Gathers elements through INT64 byte offsets. -/
def execVldxD (d : VReg) (a : GReg) (b : VReg) (mk : MReg) (me : Bool) (s : State) : Host.Outcome State Fault Refusal :=
  perform (.vldxD d a b mk me) (vldxM (.vldxD d a b mk me) 64 d a b mk me) s

/-- VLDQ (R251): Loads a unit-stride vector as one entry of q4 or q5. -/
def execVldq (q : Fin 2) (a : GReg) (mk : MReg) (s : State) : Host.Outcome State Fault Refusal :=
  perform (.vldq q a mk) (vldqM (.vldq q a mk) q a mk) s

/-- VLDL (R254): Gathers elements through INT32 indices and sets the vector reservation set. -/
def execVldl (d : VReg) (a : GReg) (b : VReg) (mk : MReg) (me : Bool) (s : State) : Host.Outcome State Fault Refusal :=
  perform (.vldl d a b mk me) (vldlM (.vldl d a b mk me) 32 d a b mk me) s

/-- VLDL_D (R254): Gathers elements through INT64 indices and sets the vector reservation set. -/
def execVldlD (d : VReg) (a : GReg) (b : VReg) (mk : MReg) (me : Bool) (s : State) : Host.Outcome State Fault Refusal :=
  perform (.vldlD d a b mk me) (vldlM (.vldlD d a b mk me) 64 d a b mk me) s

/-- VLDZ (R256): Expands blocks of a compressed stream into vd, setting VL, the cursor and VPROG. -/
def execVldz (d : VReg) (a : GReg) (b : Fin 16) (s : State) : Host.Outcome State Fault Refusal :=
  perform (.vldz d a b) (vldzM (.vldz d a b) d a b) s

/-- VPF (R252): Prefetches the lines that a load of the given kind would read. -/
def execVpf (k : Fin 4) (a : GReg) (b : GReg) (mk : MReg) (me : Bool) (s : State) : Host.Outcome State Fault Refusal :=
  perform (.vpf k a b mk me) (vpfM (.vpf k a b mk me) k a b mk me) s

/-- VST (R250): Stores unit-stride elements, converting under MFMT. -/
def execVst (r0 : VReg) (a : GReg) (mk : MReg) (me : Bool) (s : State) : Host.Outcome State Fault Refusal :=
  perform (.vst r0 a mk me) (vstM (.vst r0 a mk me) r0 a mk me) s

/-- VSTS (R250): Stores strided elements. -/
def execVsts (r0 : VReg) (a : GReg) (b : GReg) (mk : MReg) (me : Bool) (s : State) : Host.Outcome State Fault Refusal :=
  perform (.vsts r0 a b mk me) (vstsM (.vsts r0 a b mk me) r0 a b mk me) s

/-- VSTX (R250): Scatters elements through INT32 byte offsets. -/
def execVstx (r0 : VReg) (a : GReg) (b : VReg) (mk : MReg) (me : Bool) (s : State) : Host.Outcome State Fault Refusal :=
  perform (.vstx r0 a b mk me) (vstxM (.vstx r0 a b mk me) 32 r0 a b mk me) s

/-- VSTX_D (R250): Scatters elements through INT64 byte offsets. -/
def execVstxD (r0 : VReg) (a : GReg) (b : VReg) (mk : MReg) (me : Bool) (s : State) : Host.Outcome State Fault Refusal :=
  perform (.vstxD r0 a b mk me) (vstxM (.vstxD r0 a b mk me) 64 r0 a b mk me) s

/-- VSTC (R253): Stores the selected elements contiguously. -/
def execVstc (r0 : VReg) (a : GReg) (mk : MReg) (me : Bool) (s : State) : Host.Outcome State Fault Refusal :=
  perform (.vstc r0 a mk me) (vstcM (.vstc r0 a mk me) r0 a mk me) s

/-- VSCC (R254): Stores elements whose reservations still hold, with INT32 indices, and rewrites the mask. -/
def execVscc (r0 : VReg) (a : GReg) (b : VReg) (mk : MReg) (s : State) : Host.Outcome State Fault Refusal :=
  perform (.vscc r0 a b mk) (vsccM (.vscc r0 a b mk) 32 r0 a b mk) s

/-- VSCC_D (R254): Stores elements whose reservations still hold, with INT64 indices, and rewrites the mask. -/
def execVsccD (r0 : VReg) (a : GReg) (b : VReg) (mk : MReg) (s : State) : Host.Outcome State Fault Refusal :=
  perform (.vsccD r0 a b mk) (vsccM (.vsccD r0 a b mk) 64 r0 a b mk) s

end Sys2Proof.Machine

end
end

