-- ==== Sys2Proof/Machine/Engine.lean ====
section
/-! DEFINITION. Engine operations, completion and the memory-side instructions (13 R338-R358; 03 R68-R72; 05 R109-R111, R130-R133). -/

noncomputable section

namespace Sys2Proof.Machine

/-- Acting for a strand, as its engine; the outcome of the part is answered. -/
def asStrand {α : Type} (c : Ctx) (m : M α) : M (Except Stop α) := do
  let turn := (← get).turn
  modify fun s => { s with turn := .strand c }
  let r ← caught m
  modify fun s => { s with turn := turn }
  return r

/-- The report word that ends an operation under R339. -/
def stopWord (e : Stop) : Word :=
  match e with
  | .trap t => t.tval
  | _ => 0

/-- The form of a tile-store address whose operand is n bytes long (R109). -/
def tileOk (w : Word) (n : Nat) : Bool :=
  fieldOf w 63 24 == 0 && fieldOf w 20 19 == 0 && decide (fieldOf w 18 0 < Config.tileBytes) &&
    decide (fieldOf w 18 0 + n ≤ Config.tileBytes)

/-- The core whose tile store an address names (R109, R111). -/
def tileCore (c : Ctx) (w : Word) : Nat := if bitOf w 23 then coreNum c / 4 * 4 + fieldOf w 22 21 else coreNum c

/-- The form of a destination word for n bytes (R340). -/
def destOk (w : Word) (n : Nat) : Bool :=
  if bitOf w 63 then fieldOf w 62 3 == 0 && (fieldOf w 2 0 == 4 || fieldOf w 2 0 == 5) else tileOk w n

/-- The load-data queue of a destination word. -/
def destQueue (w : Word) : Fin 2 := Fin.ofNat 2 (fieldOf w 2 0)

/-- The lost units of a store of a core that n bytes cover: 5 the tile store, 6 the accumulator store (R411, R413). -/
def Core.lostIn (k : Core) (struct off n : Nat) : List (Nat × Nat × Nat) :=
  k.lost.filter fun u => u.2.1 == struct && decide (u.1 < off + n) && decide (off < u.1 + 8)

/-- A read of a store of a core, for a consumer (R413). -/
def checkStore (core struct off n : Nat) (who : Consumer) : M Unit := do
  let s ← get
  match (s.core core).lostIn struct off n with
  | [] => pure ()
  | (_, _, seq) :: _ => trap cDataError (s.reportWord s.turn who struct seq true)

/-- A write of a store of a core: units covered whole are replaced, a partial write traps (R413). -/
def checkStoreWrite (core struct off n : Nat) (who : Consumer) : M Unit := do
  let s ← get
  match ((s.core core).lostIn struct off n).find? fun u => decide (u.1 < off) || decide (off + n < u.1 + 8) with
  | some (_, _, seq) => trap cDataError (s.reportWord s.turn who struct seq true)
  | none => modCore core fun k =>
      { k with lost := k.lost.filter fun u => !(u.2.1 == struct && decide (off ≤ u.1) && decide (u.1 + 8 ≤ off + n)) }

/-- Reading n bytes of a tile store. -/
def tileRead (c : Ctx) (w : Word) (off n : Nat) (who : Consumer) : M Nat := do
  let k := tileCore c w
  checkStore k 5 off n who
  return ((← get).core k).tile.read off n

/-- Writing n bytes of a tile store. -/
def tileWrite (c : Ctx) (w : Word) (off n v : Nat) (who : Consumer) : M Unit := do
  let k := tileCore c w
  checkStoreWrite k 5 off n who
  modCore k fun x => { x with tile := x.tile.write off n v }

/-- The pieces of n bytes from an address on listed pages; a system page is accessed by words. -/
def piecesOn (s : State) (ps : List PageTr) (va n : Nat) : List (PageTr × Nat × Nat) :=
  (cutsAt 0x10000 va n).flatMap fun c =>
    match ps.find? fun p => decide (p.vbase ≤ c.2.1) && decide (c.2.1 < p.vbase + p.size) with
    | some p => if ownSystem s p then (cutsAt 8 c.2.1 c.2.2).map fun x => (p, x.2.1, x.2.2) else [(p, c.2.1, c.2.2)]
    | none => []

/-- An engine's read at the points of coherence (R338). -/
def engineRead (c : Ctx) (ps : List PageTr) (va n : Nat) (stream : Bool) (fu : FrameUse) : M (Except Stop Nat) :=
  asStrand c do readParts (piecesOn (← get) ps va n) va .bypass stream fu .access

/-- The check of a write against lost units, with the strand as consumer (R413). -/
def lostBefore (p : PageTr) (va n : Nat) (who : Consumer) : M Unit := do
  if p.converts then
    let (first, count) := p.blocks va n
    forN count fun i => lostStored p (first + i) p.storedBytes who
  else (cutsAt 256 va n).forM fun c => checkLostWrite (p.cell c.2.1) c.2.2 who

/-- An engine's write at the points of coherence; no L1 is updated (R145, R338). -/
def engineWrite (c : Ctx) (ps : List PageTr) (va n v : Nat) (fu : FrameUse) (who : Consumer) : M (Except Stop Unit) :=
  asStrand c do
    (piecesOn (← get) ps va n).forM fun p => do
      let x := v / 256 ^ (p.2.1 - va) % 256 ^ p.2.2
      touchFrame p.1 p.2.1 p.2.2 fu
      if ownSystem (← get) p.1 then writeAny p.1 p.2.1 p.2.2 x who
      else
        lostBefore p.1 p.2.1 p.2.2 who
        let _ ← asAgent (.cc 0) (writePage p.1 p.2.1 p.2.2 x who)

/-- The tile-store bytes of an operation: core, offset, length (R140). -/
def OpWork.tiles (w : OpWork) (c : Ctx) : List (Nat × Nat × Nat) :=
  match w with
  | .affine _ d e _ total _ _ _ => if bitOf d 63 then [] else [(tileCore c d, fieldOf d 18 0, total * e)]
  | .fibre d e _ _ _ cnt maxe _ _ => [(tileCore c d, fieldOf d 18 0, 8 + 4 * maxe + cnt * e)]
  | .gather d e es => if bitOf d 63 then [] else [(tileCore c d, fieldOf d 18 0, es.length * e)]
  | .copy f d a n _ =>
    (if f.val % 2 = 1 then [(tileCore c d, fieldOf d 18 0, n)] else []) ++
      (if 2 ≤ f.val then [(tileCore c a, fieldOf a 18 0, n)] else [])
  | _ => []

/-- The address of element t of an affine stream (R342). -/
def affineVa (base : Word) (dims : List (Nat × Int)) (t : Nat) : Word :=
  base + BitVec.ofInt 64 (dims.foldl (fun (a : Int × Nat) d => (a.1 + (a.2 % d.1 : Nat) * d.2, a.2 / d.1)) (0, t)).1

/-- The cells of a part of a page. -/
def cellsOf (p : PageTr × Nat × Nat) : List (Nat × Nat) :=
  if leafDead p.1.leaf then []
  else if p.1.converts then
    let (first, count) := p.1.blocks p.2.1 p.2.2
    (List.range count).flatMap fun i => (p.1.blockParts (first + i) p.1.storedBytes).map (·.2)
  else (cutsAt 256 p.2.1 p.2.2).map fun c => (p.1.cell c.2.1, c.2.2)

/-- The cells of n bytes from an address on listed pages. -/
def cellsOn (ps : List PageTr) (va n : Nat) : List (Nat × Nat) :=
  (cutsAt 0x10000 va n).flatMap fun c =>
    match ps.find? fun p => decide (p.vbase ≤ c.2.1) && decide (c.2.1 < p.vbase + p.size) with
    | some p => cellsOf (p, c.2.1, c.2.2)
    | none => []

/-- The memory cells that an operation has still to read or write (R140). -/
def OpWork.cells (w : OpWork) : List (Nat × Nat) :=
  match w with
  | .affine base _ e dims total _ pos ps =>
    (List.range (total - pos)).flatMap fun k => cellsOn ps (affineVa base dims (pos + k)).toNat e
  | .fibre _ e c v lo cnt _ pos ps =>
    cellsOn ps (c + BitVec.ofNat 64 (4 * (lo + pos))).toNat (4 * (cnt - pos)) ++
      (if v = 0 then [] else cellsOn ps (v + BitVec.ofNat 64 (e * (lo + pos))).toNat (e * (cnt - pos)))
  | .gather _ e es => es.flatMap fun x => match x.src with
    | some (p, va) => cellsOf (p, va, e)
    | none => []
  | .copy f d a n ps =>
    (if f.val % 2 = 1 then [] else cellsOn ps d.toNat n) ++ (if 2 ≤ f.val then [] else cellsOn ps a.toNat n)
  | .remoteStore _ ws _ _ => ws.flatMap fun x => x.parts.flatMap cellsOf
  | .remoteSignal a .. => [(a, 8)]
  | .bank o a _ _ _ => [(a, o.bytes)]
  | .exact l f64 _ => l.map fun e => (e.1, exaBytes f64)
  | _ => []

/-- Whether two operations of a path touch a common byte (R140); one that is not performed yet may touch any. -/
def OpWork.conflicts (c : Ctx) (a b : OpWork) : Bool :=
  match a with
  | .forwarded => true
  | _ => ((a.tiles c).any fun x => (b.tiles c).any fun y => x.1 == y.1 && touches x.2.1 x.2.2 y.2.1 y.2.2) ||
      a.cells.any fun x => b.cells.any fun y => touches x.1 x.2 y.1 y.2

/-- Whether an operation has to follow an earlier one of its path (R140). -/
def Strand.blockedOp (t : Strand) (c : Ctx) (o : PathOp) : Bool :=
  o.path != pMof && ((t.ops.takeWhile fun x => !(x.path == o.path && x.n == o.n)).any fun x =>
    x.path == o.path && !x.complete && x.work.conflicts c o.work)

/-- Changing what an operation still has to do. -/
def setWork (c : Ctx) (p : Fin 6) (n : BitVec 32) (w : OpWork) : M Unit :=
  modStrandAt c.val fun t => t.modOp p n fun o => { o with work := w }

/-- An operation that an engine may work for. -/
def readyOp (c : Ctx) (p : Fin 6) (n : BitVec 32) : M (Option PathOp) := do
  match (← get).strand? c.val with
  | some t => return match t.opAt p n with
    | some o => if o.complete || t.blockedOp c o then none else some o
    | none => none
  | none => return none

/-- Distinct pages, in the order in which they were met. -/
def addPages (ps qs : List PageTr) : List PageTr := ps ++ qs.filter fun q => !ps.contains q

/-- Enumerating accesses of an engine operation one after the other (R338): its pages; a misaligned one on a system page, a
fault, or a 513th page ends it. -/
def enumOp (acc : Acc) : List (Word × Nat) → List PageTr → M (List PageTr)
  | [], ps => return ps
  | (va, n) :: r, ps => do
    match ← tryTranslateRange acc va n with
    | .error t => throw (.trap { t with tval := va })
    | .ok l =>
      let s ← get
      require (!(l.any fun p => ownSystem s p.1 && !inPcie (p.1.sysOff p.2.1) && (n != 8 || va.toNat % 8 != 0))) cMisaligned va
      let ps := addPages ps (l.map (·.1))
      if Config.maxPages < ps.length then trap cShape 0 else enumOp acc r ps

/-- The extents and strides of a descriptor. -/
def descDims (d : Nat) : List (Nat × Int) := (List.range 4).map fun k => (le d (24 + 8 * k) 4, toSigned 32 (le d (28 + 8 * k) 4))

/-- The limits of an affine descriptor (R342, Table 3). -/
def affineOk (groups d : Nat) : Bool :=
  let f := le d
  let nd := f 18 1 + 1
  let e := 2 ^ f 17 1
  let used := (descDims d).take nd
  decide (f 17 1 ≤ 3) && decide (f 18 1 ≤ 3) && f 19 1 == 0 && f 56 8 == 0 && used.all (fun x => x.1 != 0) &&
    ((descDims d).drop nd).all (fun x => x == (0, 0)) && decide ((used.foldl (fun a x => a * x.1) 1) ≤ 2 ^ 32) &&
    (if bitOf (le64 d 8) 63 then decide (1 ≤ f 20 4) && decide (f 20 4 * (8 * e) ≤ groups * 16384) else f 20 4 == 0)

/-- The limits of a fibre descriptor (R343, Table 3). -/
def fibreOk (d : Nat) : Bool :=
  let f := le d
  decide (f 17 1 ≤ 3) && f 18 6 == 0 && !bitOf (le64 d 8) 63 && f 44 4 != 0 && f 48 16 == 0

/-- Bytes of a tile store that a fibre stream writes. -/
def fibreBytes (e cnt maxe : Nat) : Nat := if cnt = 0 then 8 else 8 + 4 * maxe + cnt * e

/-- GSTR of an affine stream (R342, R344). -/
def gstrAffine (d : Nat) : M OpWork := do
  let e := 2 ^ le d 17 1
  let dims := (descDims d).take (le d 18 1 + 1)
  let total := dims.foldl (fun a x => a * x.1) 1
  let dest := le64 d 8
  require (destOk dest (total * e)) cProtection dest
  if bitOf dest 63 && (← strand).activeStream (destQueue dest) then sleepOn (.stream (Fin.ofNat 8 (fieldOf dest 2 0))) else pure ()
  let ps ← enumOp .load ((List.range total).map fun t => (affineVa (le64 d 0) dims t, e)) []
  return .affine (le64 d 0) dest e dims total (le d 20 4) 0 ps

/-- GSTR of a fibre stream (R343). -/
def gstrFibre (desc : Word) (d : Nat) : M OpWork := do
  let e := 2 ^ le d 17 1
  let dest := le64 d 8
  let c := le64 d 24
  let v := le64 d 32
  let pos := le64 d 0 + BitVec.ofNat 64 (4 * le d 40 4)
  require (tileOk dest 0) cProtection dest
  let lo ← loadBytes pos 4
  let hi ← loadBytes (pos + 4) 4
  require (decide (lo ≤ hi)) cShape desc
  let maxe := le d 44 4
  let cnt := Nat.min (hi - lo) maxe
  require (tileOk dest (fibreBytes e cnt maxe)) cProtection dest
  let ps ← enumOp .load ((List.range cnt).flatMap fun j =>
    (c + BitVec.ofNat 64 (4 * (lo + j)), 4) :: (if v = 0 then [] else [(v + BitVec.ofNat 64 (e * (lo + j)), e)])) []
  return .fibre dest e c v lo cnt maxe 0 ps

/-- GSTR (R341). -/
def gstrM (d a : GReg) : M Unit := do
  let va ← gR a
  require (va.toNat % 64 == 0) cMisaligned va
  let desc ← loadBytes va 64
  let mode := le desc 16 1
  let groups := (← get).groupsOf (← ctx)
  require (if mode = 0 then affineOk groups desc else if mode = 1 then fibreOk desc else false) cShape va
  let w ← if mode = 0 then gstrAffine desc else gstrFibre va desc
  needIssue pGey
  let n ← issueOp pGey w
  gW d (n.zeroExtend 64)
  advance

/-- Elements pos, pos + 1, ... of an affine stream read one after the other, as one number (R342). -/
def streamRead (c : Ctx) (base : Word) (e : Nat) (dims : List (Nat × Int)) (ps : List PageTr) (pos : Nat) :
    Nat → M (Except Stop Nat)
  | 0 => return .ok 0
  | k + 1 => do
    let unit := (dims.head?).any fun x => x.2 == (e : Int)
    match ← engineRead c ps (affineVa base dims pos).toNat e unit (if unit then .stream else .ordinary) with
    | .error s => return .error s
    | .ok x =>
      match ← streamRead c base e dims ps (pos + 1) k with
      | .error s => return .error s
      | .ok r => return .ok (x + 256 ^ e * r)

/-- What an affine stream does next (R342): it writes an element into a tile store, or places an entry that has room. -/
def streamStep (c : Ctx) (n : BitVec 32) (base dest : Word) (e : Nat) (dims : List (Nat × Int)) (total qlen pos : Nat)
    (ps : List PageTr) : M Unit := do
  let k := if bitOf dest 63 then Nat.min qlen (total - pos) else 1
  let q := destQueue dest
  if bitOf dest 63 && decide (4 ≤ (← strandAt c.val).qv[q].length) then pure ()
  else
    match ← streamRead c base e dims ps pos k with
    | .error s => completeOp c.val pGey n (some (stopWord s))
    | .ok x =>
      let r ← if bitOf dest 63 then do
          modStrandAt c.val fun t => { t with qv := t.qv.set q.val (t.qv[q] ++ [{ count := k, width := 8 * e, bits := x, awaits := none }]) }
          pure (.ok ())
        else asStrand c (tileWrite c dest (fieldOf dest 18 0 + pos * e) e x .access)
      match r with
      | .error s => completeOp c.val pGey n (some (stopWord s))
      | .ok _ =>
        setWork c pGey n (.affine base dest e dims total qlen (pos + k) ps)
        if total ≤ pos + k then completeOp c.val pGey n none else pure ()

/-- The writes of a fibre stream for child j: the count before the first, then coordinate and value (R343). -/
def fibreChild (c : Ctx) (dest : Word) (e : Nat) (cv v : Word) (lo cnt maxe j : Nat) (ps : List PageTr) : M (Except Stop Unit) :=
  asStrand c do
    let d := fieldOf dest 18 0
    let back := fun (r : Except Stop Nat) => match r with
      | .ok x => (pure x : M Nat)
      | .error s => throw s
    if j = 0 then tileWrite c dest d 8 cnt .access else pure ()
    if j < cnt then
      let co ← back (← engineRead c ps (cv + BitVec.ofNat 64 (4 * (lo + j))).toNat 4 false .gather)
      tileWrite c dest (d + 8 + 4 * j) 4 co .access
      let x ← if v = 0 then pure (lo + j) else back (← engineRead c ps (v + BitVec.ofNat 64 (e * (lo + j))).toNat e false .gather)
      tileWrite c dest (d + 8 + 4 * maxe + j * e) e x .access
    else pure ()

/-- What a stream does next (R342, R343). -/
def geyserStep (c : Ctx) (n : BitVec 32) : M Unit := do
  match ← readyOp c pGey n with
  | some o =>
    match o.work with
    | .affine base dest e dims total qlen pos ps => streamStep c n base dest e dims total qlen pos ps
    | .fibre dest e cv v lo cnt maxe pos ps =>
      match ← fibreChild c dest e cv v lo cnt maxe pos ps with
      | .error s => completeOp c.val pGey n (some (stopWord s))
      | .ok _ =>
        setWork c pGey n (.fibre dest e cv v lo cnt maxe (pos + 1) ps)
        if cnt ≤ pos + 1 then completeOp c.val pGey n none else pure ()
    | _ => pure ()
  | none => pure ()

/-- GSTOP (R345). -/
def gstopM (a : GReg) : M Unit := do
  let n := BitVec.ofNat 32 (← gR a).toNat
  let c ← ctx
  match (← strand).opAt pGey n with
  | some o => if o.complete then pure () else completeOp c.val pGey n none
  | none => pure ()
  advance

/-- The stack that holds a byte of a page, where a gather may read it (R69). -/
def gatherHome (p : PageTr) (va : Nat) : Option Nat :=
  match regionOf (p.storedAddr va) with
  | .dram k _ => some k
  | .resident k _ => some k
  | _ => none

/-- The elements of a GATH (R69, R346), with the gather-range trap and the limit of R338. -/
def gatherElems (me e : Nat) (base : Word) : List (Option Word) → List PageTr → M (List GatherElem)
  | [], _ => return []
  | none :: r, ps => do return { src := none, val := some 0 } :: (← gatherElems me e base r ps)
  | some va :: r, ps => do
    let p ← translate .load va
    let ps := addPages ps [p]
    if Config.maxPages < ps.length then trap cShape 0
    else if leafDead p.leaf then return { src := none, val := some 0 } :: (← gatherElems me e base r ps)
    else
      require (leafMod p.leaf == me && (gatherHome p va.toNat).isSome) cGather va
      return { src := some (p, va.toNat), val := none } :: (← gatherElems me e base r ps)

/-- Whether the way round the ring from entry to home ascends (R70). -/
def ringAscends (entry home : Nat) : Bool := decide ((home + 16 - entry) % 16 ≤ 8)

/-- The next stack on a way round the ring. -/
def ringNext (k : Nat) (up : Bool) : Nat := if up then (k + 1) % 16 else (k + 15) % 16

/-- The lines of memory, by stack and number, that n bytes of a page from an address are stored in. -/
def PageTr.linesOf (p : PageTr) (va n : Nat) : List (Nat × Nat) :=
  (cutsAt 256 (p.storedAddr va) (p.storedLen va n)).filterMap fun c => match regionOf c.2.1 with
    | .dram k off => some (k, off / 256)
    | _ => none

/-- The page of a request that maps an address. -/
def RingItem.pageOf (i : RingItem) (va : Nat) : Option PageTr :=
  i.pages.find? fun p => decide (p.vbase ≤ va) && decide (va < p.vbase + p.size)

/-- The line at its home in which an element begins (R70). -/
def gatherLine (p : PageTr) (va : Nat) : Nat := p.storedAddr va / 256

/-- The elements of a request by line and home (R70). -/
def ringItems (c : Ctx) (op : BitVec 32) (e : Nat) (es : List GatherElem) : List RingItem :=
  es.zipIdx.foldl (fun items x =>
    match x.1.src with
    | some (p, va) =>
      let same := fun (i : RingItem) => (i.elems.head?).any fun y => (i.pageOf y.2.1).any fun q => gatherLine q y.2.1 == gatherLine p va
      if items.any same then items.map fun i =>
        if same i then { i with elems := i.elems ++ [(x.2, va, 0)], pages := addPages i.pages [p] } else i
      else
        let h := (gatherHome p va).getD 0
        items ++ [{ ctx := c, op := op, entry := Fin.ofNat 16 (dieNum c), home := Fin.ofNat 16 h
                    ascending := ringAscends (dieNum c) h, pages := [p], size := e, elems := [(x.2, va, 0)] }]
    | none => items) []

/-- A request enters the ring; elements whose home is the entry stack stay there (R70). -/
def sendGather (items : List RingItem) : M Unit := items.forM fun i => do
  let k := if i.home = i.entry then i.entry.val else ringNext i.entry.val i.ascending
  modStack k fun st => { st with ringFwd := st.ringFwd ++ [i] }
  if i.home = i.entry then pure ()
  else modStack i.entry.val fun st => { st with fgfwd := st.fgfwd + BitVec.ofNat 64 i.elems.length }

/-- GATH (R346, R68). -/
def gathM (i : Instr) (d a : GReg) (b : VReg) (mk : MReg) (me : Bool) (x : Fin 2) (l : Fin 16) : M Unit := do
  let m := modsOf mk me
  let v ← view
  let iw := if x.val = 1 then 64 else 32
  requireState i (v.spanOf b iw).ok
  let e := 2 ^ l.val
  let base ← gR a
  let dest ← gR d
  require (base.toNat % e == 0) cMisaligned base
  require (destOk dest (v.vl * e)) cProtection dest
  require (!bitOf dest 63 || decide (e ≤ 8)) cShape (BitVec.ofNat 64 e)
  let t ← strand
  let img := t.image v.regBits (v.spanOf b iw)
  let s ← get
  let es ← gatherElems s.moduleNum.val e base ((List.range v.vl).map fun k =>
    if decide (k < v.n) && t.selects m k then some (base + BitVec.ofInt 64 (toSigned iw (elemAt iw img k) * e)) else none) []
  needIssue pFum
  if bitOf dest 63 then needPlace (destQueue dest) else pure ()
  let n ← issueOp pFum (.gather dest e es)
  let c ← ctx
  if bitOf dest 63 then
    let q := destQueue dest
    modStrand fun t => { t with qv := t.qv.set q.val (t.qv[q] ++
      [{ count := v.vl, width := 8 * e, bits := 0, awaits := if v.vl = 0 then none else some (.op n) }]) }
  else pure ()
  if v.vl = 0 then completeOp c.val pFum n none else sendGather (ringItems c n e es)
  advance

/-- The end of a gather whose elements have all arrived (R71): the vector is written, or fills its entry. -/
def finishGather (c : Ctx) (n : BitVec 32) : M Unit := do
  match ← readyOp c pFum n with
  | some o =>
    match o.work with
    | .gather dest e es =>
      if es.any fun x => x.val.isNone then pure ()
      else
        let img := packElems (8 * e) (es.map fun x => x.val.getD 0)
        if bitOf dest 63 then
          let q := destQueue dest
          modStrandAt c.val fun t => { t with qv := t.qv.set q.val (t.qv[q].map fun y =>
            if y.awaits = some (.op n) then { y with bits := img, awaits := none } else y) }
          completeOp c.val pFum n none
        else
          match ← asStrand c (tileWrite c dest (fieldOf dest 18 0) (es.length * e) img .access) with
          | .ok _ => completeOp c.val pFum n none
          | .error s => completeOp c.val pFum n (some (stopWord s))
    | _ => pure ()
  | none => pure ()

/-- Elements of a gather that have arrived (R71). -/
def gatherArrive (i : RingItem) : M Unit := do
  match (← get).strand? i.ctx.val with
  | some t =>
    match t.opAt pFum i.op with
    | some o =>
      match o.complete, o.work with
      | false, .gather dest e es =>
        let es := es.zipIdx.map fun x => match i.elems.find? fun y => y.1 == x.2 with
          | some y => { x.1 with val := some y.2.2 }
          | none => x.1
        setWork i.ctx pFum i.op (.gather dest e es)
        finishGather i.ctx i.op
      | _, _ => pure ()
    | none => pure ()
  | none => pure ()

/-- Reading an element at its home, whose line has been accessed (R72, R137). -/
def gatherValue (p : PageTr) (va n : Nat) : M Nat := do
  touchFrame p va n .gather
  if p.converts then convertedValue p va n .access
  else
    checkLost (p.cell va) n .access
    l1DropMine (p.cell va) n
    readCell (p.cell va) n

/-- The home's read of the elements of one line: one access to each line that holds them (R70, R72). -/
def gatherRead (i : RingItem) : M (Except Stop RingItem) := asStrand i.ctx do
  let found := i.elems.filterMap fun y => (i.pageOf y.2.1).map fun p => (y, p)
  let s ← get
  (found.flatMap fun x => (x.2.linesOf x.1.2.1 i.size).map fun l => (l, x.2)).eraseDupsBy (fun a b => a.1 == b.1) |>.forM fun x =>
    mscTouch (s.lineCell x.1.1 x.1.2) 1 (BitVec.ofNat 8 (leafChain x.2.leaf)) (currentUO s x.2) false false
  let elems ← found.mapM fun x => do return (x.1.1, x.1.2.1, ← gatherValue x.2 x.1.2.1 i.size)
  return { i with elems := elems }

/-- A stack takes the oldest request that has reached it: it reads it, or passes it on (R70). -/
def forwardReceive (k : Nat) : M Unit := do
  match ((← get).stack k).ringFwd with
  | [] => pure ()
  | i :: r =>
    modStack k fun st => { st with ringFwd := r }
    let live := match (← get).strand? i.ctx.val with
      | some t => (t.opAt pFum i.op).any fun o => !o.complete
      | none => false
    if !live then pure ()
    else if i.home.val ≠ k then modStack (ringNext k i.ascending) fun st => { st with ringFwd := st.ringFwd ++ [i] }
    else
      match ← gatherRead i with
      | .error s => completeOp i.ctx.val pFum i.op (some (stopWord s))
      | .ok i' =>
        if i.home = i.entry then gatherArrive i'
        else modStack (ringNext k (!i.ascending)) fun st => { st with ringRet := st.ringRet ++ [i'] }

/-- A stack takes the oldest returned data that has reached it (R70, R71). -/
def returnReceive (k : Nat) : M Unit := do
  match ((← get).stack k).ringRet with
  | [] => pure ()
  | i :: r =>
    modStack k fun st => { st with ringRet := r }
    if i.entry.val = k then gatherArrive i
    else modStack (ringNext k (!i.ascending)) fun st => { st with ringRet := st.ringRet ++ [i] }

/-- The pages of a range of memory, up to 513 of them, or the first trap of it with its distance from the start (R338). -/
def rangePages (acc : Acc) (va : Word) (n : Nat) : Nat → Nat → List PageTr → M (Except (Nat × TrapReq) (List PageTr))
  | 0, _, ps => return .ok ps
  | fuel + 1, done, ps => do
    if n ≤ done then return .ok ps
    else
      match ← tryTranslate acc (va + BitVec.ofNat 64 done) with
      | .error t => return .error (done, t)
      | .ok p => rangePages acc va n fuel (p.vbase + p.size - va.toNat) (addPages ps [p])

/-- Both ends of a copy enumerated (R338, R347): the trap of the lowest byte, the source's first. -/
def copyPages (form : Fin 4) (dst src : Word) (n : Nat) : M (List PageTr) := do
  let r ← if 2 ≤ form.val then pure (.ok []) else rangePages .load src n 514 0 []
  let w ← if form.val % 2 = 1 then pure (.ok []) else rangePages .store dst n 514 0 []
  match r, w with
  | .error (i, t), .error (j, u) => throw (.trap (if i ≤ j then t else u))
  | .error (_, t), .ok _ => throw (.trap t)
  | .ok _, .error (_, u) => throw (.trap u)
  | .ok ps, .ok qs =>
    let s ← get
    let bad := fun (va : Word) (l : List PageTr) =>
      (l.any fun p => ownSystem s p) && (va.toNat % 8 != 0 || n % 8 != 0)
    require (!bad src ps) cMisaligned src
    require (!bad dst qs) cMisaligned dst
    let all := addPages ps qs
    require (decide (all.length ≤ Config.maxPages)) cShape 0
    return all

/-- COPY (R347); `form` counts the forms of its table. -/
def copyM (form : Fin 4) (d a b : GReg) : M Unit := do
  let dst ← gR d
  let src ← gR a
  let n := (← gR b).toNat
  require (decide (form.val < 2) || tileOk src n) cProtection src
  require (form.val % 2 == 0 || tileOk dst n) cProtection dst
  let ps ← if n = 0 then pure [] else copyPages form dst src n
  needIssue pCpy
  let k ← issueOp pCpy (.copy form dst src n ps)
  if n = 0 then completeOp (← ctx).val pCpy k none else pure ()
  advance

/-- Reading the source of a copy piece by piece: the bytes before the first piece that fails, and the failure. -/
def copyRead (c : Ctx) (form : Fin 4) (src : Word) (ps : List PageTr) : List (Nat × Nat × Nat) → M (Nat × Nat × Option Stop)
  | [] => return (0, 0, none)
  | (off, _, len) :: r => do
    let x ← if 2 ≤ form.val then asStrand c (tileRead c src (fieldOf src 18 0 + off) len .access)
      else engineRead c ps (src.toNat + off) len false .ordinary
    match x with
    | .error s => return (0, 0, some s)
    | .ok v =>
      let (k, w, e) ← copyRead c form src ps r
      return (len + k, v + 256 ^ len * w, e)

/-- Writing the destination of a copy piece by piece. -/
def copyWrite (c : Ctx) (form : Fin 4) (dst : Word) (ps : List PageTr) (v : Nat) : List (Nat × Nat × Nat) → M (Option Stop)
  | [] => return none
  | (off, _, len) :: r => do
    let x := v / 256 ^ off % 256 ^ len
    let e ← if form.val % 2 = 1 then asStrand c (tileWrite c dst (fieldOf dst 18 0 + off) len x .access)
      else engineWrite c ps (dst.toNat + off) len x .ordinary .access
    match e with
    | .error s => return some s
    | .ok _ => copyWrite c form dst ps v r

/-- The engine's copy, whole (R347). -/
def copyRun (c : Ctx) (n : BitVec 32) (form : Fin 4) (dst src : Word) (len : Nat) (ps : List PageTr) : M Unit := do
  let (k, v, e) ← copyRead c form src ps (cutsAt 256 src.toNat len)
  let e' ← if k = 0 then pure none else copyWrite c form dst ps v (cutsAt 256 dst.toNat k)
  completeOp c.val pCpy n ((e'.orElse fun _ => e).map stopWord)

/-- The link values of R349 as numbers, by element. -/
def linkValues (v : VView) (l : Fin 4) (sel : Nat → Bool) (x : Nat → Nat) : Nat → Num :=
  let num := fun i => v.ty.num (x i)
  match l.val with
  | 1 => fun i => bf16.decode (bf16.round .rne (num i)).bits
  | 2 =>
    let blocks := (List.range ((v.vl + 31) / 32)).map fun k =>
      (Stored.mx e2m3).decode ((Stored.mx e2m3).encode (fun _ => .rne)
        ((List.range 32).map fun j => (num (32 * k + j), !(decide (32 * k + j < v.n) && sel (32 * k + j))))).blk
    fun i => (blocks.getD (i / 32) []).getD (i % 32) (.nan false)
  | _ => num

/-- What an RSTV stores for each selected element (R348, R349, R351). -/
def remoteElems (v : VView) (add : Bool) (l : Fin 4) (sel : Nat → Bool) (is : List Nat) (x : Nat → Nat) : List (Nat × Res) :=
  if add || l.val == 0 then is.map fun i => (i, if add then quiet (x i) else v.convertOut i (x i))
  else
    let lv := linkValues v l sel x
    is.map fun i => (i, match v.memTy with
      | some t => t.round (v.mode i) (lv i)
      | none => quiet (x i))

/-- The units of every copy, the lowest copy first: copy, element and unit. -/
def remoteUnits (v : VView) (base : Word) (spacing : Word) (copies : Nat) (is : List Nat) : List (Nat × MUnit) :=
  (List.range copies).flatMap fun j => is.map fun i =>
    (j, v.elemUnit i (base + BitVec.ofNat 64 j * spacing + BitVec.ofNat 64 (i * v.memBytes)))

/-- The pages of an RSTV enumerated and checked (R338, R351): misalignment first, then the lowest element of the lowest copy. -/
def remoteEnum (add : Bool) (us : List MUnit) : M (List (MUnit × Parts)) := do
  let acc : Acc := if add then .rw else .store
  let (l, rest) ← enumGo { acc := acc, stored := add } us []
  let s ← get
  let base := (← hart).ptbase
  match l.find? fun e => s.misaligned base false e.1 with
  | some e => trap cMisaligned e.1.va
  | none =>
    let bad := l.findSome? fun e => match e.2 with
      | .error t => some t
      | .ok _ => none
    match bad with
    | some t => throw (.trap t)
    | none =>
      if !rest.isEmpty then trapPage cShape 0 0
      return l.filterMap fun e => match e.2 with
        | .ok ps => some (e.1, ps)
        | .error _ => none

/-- RSTV, RSTV.MC and RSTV.ADD (R348-R351). -/
def rstvM (i : Instr) (add : Bool) (r0 : VReg) (a : GReg) (mc : Option GReg) (mk : MReg) (me : Bool) (q : Fin 2) (l : Fin 4) :
    M Unit := do
  let m := modsOf mk me
  let v ← view
  requireState i (v.formOk .other && (v.span r0).ok && (l.val == 0 || v.et == 0 || v.et == 2 || v.et == 3) &&
    (!add || (classI v.et && v.mfmt == 0)))
  checkRounding i v (v.mfmt != 0 || l.val != 0)
  needRoom q
  needNumber pRem
  let base ← gR a
  let (spacing, copies) ← match mc with
    | some b => do
      let n ← gR (Fin.ofNat 32 (b.val + 1))
      require (decide (1 ≤ n.toNat) && decide (n.toNat ≤ 64)) cShape n
      pure (← gR b, n.toNat)
    | none => pure ((0 : Word), 1)
  let t ← strand
  let img := t.image v.regBits (v.span r0)
  let is := t.selected v m
  let us := remoteUnits v base spacing copies is
  let good ← remoteEnum add (us.map (·.2))
  let vals ← settle v false (remoteElems v add l (t.selects m) is fun i => elemAt v.w img i)
  let ws := (us.zip good).map fun x =>
    { copy := x.1.1, parts := x.2.2, va := x.1.2.va.toNat, len := x.1.2.len, link := l
      data := ((vals.find? fun y => y.1 == x.1.2.lo).map (·.2)).getD 0 : RemoteWrite }
  let n ← numberOp pRem (.remoteStore add ws q false)
  modStrand fun t => { t with qr := t.qr.set q.val (t.qr[q] ++ [.awaits pRem n]) }
  advance

/-- The status entry of an operation filled (R350, R367). -/
def fillStatus (c : Ctx) (q : Fin 2) (p : Fin 6) (n : BitVec 32) (v : Word) : M Unit := modStrandAt c.val fun t =>
  { t with qr := t.qr.set q.val (t.qr[q].map fun e => if e = .awaits p n then .value v else e) }

/-- Whether a write goes to the memory of a module. -/
def RemoteWrite.goesTo (w : RemoteWrite) (m : Nat) : Bool := w.parts.any fun p => leafMod p.1.leaf == m

/-- Bytes that the writes of an RSTV reserve in this module's receive buffer (R350). -/
def localBytes (me : Nat) (ws : List RemoteWrite) : Nat :=
  (ws.filter fun w => w.goesTo me).foldl (fun a w => a + w.len) 0

/-- The torus direction in which a packet for a module leaves this one, 0 to 5 for ascending and descending X, Y and Z
(R430). -/
def torusDir (me d : Nat) : Option Nat :=
  ([0, 1, 2].map fun k => (k, (d / 16 ^ k % 16 + 16 - me / 16 ^ k % 16) % 16)).findSome? fun x =>
    if x.2 = 0 then none else some (2 * x.1 + (if x.2 ≤ 8 then 0 else 1))

/-- Where no port is left in the direction of a module, the SEQ of the LASTING entry of the last one (R416). -/
def State.cutOff (s : State) (d : Nat) : Option Nat :=
  match torusDir s.moduleNum.val d with
  | some k =>
    let ls := (List.range 4).map fun i => mapGetD s.hub.links (4 * k + i) 0
    if ls.all fun x => decide (256 ≤ x) then some (ls.foldl Nat.max 0 - 256) else none
  | none => none

/-- The modules that a REM operation needs. -/
def OpWork.modules (w : OpWork) : List Nat :=
  match w with
  | .remoteStore _ ws _ _ => ws.flatMap fun w => w.parts.map fun p => leafMod p.1.leaf
  | .remoteSignal a .. => [cellModule a]
  | _ => []

/-- A REM operation that needs a direction without a port ends under R339, with STRUCT 0x0D (R416); the status entry of an RSTV
that was not accepted gets a free value. -/
def linkFails (c : Ctx) (o : PathOp) (seq : Nat) : M Unit := do
  match o.work with
  | .remoteStore _ _ q false => do
    let k ← freshNum
    fillStatus c q pRem o.n (Config.openTval k)
  | .remoteStore _ ws _ true => do
    let need := localBytes (← get).moduleNum.val ws
    modHub fun h => { h with recvUsed := h.recvUsed - need }
  | _ => pure ()
  let s ← get
  completeOp c.val pRem o.n (some (s.reportWord (.strand c) .access 0x0D seq false))

/-- The outcome of an RSTV (R350): its reservation here is made by the hub; `refused` names a copy whose module, another one,
refused. -/
def rstvOutcome (c : Ctx) (n : BitVec 32) (refused : Option Nat) : M Unit := do
  match (← get).strand? c.val with
  | some t =>
    match t.opAt pRem n with
    | some o =>
      match o.complete, o.work with
      | false, .remoteStore add ws q false =>
        let s ← get
        match o.work.modules.findSome? s.cutOff with
        | some seq => linkFails c o seq
        | none =>
        let me := s.moduleNum.val
        let need := localBytes me ws
        let here := if Config.recvBytes < s.hub.recvUsed + need then (ws.find? fun w => w.goesTo me).map (·.copy) else none
        let there := match refused with
          | some j => (ws.find? fun w => w.copy == j && !w.goesTo me).map (·.copy)
          | none => none
        let lowest := match here, there with
          | some i, some j => some (Nat.min i j)
          | some i, none => some i
          | none, some j => some j
          | none, none => none
        match lowest with
        | some j =>
          fillStatus c q pRem n (BitVec.ofNat 64 (1 + j * 256))
          completeOp c.val pRem n none
        | none =>
          fillStatus c q pRem n 0
          modHub fun h => { h with recvUsed := h.recvUsed + need }
          setWork c pRem n (.remoteStore add ws q true)
      | _, _ => pure ()
    | none => pure ()
  | none => pure ()

/-- One write of an accepted RSTV at its destination (R350, R351). -/
def remoteWrite (c : Ctx) (add : Bool) (w : RemoteWrite) : M (Option Stop) := do
  let ps := w.parts.map (·.1)
  let me := (← get).moduleNum.val
  let r ← if !add then engineWrite c ps w.va w.len w.data .ordinary .access
    else if w.goesTo me then do
      w.parts.forM fun p => countDevice (p.1.cell p.2.1)
      match ← engineRead c ps w.va w.len false .ordinary with
      | .error s => pure (.error s)
      | .ok x => engineWrite c ps w.va w.len ((x + w.data) % 256 ^ w.len) .ordinary .access
    else do
      match w.parts with
      | p :: _ => sendPacket { type := 2, dst := Fin.ofNat 4096 (leafMod p.1.leaf), addr := p.1.cell p.2.1, op := 0
                               data := bytesOf w.len w.data, operands := [] }
      | [] => pure ()
      pure (.ok ())
  match r with
  | .ok _ => return none
  | .error s => return some s

/-- The packets that a part of an operation sends carry the operation's number and its LINK (R431, Table 6). -/
def numbered {α : Type} (n : BitVec 32) (link : Fin 4) (m : M α) : M α := do
  let k := (← hub).outbox.length
  let r ← m
  modHub fun h => { h with outbox := h.outbox.take k ++ (h.outbox.drop k).map fun p => { p with op := n, link := link } }
  return r

/-- The writes of an accepted RSTV, in order, until one fails. -/
def remoteWrites (c : Ctx) (n : BitVec 32) (add : Bool) : List RemoteWrite → M (Option Stop)
  | [] => return none
  | w :: r => do
    match ← numbered n w.link (remoteWrite c add w) with
    | some e => return some e
    | none => remoteWrites c n add r

/-- An accepted RSTV is performed and acknowledged (R149, R350). -/
def remoteFinish (c : Ctx) (n : BitVec 32) (add : Bool) (ws : List RemoteWrite) : M Unit := do
  let e ← remoteWrites c n add ws
  let need := localBytes (← get).moduleNum.val ws
  modHub fun h => { h with recvUsed := h.recvUsed - need }
  completeOp c.val pRem n (e.map stopWord)

/-- A SIGINC to another module is performed there (R332). -/
def remoteSignalRun (c : Ctx) (n : BitVec 32) (addr : Nat) (x : Word) (release : Bool) : M Unit := do
  let _ ← asStrand c (l1DropMine (addr / 64 * 64) 64)
  sendPacket { type := 3, dst := Fin.ofNat 4096 (cellModule addr), addr := addr, op := n, data := [], operands := [x], release := release }
  completeOp c.val pRem n none

/-- A bank operation performed; the old value goes to its register (R335). -/
def bankRun (c : Ctx) (n : BitVec 32) (o : BankOp) (addr : Nat) (x expected : Word) (d : GReg) : M Unit := do
  match ← asStrand c (do
      checkLost addr o.bytes .access
      countDevice addr
      bankPerform o addr x expected) with
  | .error s => completeOp c.val pBnk n (some (stopWord s))
  | .ok old =>
    if d.val = 0 then pure ()
    else modStrandAt c.val fun t => { t with hart := { t.hart with g := t.hart.g.set d.val old } }
    completeOp c.val pBnk n none

/-- The slots of a BNKEXA, one after the other (R126, R337). -/
def exactRun (f64 bf : Bool) : List (Nat × Word) → M Unit
  | [] => pure ()
  | (cell, x) :: r => do
    checkLost cell (exaBytes f64) .access
    countDevice cell
    exaPerform f64 cell ((if f64 then fp64 else if bf then bf16 else fp32).decode x.toNat)
    exactRun f64 bf r

/-- The end of an operation whose engine can finish it now (R131, R338). -/
def finishOp (c : Ctx) (p : Fin 6) (n : BitVec 32) : M Unit := do
  match ← readyOp c p n with
  | some o =>
    let s ← get
    match o.work.modules.findSome? s.cutOff with
    | some seq => linkFails c o seq
    | none =>
    match o.work with
    | .gather .. => finishGather c n
    | .copy f d a len ps => copyRun c n f d a len ps
    | .remoteStore add ws _ true => remoteFinish c n add ws
    | .remoteSignal addr x rel => remoteSignalRun c n addr x rel
    | .operandFetch => completeOp c.val p n none
    | .bank o addr x ex d => bankRun c n o addr x ex d
    | .exact l f64 bf =>
      match ← asStrand c (exactRun f64 bf l) with
      | .error s => completeOp c.val p n (some (stopWord s))
      | .ok _ => completeOp c.val p n none
    | .deposit addr _ _ _ q =>
      -- a deposit to another module: its acknowledgement says that it was taken
      if cellModule addr = (← get).moduleNum.val then pure ()
      else
        fillStatus c q p n 0
        completeOp c.val p n none
    | _ => pure ()
  | none => pure ()

/-- The error that an observation of operations up to n of a path meets first (R339). -/
def Strand.observed (t : Strand) (p : Fin 6) (n : BitVec 32) : Option (Fin 6 × BitVec 32 × Word) :=
  t.ede.find? fun e => e.1 == p && decide ((n - e.2.1).toNat < 2 ^ 31)

/-- Taking the data-error trap of an operation that ended under R339. -/
def takeEde (e : Fin 6 × BitVec 32 × Word) : M Unit := do
  modStrand fun t => { t with ede := t.ede.erase e }
  trap cDataError e.2.2

/-- CPLW (R352). -/
def cplwM (p : Fin 8) (a : GReg) : M Unit := do
  let n := BitVec.ofNat 32 (← gR a).toNat
  let k := Fin.ofNat 6 p.val
  let t ← strand
  require (t.wasIssued k n) cShape (n.zeroExtend 64)
  if t.waitOver k n then
    match t.observed k n with
    | some e => takeEde e
    | none => advance
  else sleepOn (.cplw k n)

/-- ONCPL (R353). -/
def oncplM (p : Fin 8) (a b : GReg) : M Unit := do
  let n := BitVec.ofNat 32 (← gR a).toNat
  let h ← gR b
  let k := Fin.ofNat 6 p.val
  let t ← strand
  require (fieldOf h 1 0 == 0) cMisaligned h
  require (t.wasIssued k n) cShape (n.zeroExtend 64)
  require (decide (t.armed.length + t.pending.length < 8)) cShape 8
  let running := (t.opAt k n).any fun o => !o.complete
  modStrand fun t =>
    if running then { t with armed := t.armed ++ [(h, k, n)] } else { t with pending := t.pending ++ [(h, k, n)] }
  advance

/-- g28-g31 exchanged with the shadow set (R133). -/
def Strand.exchange (t : Strand) : Strand :=
  { t with
    hart := { t.hart with g := (List.range 4).foldl (fun g i => g.set! (28 + i) t.shadow[i]!) t.hart.g, resv := none }
    shadow := Vector.ofFn fun i => t.hart.g[28 + i.val]!, vresv := [] }

/-- UPRET (R133, R354). -/
def upretM (i : Instr) : M Unit := do
  let t ← strand
  require t.hart.upc cIllegal (wordOf i)
  require (fieldOf t.upra 1 0 == 0) cMisaligned t.upra
  modStrand fun t =>
    let t := t.exchange
    { t with hart := { t.hart with pc := t.upra, status := setBit t.hart.status 21 false } }

/-- Upcall entry (R133): a strand that slept leaves what it waited for, its next instruction is kept in UPRA, and the handler
starts; an error of the operation is taken at the handler's first instruction, once the execute side is empty (R339, R393). -/
def upcallEnter (c : Ctx) : M Unit := do
  match (← get).strand? c.val with
  | some t =>
    match t.pending with
    | (h, p, n) :: r =>
      let err := t.ede.find? fun e => e.1 == p && e.2.1 == n
      if t.hart.upc || t.cond == .stopped || (err.isSome && !t.iq.isEmpty) then pure ()
      else
        modify fun s => s.withdraw c
        modStrandAt c.val fun t =>
          let u := t.exchange
          { u with
            pending := r, upra := t.hart.pc, cond := .runnable
            hart := { u.hart with
              g := (u.hart.g.set 28 (BitVec.ofNat 64 p.val)).set 29 (n.zeroExtend 64), pc := h
              status := setBit u.hart.status 21 true } }
        match err with
        | some e =>
          modStrandAt c.val fun t => { t with ede := t.ede.erase e }
          modify fun s => { (takeStrandTrap c .yield { cause := cDataError, tval := e.2.2 } s) with turn := s.turn }
        | none => pure ()
    | [] => pure ()
  | none => pure ()

/-- Filling a line that the memory-side cache does not hold (R355, R58). -/
def residLine (p : PageTr) (k line : Nat) : M Unit := do
  let s ← get
  let st := s.stack k
  if (st.setLines (mscSet line)).any fun l => l.line == line then pure ()
  else
    let (st', ev) := st.fill line (BitVec.ofNat 8 (leafChain p.leaf)) (currentUO s p) none
    modify fun s => s.setStack k st'
    hotRowEvents k ev

/-- The pages of a range one after the other: where a page is found, `f` acts on the part of the range that lies on it; an
address without one is passed over by 64 KiB. -/
def overPages (acc : Acc) (stop : Nat) (f : PageTr → Nat → Nat → M Unit) : Nat → Nat → M Unit
  | 0, _ => pure ()
  | fuel + 1, va => do
    if stop ≤ va then pure ()
    else
      match ← tryTranslate acc (BitVec.ofNat 64 va) with
      | .ok p =>
        let n := Nat.min stop (p.vbase + p.size) - va
        if va < 2 ^ 64 then f p va n else pure ()
        overPages acc stop f fuel (va + n)
      | .error _ => overPages acc stop f fuel ((va / 0x10000 + 1) * 0x10000)

/-- RESID (R355). -/
def residM (a b : GReg) : M Unit := do
  let va := (← gR a).toNat
  let n := Nat.min (← gR b).toNat 0x40000000
  let me := (← get).moduleNum.val
  overPages .load (va + n) (fun p x k => do
    if leafDead p.leaf || leafMod p.leaf != me then pure ()
    else (p.linesOf x k).forM fun l => residLine p l.1 l.2) (n / 0x10000 + 2) va
  advance

/-- DEMOTE (R356). -/
def demoteM (a : GReg) : M Unit := do
  let v ← gR a
  require (fieldOf v 63 8 == 0) cProtection v
  demoteAll (BitVec.ofNat 8 v.toNat)
  advance

/-- The trap that a page met by DISCARD takes (R357 step 1). -/
def discardTrap (s : State) (p : PageTr) : Option Nat :=
  let l := p.leaf
  if leafMod l != s.moduleNum.val || !(regionOf (leafBase l)).isDram ||
      pageUnmapped (leafBase l) (leafStored l p.size) (fun k => (s.stack k).act) true ||
      (leafSYS l && !s.reachesSys s.turn) || !leafW l then some cProtection
  else if leafRD l then some cWriteProtect
  else none

/-- DISCARD of one page that is alive (R357): its users are waited for first, so that the rest is one step. -/
def discardPage (p : PageTr) : M Unit := do
  xlinvPage 3 p.job p.vbase [p]
  modify fun s => s.writeCell p.pte 8 (setBit (setBit (setBit p.leaf 9 true) 3 false) 2 false).toNat
  let s ← get
  forN 16 fun k => do
    let hit := fun (line : Nat) => p.holdsCell (cellOf s.moduleNum.val (dramCell k (line * 256)))
    modify fun s => s.dropLines k hit
    modStack k fun st => { st with lost := st.lost.filter fun u => !p.holdsCell u.1 }

/-- The pages of a DISCARD in ascending order (R357). -/
def discardGo (ptbase : Word) (stop : Nat) : Nat → Nat → M Unit
  | 0, _ => pure ()
  | fuel + 1, va => do
    if stop ≤ va then pure ()
    else
      let w := BitVec.ofNat 64 va
      if 2 ^ 56 ≤ va then trapAcc cProtection w 1
      else
        match (← get).walkPage ptbase va with
        | .invalid => trapAcc cTranslation w 1
        | .malformed => trapAcc cProtection w 1
        | .leaf l size pte =>
          let p : PageTr := { job := jobOf ptbase, vbase := va / size * size, size := size, leaf := l, pte := pte }
          if leafDead l then pure ()
          else
            match discardTrap (← get) p with
            | some c => trapAcc c w 1
            | none => discardPage p
          discardGo ptbase stop fuel (p.vbase + size)

/-- Size of the page that a valid leaf maps at an address. -/
def State.leafSize (s : State) (ptbase : Word) (va : Nat) : Option Nat :=
  if 2 ^ 56 ≤ va then none
  else match walk s.mem s.moduleNum.val ptbase va with
    | .leaf _ size _ => some size
    | _ => none

/-- DISCARD (R357). -/
def discardM (a b : GReg) : M Unit := do
  let va := (← gR a).toNat
  let n := (← gR b).toNat
  let h ← hart
  let s ← get
  let splits := fun (x y : Nat) => match s.leafSize h.ptbase y with
    | some size => x % size != 0
    | none => false
  if n = 0 then advance
  else
    require (!splits va va) cMisaligned (BitVec.ofNat 64 va)
    require (!splits (va + n) (va + n - 1)) cMisaligned (BitVec.ofNat 64 (va + n))
    discardGo h.ptbase (va + n) (n / 0x10000 + 2) va
    advance

/-- PGHINT of one frame (R358): the class rises; leaving class 1 clears UO, entering it sets UO. -/
def hintFrame (p : PageTr) (c i : Nat) : M Unit := do
  match ← raiseClass i c with
  | some old => if old = 1 then updateUO p false else if c = 1 then updateUO p true else pure ()
  | none => pure ()

/-- PGHINT (R358). -/
def pghintM (c : Fin 4) (a b : GReg) : M Unit := do
  let va := (← gR a).toNat
  let n := (← gR b).toNat
  let s ← get
  if !bitOf s.hub.fubase 0 then advance
  else
    overPages .load (va + n) (fun p _ _ => do
      if leafDead p.leaf || leafMod p.leaf != s.moduleNum.val then pure ()
      else forN ((leafStored p.leaf p.size + 0xFFFF) / 0x10000) fun k =>
        match frameIndex (leafBase p.leaf + k * 0x10000) with
        | some i => hintFrame p c.val i
        | none => pure ()) (n / 0x10000 + 2) va
    advance

/-- GSTR (R341): Reads a stream descriptor and starts a Geyser stream. -/
def execGstr (d : GReg) (a : GReg) (s : State) : Host.Outcome State Fault Refusal :=
  perform (.gstr d a) (gstrM d a) s

/-- GSTOP (R345): Ends a numbered Geyser stream. -/
def execGstop (a : GReg) (s : State) : Host.Outcome State Fault Refusal :=
  perform (.gstop a) (gstopM a) s

/-- COPY (R347): Copies bytes from memory to memory. -/
def execCopy (d : GReg) (a : GReg) (b : GReg) (s : State) : Host.Outcome State Fault Refusal :=
  perform (.copy d a b) (copyM 0 d a b) s

/-- COPY_MT (R347): Copies bytes from memory to a tile store. -/
def execCopyMt (d : GReg) (a : GReg) (b : GReg) (s : State) : Host.Outcome State Fault Refusal :=
  perform (.copyMt d a b) (copyM 1 d a b) s

/-- COPY_TM (R347): Copies bytes from a tile store to memory. -/
def execCopyTm (d : GReg) (a : GReg) (b : GReg) (s : State) : Host.Outcome State Fault Refusal :=
  perform (.copyTm d a b) (copyM 2 d a b) s

/-- COPY_TT (R347): Copies bytes from a tile store to a tile store. -/
def execCopyTt (d : GReg) (a : GReg) (b : GReg) (s : State) : Host.Outcome State Fault Refusal :=
  perform (.copyTt d a b) (copyM 3 d a b) s

/-- CPLW (R352): Sleeps until operations up to n on a path are complete. -/
def execCplw (p : Fin 8) (a : GReg) (s : State) : Host.Outcome State Fault Refusal :=
  perform (.cplw p a) (cplwM p a) s

/-- ONCPL (R353): Arms a completion upcall for operation n of a path. -/
def execOncpl (p : Fin 8) (a : GReg) (b : GReg) (s : State) : Host.Outcome State Fault Refusal :=
  perform (.oncpl p a b) (oncplM p a b) s

/-- UPRET (R354): Leaves an upcall handler and continues at UPRA. -/
def execUpret (s : State) : Host.Outcome State Fault Refusal :=
  perform (.upret) (upretM .upret) s

/-- RESID (R355): Fills the lines of a range into their memory-side caches. -/
def execResid (a : GReg) (b : GReg) (s : State) : Host.Outcome State Fault Refusal :=
  perform (.resid a b) (residM a b) s

/-- DEMOTE (R356): Issues a DEMOTE of a chain to all sixteen stacks. -/
def execDemote (a : GReg) (s : State) : Host.Outcome State Fault Refusal :=
  perform (.demote a) (demoteM a) s

/-- DISCARD (R357): Marks whole pages dead and drops their lines without write-back. -/
def execDiscard (a : GReg) (b : GReg) (s : State) : Host.Outcome State Fault Refusal :=
  perform (.discard a b) (discardM a b) s

/-- PGHINT (R358): Raises the frame-use class of the frames of a range. -/
def execPghint (c : Fin 4) (a : GReg) (b : GReg) (s : State) : Host.Outcome State Fault Refusal :=
  perform (.pghint c a b) (pghintM c a b) s

/-- GATH (R346): Hands a Fumarole gather request to the entry stack, resynchronising the sides. -/
def execGath (d : GReg) (a : GReg) (b : VReg) (mk : MReg) (me : Bool) (x : Fin 2) (l : Fin 16) (s : State) : Host.Outcome State Fault Refusal :=
  perform (.gath d a b mk me x l) (gathM (.gath d a b mk me x l) d a b mk me x l) s

/-- RSTV (R348): Stores a vector to a remote or local destination as one REM operation. -/
def execRstv (r0 : VReg) (a : GReg) (mk : MReg) (me : Bool) (q : Fin 2) (l : Fin 4) (s : State) : Host.Outcome State Fault Refusal :=
  perform (.rstv r0 a mk me q l) (rstvM (.rstv r0 a mk me q l) false r0 a none mk me q l) s

/-- RSTV_MC (R348): Stores a vector as several copies at a spacing, accepted or refused whole. -/
def execRstvMc (r0 : VReg) (a : GReg) (b : GReg) (mk : MReg) (me : Bool) (q : Fin 2) (l : Fin 4) (s : State) : Host.Outcome State Fault Refusal :=
  perform (.rstvMc r0 a b mk me q l) (rstvM (.rstvMc r0 a b mk me q l) false r0 a (some b) mk me q l) s

/-- RSTV_ADD (R351): Atomically adds vector elements to remote destination elements. -/
def execRstvAdd (r0 : VReg) (a : GReg) (mk : MReg) (me : Bool) (q : Fin 2) (s : State) : Host.Outcome State Fault Refusal :=
  perform (.rstvAdd r0 a mk me q) (rstvM (.rstvAdd r0 a mk me q) true r0 a none mk me q 0) s

/-- GEYSER_ENTRY_DELIVER (R342): A Geyser stream places a queue entry or writes its elements once they arrive and room exists. -/
def execGeyserEntryDeliver (ctx : Ctx) (n : BitVec 32) (s : State) : Host.Outcome State Fault Refusal :=
  occur (geyserStep ctx n) s

/-- FUMAROLE_FORWARD_RECEIVE (R70): A stack receives a forwarded gather element, reads it at its cache and returns it along the ring. -/
def execFumaroleForwardReceive (stack : Die) (s : State) : Host.Outcome State Fault Refusal :=
  occur (forwardReceive stack.val) s

/-- FUMAROLE_RETURN_RECEIVE (R70): Returned gather data arrives at or passes through a stack on the ring. -/
def execFumaroleReturnReceive (stack : Die) (s : State) : Host.Outcome State Fault Refusal :=
  occur (returnReceive stack.val) s

/-- PATH_OPERATION_COMPLETE (R131): An engine or path operation completes and DONE advances past complete predecessors. -/
def execPathOperationComplete (ctx : Ctx) (path : Fin 6) (n : BitVec 32) (s : State) : Host.Outcome State Fault Refusal :=
  occur (finishOp ctx path n) s

/-- RSTV_OUTCOME (R350): An RSTV's status entry is filled once the destinations accept or refuse it. -/
def execRstvOutcome (ctx : Ctx) (n : BitVec 32) (refused : Option (Fin 64)) (s : State) : Host.Outcome State Fault Refusal :=
  occur (rstvOutcome ctx n (refused.map (·.val))) s

/-- UPCALL_ENTRY (R133): The access side takes a pending upcall, swaps the shadow registers and enters the handler. -/
def execUpcallEntry (ctx : Ctx) (s : State) : Host.Outcome State Fault Refusal :=
  occur (upcallEnter ctx) s

end Sys2Proof.Machine

end
end

