-- ==== Sys2Proof/Machine/Slots.lean ====
section
/-! DEFINITION. The fields of a Caldera's region (14 R363, R364), and the slots whose release is due (R368). -/

noncomputable section

namespace Sys2Proof.Machine

/-- Fields of the configuration word (R363, Table 1). -/
def Caldera.tmo (k : Caldera) : Nat := fieldOf k.word 63 48
def Caldera.pol (k : Caldera) : Nat := fieldOf k.word 47 46
def Caldera.ordered (k : Caldera) : Bool := bitOf k.word 45
def Caldera.traps (k : Caldera) : Bool := bitOf k.word 44
def Caldera.positions (k : Caldera) : Nat := fieldOf k.word 34 32 + 1
def Caldera.slots (k : Caldera) : Nat := fieldOf k.word 31 16
def Caldera.rowb (k : Caldera) : Nat := fieldOf k.word 15 0

/-- SLOTB of a configuration word (R364). -/
def slotBytes (w : Word) : Nat := 64 * ceilDiv (128 + 2 * fieldOf w 15 0 * (fieldOf w 34 32 + 2)) 64

/-- Offset of a slot in its region. -/
def Caldera.slotOff (k : Caldera) (slot : Nat) : Nat := 256 + slot * slotBytes k.word

/-- The cells of n bytes of a region, page by page. -/
def Caldera.cells (k : Caldera) (off n : Nat) : List (Nat × Nat × Nat) :=
  (cutsAt 0x10000 (k.va + off) n).filterMap fun c =>
    (k.pages.find? fun p => decide (p.vbase ≤ c.2.1) && decide (c.2.1 < p.vbase + p.size)).map fun p =>
      (c.1, p.cell c.2.1, c.2.2)

/-- Reading n bytes of a region. -/
def Caldera.read (k : Caldera) (s : State) (off n : Nat) : Nat :=
  (k.cells off n).foldl (fun a c => a + s.mem.read c.2.1 c.2.2 * 256 ^ c.1) 0

/-- The state of a slot: 0 FREE, 1 OPEN, 2 RELEASED, 3 TAKEN (R364). -/
def Caldera.stateOf (k : Caldera) (s : State) (slot : Nat) : Nat := k.read s (k.slotOff slot + 6) 1
def Caldera.tokenOf (k : Caldera) (s : State) (slot : Nat) : Nat := k.read s (k.slotOff slot) 4
def Caldera.genOf (k : Caldera) (s : State) (slot : Nat) : Nat := k.read s (k.slotOff slot + 4) 2
def Caldera.bitmapOf (k : Caldera) (s : State) (slot : Nat) : Nat := k.read s (k.slotOff slot + 7) 1

/-- Whether the time of an OPEN slot is up (R368). -/
def Caldera.expired (k : Caldera) (s : State) (slot : Nat) : Bool :=
  k.tmo != 0 && k.stateOf s slot == 1 && decide (k.read s (k.slotOff slot + 96) 8 + 1000 * k.tmo ≤ s.time.toNat)

/-- Whether the bitmap of an OPEN slot holds all its positions, as an ordinary write may leave it (R364, R368). -/
def Caldera.filled (k : Caldera) (s : State) (slot : Nat) : Bool :=
  k.stateOf s slot == 1 && k.bitmapOf s slot % 2 ^ k.positions == 2 ^ k.positions - 1

/-- The releases that are due, as events: the slots whose time came first are the first (R368). -/
def State.dueReleases (s : State) : List Instr :=
  let all := s.dies.flatMap fun d => d.2.calderas.flatMap fun k =>
    ((List.range k.slots).filter fun i => k.expired s i || k.filled s i).map fun i =>
      (k.read s (k.slotOff i + 96) 8 + 1000 * k.tmo, Instr.calderaTimeoutRelease (Fin.ofNat 16 d.1) k.base (Fin.ofNat 65536 i))
  (all.mergeSort fun x y => decide (x.1 ≤ y.1)).map (·.2)

end Sys2Proof.Machine

end
end

