-- ==== Sys2Proof/Machine/Caldera.lean ====
section
/-! DEFINITION. Capacity records and the Caldera (14 R359-R372; 16 R396). -/

noncomputable section

namespace Sys2Proof.Machine

/-- REFUSED, and CTAKE's answer where there is nothing to take (R360, R366, R370). -/
def refusedWord : Word := 0xFFFFFFFFFFFFFFFF

/-- Bytes of the region of a configuration word (R364). -/
def regionBytes (w : Word) : Nat := 256 + fieldOf w 31 16 * slotBytes w

/-- Writing n bytes of a region. -/
def Caldera.write (k : Caldera) (off n v : Nat) : M Unit :=
  (k.cells off n).forM fun c => writeCell c.2.1 c.2.2 (v / 256 ^ c.1 % 256 ^ c.2.2)

/-- The lost units under n bytes of a region, for a consumer (R413). -/
def Caldera.check (k : Caldera) (off n : Nat) : M Unit := (k.cells off n).forM fun c => checkLost c.2.1 c.2.2 .access

/-- Adding to a counter of CSTAT (R371). -/
def Caldera.bump (k : Caldera) (c : Nat) (by' : Int) : M Unit := do
  let v := k.read (← get) (8 + 8 * c) 8
  k.write (8 + 8 * c) 8 (ofSigned 64 (v + by'))

/-- The die of a bank cell. -/
def dieOfCell (cell : Nat) : Nat := (cellAddr cell - 0x018000000000) / 0x4000000 % 16

/-- The Caldera of this module whose first byte a cell is (R362). -/
def State.calderaAt (s : State) (cell : Nat) : Option Caldera :=
  if cellModule cell = s.moduleNum.val then (s.die (dieOfCell cell)).calderas.find? fun k => k.base == cell else none

/-- Changing the record of a Caldera. -/
def modCaldera (k : Caldera) (f : Caldera → Caldera) : M Unit := modDie (dieOfCell k.base) fun d =>
  { d with calderas := d.calderas.map fun x => if x.base == k.base then f x else x }

/-- The bank page that a capacity or Caldera instruction names, of any module, with the traps of R372. -/
def tryBankAny (va : Word) : M (Except TrapReq PageTr) := do
  let bad : TrapReq := { cause := cProtection, tval := va, acc := 3, page := true }
  match ← tryTranslate .rw va with
  | .ok p => return if p.isBank then .ok p else .error bad
  | .error t =>
    if t.cause = cWriteProtect then
      match ← tryTranslate .load va with
      | .ok p => return .error (if p.isBank then t else bad)
      | .error _ => return .error bad
    else return .error t

/-- CAP and CAP.P on a record (R360): the answer, USED and NREF afterwards. -/
def capStep (pre : Bool) (limit used nref x : Nat) : Word × Nat × Nat :=
  if pre then
    if x < limit then (BitVec.ofNat 64 x, Nat.max used (x + 1), nref) else (refusedWord, used, (nref + 1) % 2 ^ 32)
  else if used < limit then (BitVec.ofNat 64 used, used + 1, nref)
  else (refusedWord, used, (nref + 1) % 2 ^ 32)

/-- CAP and CAP.P at a bank (R360). -/
def capAtBank (pre : Bool) (cell : Nat) (x : Nat) : M Word := do
  countDevice cell
  let (v, used, nref) := capStep pre (← readCell cell 4) (← readCell (cell + 4) 4) (← readCell (cell + 8) 4) x
  writeCell (cell + 4) 4 used
  writeCell (cell + 8) 4 nref
  return v

/-- CSLOT at a bank (R366): the lowest free slot becomes OPEN. -/
def cslotAtBank (k : Caldera) (token : Nat) : M Word := do
  let s ← get
  match (List.range k.slots).find? fun i => k.stateOf s i == 0 with
  | none => return refusedWord
  | some i =>
    let o := k.slotOff i
    k.write o 4 token
    k.write (o + 6) 2 1
    k.write (o + 8) 48 0
    k.write (o + 96) 8 s.time.toNat
    k.bump 0 (-1)
    modCaldera k fun x => { x with timedOut := x.timedOut.filter fun j => j != i }
    return BitVec.ofNat 64 (i + k.genOf s i * 65536)

/-- CSLOT.FREE at a bank (R366). -/
def freeAtBank (k : Caldera) (ticket : Word) : M Word := do
  let s ← get
  let i := fieldOf ticket 15 0
  let o := k.slotOff i
  if i < k.slots ∧ k.stateOf s i = 3 ∧ k.genOf s i = fieldOf ticket 31 16 then
    k.write (o + 4) 2 (k.genOf s i + 1)
    k.write (o + 6) 1 0
    k.bump 0 1
    return 0
  else return 1

/-- The slot that CTAKE picks (R370). -/
def Caldera.pick (k : Caldera) (s : State) : Option Nat :=
  let best := (List.range k.slots).foldl (fun (b : Option Nat) i =>
    if k.stateOf s i = 2 then
      match b with
      | some j => if k.tokenOf s i < k.tokenOf s j then some i else b
      | none => some i
    else b) none
  match best with
  | some i =>
    if k.ordered && (List.range k.slots).any fun j => k.stateOf s j == 1 && decide (k.tokenOf s j < k.tokenOf s i) then none
    else some i
  | none => none

/-- CTAKE at a bank (R370). -/
def ctakeAtBank (k : Caldera) : M Word := do
  let s ← get
  match k.pick s with
  | none => return refusedWord
  | some i =>
    k.write (k.slotOff i + 6) 1 3
    k.bump 1 (-1)
    let timed := k.timedOut.contains i
    let missing := (2 ^ k.positions - 1) - k.bitmapOf s i % 2 ^ k.positions
    return BitVec.ofNat 64 (i + missing * 2 ^ 16 + (if timed then 2 ^ 24 else 0) + (if timed && k.pol == 2 then 2 ^ 25 else 0) +
      k.tokenOf s i * 2 ^ 32)

/-- CSTAT at a bank (R371): counters 0 and 1 are the slots in those states. -/
def cstatAtBank (k : Caldera) (c : Nat) : M Word := do
  let s ← get
  if c < 2 then
    return BitVec.ofNat 64 ((List.range k.slots).filter fun i => k.stateOf s i == 2 * c).length
  else return BitVec.ofNat 64 (k.read s (8 + 8 * c) 8)

/-- A request at a bank of this module (R360-R371): 0 CAP, 1 CAP.P, 2 CSLOT, 3 CSLOT.FREE, 4 CTAKE, 5 CSTAT; none: no Caldera
is configured there. -/
def bankRequest (kind cell : Nat) (x : Word) : M (Option Word) := do
  if kind < 2 then
    checkLost cell 16 .access
    return some (← capAtBank (kind == 1) cell (fieldOf x 31 0))
  else
    match (← get).calderaAt cell with
    | none => return none
    | some k =>
      k.check 0 256
      countDevice cell
      if kind = 2 then return some (← cslotAtBank k (fieldOf x 31 0))
      else if kind = 3 then return some (← freeAtBank k x)
      else if kind = 4 then return some (← ctakeAtBank k)
      else return some (← cstatAtBank k x.toNat)

/-- The strand's earlier deposits at a Caldera are taken before its later request there (R140). -/
def awaitDeposits (cell : Nat) : M Unit := do
  match (← strand).ops.find? fun o => !o.complete && (match o.work with
    | .deposit a .. => a == cell
    | _ => false) with
  | some o => sleepOn (.opDone o.path o.n)
  | none => pure ()

/-- An access-side request to a bank, of this module or of another (R372); one that may find no Caldera on another module waits for
the answer (log 84). -/
def requestM (kind align : Nat) (d a : GReg) (x : Word) : M Unit := do
  let va ← gR a
  require (va.toNat % align == 0) cMisaligned va
  require (!(kind == 2 && fieldOf x 31 0 == 0xFFFFFFFF)) cShape 0xFFFFFFFF
  match ← tryBankAny va with
  | .error t => throw (.trap t)
  | .ok p =>
    let cell := p.cell va.toNat
    if leafMod p.leaf = (← get).moduleNum.val then
      if kind < 2 then awaitBank cell 16 else if kind = 4 then pure () else awaitDeposits cell
      match ← bankRequest kind cell x with
      | some v => bankReturn d v
      | none => trap cShape va
    else
      sendPacket { type := 0x0A, dst := Fin.ofNat 4096 (leafMod p.leaf), addr := cell, op := 0, data := []
                   operands := [BitVec.ofNat 64 kind, x] }
      modStrand fun t => { t with awaitsBank := t.awaitsBank ++ [d] }
      if 2 ≤ kind then sleepOn (.reply d va false) else pure ()
    advance

/-- CAP (R360, R361). -/
def capM (i : Instr) (kind : Nat) (d a b : GReg) : M Unit := do
  requireState i (!((← hart).repro && kind == 0))
  requestM kind 16 d a (← gR b)

/-- The pages of a region, in ascending order (R365, R189): each is translated, and then has to lie in the bank memory of one die of
this module. -/
def regionPages (va : Word) (len : Nat) : M (List PageTr) := do
  let me := (← get).moduleNum.val
  let (ps, _) ← (cutsAt 0x10000 va.toNat len).foldlM (fun (acc : List PageTr × Option Nat) c => do
    match ← tryTranslate .rw (BitVec.ofNat 64 c.2.1) with
    | .error t => throw (.trap (if t.cause = cProtection then { t with tval := va } else t))
    | .ok p =>
      let die := dieOfCell (p.cell c.2.1)
      require (p.isBank && leafMod p.leaf == me && dieOfCell (p.cell (c.2.1 + c.2.2 - 1)) == die &&
        acc.2.getD die == die) cProtection va
      return (addPages acc.1 [p], some die)) ([], none)
  return ps

/-- Making every slot of a new Caldera FREE under its next generation (R365). -/
def clearSlots (k : Caldera) : M Unit := forN k.slots fun i => do
  k.write (k.slotOff i + 4) 2 (k.genOf (← get) i + 1)
  k.write (k.slotOff i + 6) 1 0

/-- CCFG (R365). -/
def ccfgM (d a b : GReg) : M Unit := do
  let va ← gR a
  let w ← gR b
  let slots := fieldOf w 31 16
  require (va.toNat % 512 == 0) cMisaligned va
  require (slots == 0 || (fieldOf w 43 35 == 0 && fieldOf w 47 46 != 3 && fieldOf w 15 0 != 0)) cShape w
  let ps ← regionPages va (if slots = 0 then 256 else regionBytes w)
  let cell := match ps.find? fun p => decide (p.vbase ≤ va.toNat) && decide (va.toNat < p.vbase + p.size) with
    | some p => p.cell va.toNat
    | none => 0
  awaitDeposits cell
  let s ← get
  let die := dieOfCell cell
  let others := (s.die die).calderas.filter fun k => k.base != cell
  if slots = 0 then
    modDie die fun x => { x with calderas := others }
    gW d 0
  else
    require (decide (others.length < 16)) cShape 16
    let t ← strand
    let k : Caldera := { base := cell, va := va.toNat, pages := ps, word := w, owner := (t.launchMod, t.launchNum, t.rank)
                         job := BitVec.ofNat 16 (jobOf t.hart.ptbase), timedOut := [] }
    modDie die fun x => { x with calderas := others ++ [k] }
    k.write 0 8 w.toNat
    k.write 8 8 slots
    k.write 16 40 0
    clearSlots k
    gW d (BitVec.ofNat 64 (regionBytes w))
  advance

/-- Weights by position after the policy (R369): FP32 codes. -/
def Caldera.weights (k : Caldera) (s : State) (slot : Nat) (order : List Nat) : Nat → Nat :=
  let w := fun p => k.read s (k.slotOff slot + 8 + 4 * p) 4
  if k.pol = 1 ∧ order ≠ [] then
    let sum := order.foldl (fun a p => fp32.addRne a (w p)) 0
    if (fp32.decode sum).isZero then w else fun p => (fp32.div .rne (w p) sum).bits
  else w

/-- The positions that a release combines, in order (R369). -/
def Caldera.order (k : Caldera) (s : State) (slot : Nat) : List Nat :=
  let expert := fun p => k.read s (k.slotOff slot + 64 + 4 * p) 4
  let ps := (List.range k.positions).filter fun p => k.bitmapOf s slot / 2 ^ p % 2 == 1
  ps.mergeSort fun x y => decide (expert x < expert y) || (expert x == expert y && decide (x ≤ y))

/-- The combined row of a slot (R369). -/
def Caldera.combine (k : Caldera) (s : State) (slot : Nat) : List Nat :=
  let order := k.order s slot
  let w := k.weights s slot order
  (List.range k.rowb).map fun j =>
    let acc := order.foldl (fun a p =>
      (fp32.fma .rne (fp32.decode (w p)) (bf16.decode (k.read s (k.slotOff slot + 128 + 2 * (p * k.rowb + j)) 2)) (fp32.decode a)).bits) 0
    (bf16.round .rne (fp32.decode acc)).bits

/-- The release of a slot (R368, R369). -/
def releaseSlot (k : Caldera) (slot : Nat) (timed : Bool) : M Unit := do
  let s ← get
  k.write (k.slotOff slot + 128 + 2 * k.positions * k.rowb) (2 * k.rowb) (packElems 16 (k.combine s slot))
  k.write (k.slotOff slot + 6) 1 2
  k.bump 1 1
  modCaldera k fun x => { x with timedOut := (x.timedOut.filter fun j => j != slot) ++ (if timed then [slot] else []) }
  if !timed then pure ()
  else
    k.bump 5 1
    if k.traps then
      modify fun s => { s with strands := s.strands.map fun e =>
        if (e.2.launchMod, e.2.launchNum, e.2.rank) == k.owner && decide (e.2.timeouts.length < 8) then
          (e.1, { e.2 with timeouts := e.2.timeouts ++ [BitVec.ofNat 32 (k.tokenOf s slot)] })
        else e }
    else pure ()

/-- The status code of a deposit at a Caldera, in the order of R367; `full`: an intake or a receive buffer has no room. -/
def Caldera.code (k : Caldera) (s : State) (d : Deposit) (full : Bool) : Nat :=
  let slot := fieldOf d.ticket 15 0
  let p := fieldOf d.ticket 34 32
  let off := fieldOf d.gate 63 32
  let n := d.row.length
  if k.slots ≤ slot || k.genOf s slot != fieldOf d.ticket 31 16 || k.stateOf s slot != 1 then 2
  else if k.positions ≤ p || fieldOf d.ticket 39 35 != 0 || k.rowb < off + n ||
      k.rowb < k.read s (k.slotOff slot + 40 + 2 * p) 2 + n then 3
  else if full then 1
  else 0

/-- The effect of an accepted deposit (R367). -/
def acceptDeposit (k : Caldera) (d : Deposit) : M Unit := do
  let s ← get
  let slot := fieldOf d.ticket 15 0
  let p := fieldOf d.ticket 34 32
  let o := k.slotOff slot
  let n := d.row.length
  if n = 0 then pure ()
  else
    let count := k.read s (o + 40 + 2 * p) 2 + n
    k.check o 128
    k.write (o + 128 + 2 * (p * k.rowb + fieldOf d.gate 63 32)) (2 * n) (packElems 16 (d.row.map (·.toNat)))
    k.write (o + 40 + 2 * p) 2 count
    k.write (o + 8 + 4 * p) 4 (fieldOf d.gate 31 0)
    k.write (o + 64 + 4 * p) 4 (fieldOf d.ticket 63 40)
    if count = k.rowb then
      let b := k.bitmapOf s slot ||| 2 ^ p
      k.write (o + 7) 1 b
      if b % 2 ^ k.positions = 2 ^ k.positions - 1 then releaseSlot k slot false else pure ()
    else pure ()

/-- A deposit at its bank, whole (R367): its status code. -/
def depositRun (d : Deposit) (full : Bool) : M Nat := do
  let s ← get
  match s.calderaAt d.addr with
  | none => return 4
  | some k =>
    let code := k.code s d full
    if code = 2 then k.bump 2 1
    else if code = 3 then k.bump 4 1
    else if code = 1 then k.bump 3 1
    else acceptDeposit k d
    return code

/-- Bytes of the receive buffer that a row from another module takes: MXFP6 blocks (R350, R367). -/
def rowBytes (n : Nat) : Nat := 25 * ceilDiv n 32

/-- A deposit performed, and its issuer told (R367). -/
def depositDone (d : Deposit) (full : Bool) : M Unit := do
  match d.ctx with
  | some c =>
    match (← get).strand? c.val with
    | some t =>
      match t.opAt pBnk d.op with
      | some o =>
        match o.work with
        | .deposit _ _ _ _ q =>
          match ← asStrand c (depositRun d full) with
          | .ok code =>
            fillStatus c q pBnk d.op (BitVec.ofNat 64 code)
            completeOp c.val pBnk d.op none
          | .error e => completeOp c.val pBnk d.op (some (stopWord e))
        | _ => pure ()
      | none => pure ()
    | none => pure ()
  | none =>
    let code ← depositRun d full
    sendPacket { type := 5, dst := d.src, addr := d.addr, op := d.op, data := [], operands := [BitVec.ofNat 64 code] }

/-- A deposit enters the intake of its die; one that finds no room is settled at once (R367). -/
def depositArrive (d : Deposit) : M Unit := do
  let s ← get
  let die := dieOfCell d.addr
  let need := if d.ctx.isSome then 0 else rowBytes d.row.length
  if 256 ≤ (s.die die).intake.length ∨ Config.recvBytes < s.hub.recvUsed + need then depositDone d true
  else
    modHub fun h => { h with recvUsed := h.recvUsed + need }
    modDie die fun x => { x with intake := x.intake ++ [d] }

/-- The Caldera unit of a die takes the oldest deposit of its intake (R367). -/
def depositTake (die : Nat) : M Unit := do
  match ((← get).die die).intake with
  | [] => pure ()
  | d :: r =>
    modDie die fun x => { x with intake := r }
    if d.ctx.isSome then pure () else modHub fun h => { h with recvUsed := h.recvUsed - rowBytes d.row.length }
    depositDone d false

/-- CDEP (R367). -/
def cdepM (i : Instr) (r0 : VReg) (a : GReg) (b : Fin 16) (q : Fin 2) : M Unit := do
  let v ← view
  requireState i ((v.et == 0 || v.et == 3) && (v.span r0).ok)
  needRoom q
  needNumber pBnk
  let va ← gR a
  let ticket ← gR (Fin.ofNat 32 (2 * b.val))
  let gate ← gR (Fin.ofNat 32 (2 * b.val + 1))
  match ← tryBankAny va with
  | .error t => throw (.trap t)
  | .ok p =>
    let s ← get
    let here := leafMod p.leaf == s.moduleNum.val
    let img := (← strand).image v.regBits (v.span r0)
    let lv := linkValues v (if here then 0 else 2) (fun _ => true) fun k => elemAt v.w img k
    let row := (List.range v.n).map fun k => BitVec.ofNat 16 (bf16.round .rne (lv k)).bits
    let cell := p.cell va.toNat
    let n ← numberOp pBnk (.deposit cell ticket gate row q)
    modStrand fun t => { t with qr := t.qr.set q.val (t.qr[q] ++ [.awaits pBnk n]) }
    if here then
      depositArrive { ctx := some (← ctx), op := n, src := s.moduleNum, addr := cell, ticket := ticket, gate := gate, row := row }
    else
      sendPacket { type := 4, dst := Fin.ofNat 4096 (leafMod p.leaf), addr := cell, op := n
                   data := bytesOf (2 * row.length) (packElems 16 (row.map (·.toNat))), operands := [ticket, gate] }
    advance

/-- A slot's time-out, or its release where a write has filled its bitmap (R364, R368). -/
def timeoutRelease (die base slot : Nat) : M Unit := do
  let s ← get
  match s.calderaAt base with
  | some k =>
    if dieOfCell base ≠ die ∨ k.slots ≤ slot then pure ()
    else if k.filled s slot then releaseSlot k slot false
    else if k.expired s slot then releaseSlot k slot true
    else pure ()
  | none => pure ()

/-- The Caldera time-out trap (R368, R396): precise, at the next boundary of the access side. -/
def timeoutTrap (c : Ctx) : M Unit := do
  match (← get).strand? c.val with
  | some t =>
    match t.timeouts with
    | x :: r =>
      if t.cond = .runnable ∧ t.iq = [] then
        modStrandAt c.val fun t => { t with timeouts := r }
        modify fun s => takeStrandTrap c .yield { cause := cCaldera, tval := x.zeroExtend 64 } s
      else pure ()
    | [] => pure ()
  | none => pure ()

/-- A cell of this module from an address of a packet. -/
def State.cellHere (s : State) (addr : Nat) : Nat := cellOf s.moduleNum.val (addr % 2 ^ 48)

/-- A request from another module at a bank (R372); where no Caldera is configured the answer is the status NOCAL. -/
def remoteRequest (src : ModNum) (kind addr : Nat) (x : Word) : M Unit := do
  let s ← get
  let cell := s.cellHere addr
  if !(regionOf (cellAddr cell)).isBank then pure ()
  else
    match ← bankRequest kind cell x with
    | some v => sendPacket { type := 0x0A, dst := src, addr := cell, op := 0, data := [], operands := [v] }
    | none => sendPacket { type := 5, dst := src, addr := cell, op := 0, data := [], operands := [4] }

/-- A strand that slept for the answer to its last remote request goes on behind it. -/
def Strand.answered (t : Strand) : Strand :=
  match t.cond, t.awaitsBank with
  | .asleep (.reply ..), [] => { t.continueAt (t.hart.pc + 4) with cond := .runnable }
  | _, _ => t

/-- The answer to a strand's oldest remote request (R372). -/
def remoteReply (c : Ctx) (v : Word) : M Unit := do
  match (← get).strand? c.val with
  | some t =>
    match t.awaitsBank with
    | d :: r => modStrandAt c.val fun t => { t with awaitsBank := r, returns := t.returns ++ [(d, v)] }.answered
    | [] => pure ()
  | none => pure ()

/-- The answer that no Caldera is configured where a strand's last remote request went (R372): it takes the shape trap in its turn. -/
def Strand.unanswered (t : Strand) : Strand :=
  match t.cond with
  | .asleep (.reply d va false) => { t with cond := .asleep (.reply d va true), awaitsBank := t.awaitsBank.dropLast }
  | _ => t

/-- A value on its way from a bank arrives in its register (R335, R336). -/
def bankArrive (c : Ctx) : M Unit := do
  match (← get).strand? c.val with
  | some t =>
    match t.returns with
    | (d, v) :: r => modStrandAt c.val fun t =>
        { t with returns := r, hart := if d.val = 0 then t.hart else { t.hart with g := t.hart.g.set d.val v } }
    | [] => pure ()
  | none => pure ()

/-- CCFG (R365): Configures, replaces or removes a Caldera. -/
def execCcfg (d : GReg) (a : GReg) (b : GReg) (s : State) : Host.Outcome State Fault Refusal :=
  perform (.ccfg d a b) (ccfgM d a b) s

/-- CAP (R360): Claims the next capacity position of an expert, or records a refusal. -/
def execCap (d : GReg) (a : GReg) (b : GReg) (s : State) : Host.Outcome State Fault Refusal :=
  perform (.cap d a b) (capM (.cap d a b) 0 d a b) s

/-- CAP_P (R360): Claims a pre-counted capacity position. -/
def execCapP (d : GReg) (a : GReg) (b : GReg) (s : State) : Host.Outcome State Fault Refusal :=
  perform (.capP d a b) (capM (.capP d a b) 1 d a b) s

/-- CSLOT (R366): Allocates the lowest free Caldera slot for a token and returns a ticket. -/
def execCslot (d : GReg) (a : GReg) (b : GReg) (s : State) : Host.Outcome State Fault Refusal :=
  perform (.cslot d a b) (do requestM 2 512 d a (← gR b)) s

/-- CSLOT_FREE (R366): Frees a taken slot and advances its generation. -/
def execCslotFree (d : GReg) (a : GReg) (b : GReg) (s : State) : Host.Outcome State Fault Refusal :=
  perform (.cslotFree d a b) (do requestM 3 512 d a (← gR b)) s

/-- CTAKE (R370): Takes a released Caldera slot, acquiring towards its deposits. -/
def execCtake (d : GReg) (a : GReg) (s : State) : Host.Outcome State Fault Refusal :=
  perform (.ctake d a) (requestM 4 512 d a 0) s

/-- CSTAT (R371): Reads one Caldera counter. -/
def execCstat (d : GReg) (a : GReg) (c : Fin 32) (s : State) : Host.Outcome State Fault Refusal :=
  perform (.cstat d a c) (requestM 5 512 d a (BitVec.ofNat 64 c.val)) s

/-- CDEP (R367): Deposits part of an expert row to a Caldera slot and queues a status entry. -/
def execCdep (r0 : VReg) (a : GReg) (b : Fin 16) (q : Fin 2) (s : State) : Host.Outcome State Fault Refusal :=
  perform (.cdep r0 a b q) (cdepM (.cdep r0 a b q) r0 a b q) s

/-- CALDERA_DEPOSIT (R367): The Caldera takes a deposit whole at its bank and queues a status code. -/
def execCalderaDeposit (die : Die) (s : State) : Host.Outcome State Fault Refusal :=
  occur (depositTake die.val) s

/-- CALDERA_TIMEOUT_RELEASE (R368): A slot's time-out expires; it is combined, released and counted in NTO. -/
def execCalderaTimeoutRelease (die : Die) (base : Nat) (slot : Fin 65536) (s : State) : Host.Outcome State Fault Refusal :=
  occur (timeoutRelease die.val base slot.val) s

/-- CALDERA_TIMEOUT_TRAP (R396): The CCFG strand takes a pending Caldera time-out trap at its next access-side boundary. -/
def execCalderaTimeoutTrap (ctx : Ctx) (s : State) : Host.Outcome State Fault Refusal :=
  occur (timeoutTrap ctx) s

/-- TOKEN_ROW_PACKET (R367): A remote CDEP arrives at the Caldera's module. -/
def execTokenRowPacket (src : ModNum) (op : BitVec 32) (addr : Nat) (ticket : Word) (gate : Word) (row : List (BitVec 16)) (s : State) : Host.Outcome State Fault Refusal :=
  occur (do depositArrive { ctx := none, op := op, src := src, addr := (← get).cellHere addr, ticket := ticket, gate := gate, row := row }) s

/-- REMOTE_BANK_REQUEST (R372): A remote Caldera or capacity request is accepted at the target bank after that cycle's local requests. -/
def execRemoteBankRequest (src : ModNum) (kind : Fin 6) (addr : Nat) (operand : Word) (s : State) : Host.Outcome State Fault Refusal :=
  occur (remoteRequest src kind.val addr operand) s

/-- REMOTE_BANK_REPLY (R372): The result of a remote bank request returns to the issuer's gd. -/
def execRemoteBankReply (ctx : Ctx) (v : Word) (s : State) : Host.Outcome State Fault Refusal :=
  occur (remoteReply ctx v) s

/-- BANK_RESULT_RETURN (R336): The value of a local BNKRD, CAP, CAP.P, CSLOT, CSLOT.FREE, CTAKE or CSTAT returns from the bank into gd. -/
def execBankResultReturn (ctx : Ctx) (s : State) : Host.Outcome State Fault Refusal :=
  occur (bankArrive ctx) s

end Sys2Proof.Machine

end
end

