-- ==== Sys2Proof/Machine/Code.lean ====
section
/-! DEFINITION. Where the words of code come from: the replay buffer (07 R176), the L1 instruction cache (05 R121) and memory, with
the checks of a fetch (08 R189). -/

noncomputable section

namespace Sys2Proof.Machine

/-- Words that the L1 instruction cache of a core holds: 64 KiB (R121). -/
def icacheWords : Nat := 16384

/-- Reading a word of code at its point of coherence. -/
def codeMiss (p : PageTr) (va : Nat) : M Nat := do
  touchFrame p va 4 .ordinary
  checkLost (p.cell va) 4 .access
  mscTouch (p.cell va) 4 (BitVec.ofNat 8 (leafChain p.leaf)) (currentUO (← get) p) false false
  pointRead (p.cell va) 4

/-- Reading a word of code: a strand's core serves it from its instruction cache if it holds the word under the strand's handle, and
else keeps what it read (R121; log 10).  The control complex reads coherently (R425). -/
def codeRead (p : PageTr) (va : Nat) : M Nat := do
  match (← get).turn with
  | .cc _ => codeMiss p va
  | .strand c =>
    let t ← strandAt c.val
    match ((← get).core (coreNum c)).icache.find? fun e => e.1 == t.handle && e.2.1 == va with
    | some e => return e.2.2
    | none =>
      let w ← codeMiss p va
      modCore (coreNum c) fun k => { k with icache := ((t.handle, va, w) :: k.icache).take icacheWords }
      return w

/-- A word of the image at the executing agent's own privilege; a fault is precise at the instruction that reads it. -/
def codeWord (va : Word) : M Nat := do
  let p ← translate .fetch va
  codeRead p va.toNat

/-- The word at the program counter: in a replay the captured one, which a strand restored into its body captures again (R176, R405).
A misaligned address is not fetched from (R189, log 78). -/
def fetchWord : M Nat := do
  let h ← hart
  require (fieldOf h.pc 1 0 == 0) cMisaligned h.pc
  match (← get).turn with
  | .cc _ => codeWord h.pc
  | .strand c =>
    let t ← strandAt c.val
    if t.inReplay h.pc then
      match t.rbody.find? fun e => e.1 == h.pc.toNat with
      | some e => return e.2
      | none =>
        let w ← codeWord h.pc
        modStrand fun t => { t with rbody := (h.pc.toNat, w) :: t.rbody }
        return w
    else codeWord h.pc

/-- Invalidating what the caches of the cores hold of a code handle (R121). -/
def State.dropCode (s : State) (handle : BitVec 32) : State :=
  { s with cores := s.cores.map fun e => (e.1, { e.2 with
      icache := e.2.icache.filter fun w => w.1 != handle
      expansions := e.2.expansions.filter fun x => x.handle != handle }) }

end Sys2Proof.Machine

end
end

