-- ==== Sys2Proof/Machine/Control.lean ====
section
/-! DEFINITION. Branches, jumps, hardware loops, replay and the ways in to the supervisor (09 R220-R225, 07 R176). -/

noncomputable section

namespace Sys2Proof.Machine

/-- The target of a branch or jump: a signed count of words from its own address (R185). -/
def targetOf (pc : Word) (off : Int) : Word := pc + BitVec.ofInt 64 (4 * off)

/-- A conditional branch (R220). -/
def branchIf (c : Word → Word → Bool) (a b : GReg) (off : BitVec 15) : M Unit := do
  let x ← gR a
  let y ← gR b
  let pc ← pcR
  goto (if c x y then targetOf pc off.toInt else pc + 4)

/-- JAL (R220). -/
def jalM (off : BitVec 25) : M Unit := do
  let pc ← pcR
  gW 1 (pc + 4)
  goto (targetOf pc off.toInt)

/-- JALR (R221). -/
def jalrM (d a : GReg) : M Unit := do
  let pc ← pcR
  let t ← gR a
  require (fieldOf t 1 0 == 0) cMisaligned t
  gW d (pc + 4)
  goto t

/-- LOOP (R222); the body length less one stands in two fields. -/
def loopM (hi : Fin 32) (a : GReg) (lo : Fin 32) : M Unit := do
  let h ← hart
  require (!h.lact) cIllegal (wordOf (.loop hi a lo))
  let pc ← pcR
  let c := fieldOf (← gR a) 31 0
  let fin := pc + BitVec.ofNat 64 (4 + 4 * (hi.val * 32 + lo.val + 1))
  if c = 0 then goto fin
  else
    goto (pc + 4)
    modHart fun h => { h with lact := true, lbeg := pc + 4, lend := fin, lrem := BitVec.ofNat 64 c }

/-- Scalar integer and address instructions that do not touch memory (R204, R206). -/
def isPlainScalar (i : Instr) : Bool :=
  match i with
  | .ldl .. => false
  | .stc .. => false
  | .ldB .. => false
  | .ldH .. => false
  | .ldW .. => false
  | .ldD .. => false
  | .ldBN .. => false
  | .ldHN .. => false
  | .ldWN .. => false
  | .stB .. => false
  | .stH .. => false
  | .stW .. => false
  | .stD .. => false
  | i => decide (encode i < 0x0B * 2 ^ 25)

/-- What a replay body may hold (R176). -/
def vrepAllows (i : Instr) : Bool :=
  match i with
  | .sblk .. => false
  | .vsetl .. => true
  | .qw .. => true
  | i => isExecute i || isPlainScalar i

/-- Whether a word may stand in a replay body. -/
def vrepWordOk (w : Nat) : Bool :=
  match decodeBody w with
  | some i => i.wf && vrepAllows i
  | none => false

/-- VREP (R176, R223). -/
def vrepM (l : Fin 32) (a : GReg) : M Unit := do
  let pc ← pcR
  let body ← (List.range (l.val + 1)).mapM fun i => do
    let va := pc + BitVec.ofNat 64 (4 + 4 * i)
    let w ← codeWord va
    require (vrepWordOk w) cIllegal (BitVec.ofNat 64 w)
    return (va.toNat, w)
  let c := fieldOf (← gR a) 31 0
  let fin := pc + BitVec.ofNat 64 (4 + 4 * (l.val + 1))
  if c = 0 then goto fin
  else
    goto (pc + 4)
    modStrand fun t => { t with ract := true, rbeg := pc + 4, rend := fin, rrem := BitVec.ofNat 64 c, rbody := body }

/-- A code in the h and l fields of SCALL and BRK (R221). -/
def codeOf (h l : Fin 32) : Word := BitVec.ofNat 64 (h.val * 32 + l.val)

/-- SCALL (R225). -/
def scallM (h l : Fin 32) : M Unit := do
  let pc ← pcR
  throw (.trap { cause := cSysCall, tval := codeOf h l, tpc := some (pc + 4) })

/-- YIELD: a positive credit is given up (R224, R385). -/
def yieldM : M Unit := do
  match (← get).turn with
  | .strand _ => modStrand fun t => { t with cred := if 0 < t.cred then 0 else t.cred, yielded := true }
  | .cc _ => pure ()
  advance

/-- BEQ (R220): Branches if ga equals gb. -/
def execBeq (a : GReg) (b : GReg) (off : BitVec 15) (s : State) : Host.Outcome State Fault Refusal :=
  perform (.beq a b off) (branchIf (fun x y => x == y) a b off) s

/-- BNE (R220): Branches if ga differs from gb. -/
def execBne (a : GReg) (b : GReg) (off : BitVec 15) (s : State) : Host.Outcome State Fault Refusal :=
  perform (.bne a b off) (branchIf (fun x y => x != y) a b off) s

/-- BLT (R220): Branches if ga is less than gb as signed values. -/
def execBlt (a : GReg) (b : GReg) (off : BitVec 15) (s : State) : Host.Outcome State Fault Refusal :=
  perform (.blt a b off) (branchIf BitVec.slt a b off) s

/-- BGE (R220): Branches if ga is greater than or equal to gb as signed values. -/
def execBge (a : GReg) (b : GReg) (off : BitVec 15) (s : State) : Host.Outcome State Fault Refusal :=
  perform (.bge a b off) (branchIf (fun x y => !x.slt y) a b off) s

/-- BLTN (R220): Branches if ga is less than gb as unsigned values. -/
def execBltn (a : GReg) (b : GReg) (off : BitVec 15) (s : State) : Host.Outcome State Fault Refusal :=
  perform (.bltn a b off) (branchIf BitVec.ult a b off) s

/-- BGEN (R220): Branches if ga is greater than or equal to gb as unsigned values. -/
def execBgen (a : GReg) (b : GReg) (off : BitVec 15) (s : State) : Host.Outcome State Fault Refusal :=
  perform (.bgen a b off) (branchIf (fun x y => !x.ult y) a b off) s

/-- JAL (R220): Writes the return address to g1 and jumps. -/
def execJal (off : BitVec 25) (s : State) : Host.Outcome State Fault Refusal :=
  perform (.jal off) (jalM off) s

/-- JALR (R221): Writes the return address to gd and jumps to ga. -/
def execJalr (d : GReg) (a : GReg) (s : State) : Host.Outcome State Fault Refusal :=
  perform (.jalr d a) (jalrM d a) s

/-- LOOP (R222): Starts a hardware loop of L instructions that runs ga[31:0] times. -/
def execLoop (h : Fin 32) (a : GReg) (l : Fin 32) (s : State) : Host.Outcome State Fault Refusal :=
  perform (.loop h a l) (loopM h a l) s

/-- VREP (R223): Captures a loop body in the replay buffer and runs it ga[31:0] times. -/
def execVrep (l : Fin 32) (a : GReg) (s : State) : Host.Outcome State Fault Refusal :=
  perform (.vrep l a) (vrepM l a) s

/-- YIELD (R224): Gives up the strand's current issue slot at the partition arbiter. -/
def execYield (s : State) : Host.Outcome State Fault Refusal :=
  perform (.yield) yieldM s

/-- SCALL (R225): Takes the system-call trap with the code in TVAL. -/
def execScall (h : Fin 32) (l : Fin 32) (s : State) : Host.Outcome State Fault Refusal :=
  perform (.scall h l) (scallM h l) s

/-- BRK (R225): Takes the breakpoint trap with the code in TVAL. -/
def execBrk (h : Fin 32) (l : Fin 32) (s : State) : Host.Outcome State Fault Refusal :=
  perform (.brk h l) (trap cBreak (codeOf h l)) s

end Sys2Proof.Machine

end
end

