-- ==== Sys2Proof/Machine/Loader.lean ====
section
/-! DEFINITION. Loading and unloading code: the Tartur object format, its checks and what the firmware does with a segment
(08 R201-R203; 18 R438, R439; 05 R121). -/

noncomputable section

namespace Sys2Proof.Machine

/-- Where a part of an image lies: its offset and its size. -/
abbrev Part := Nat × Nat

/-- The bytes of a part of an image. -/
def partOf (img : List Byte) (p : Part) : List Byte := (img.drop p.1).take p.2

/-- A segment entry (R201, Table 14): its 128 bytes, and its sections and tables. -/
structure Segment where
  entry : List Byte
  code : Part
  data : Part
  bss : Nat
  entries : Part
  resumes : Part
  relocs : Part
  sys : Bool
  sig : Part
deriving DecidableEq, Repr

/-- A table of an entry: the offset and the count at a place of it, and the size of one element. -/
def tablePart (e : List Byte) (at_ size : Nat) : Part := (fieldAt e at_ 4, fieldAt e (at_ + 4) 4 * size)

/-- The entry of segment k (R201). -/
def segmentAt (img : List Byte) (k : Nat) : Segment :=
  let e := partOf img (fieldAt img 12 4 + 128 * k, 128)
  { entry := e, code := (fieldAt e 8 8, fieldAt e 16 8), data := (fieldAt e 24 8, fieldAt e 32 8), bss := fieldAt e 40 8
    entries := tablePart e 48 4, resumes := tablePart e 56 4, relocs := tablePart e 64 8
    sys := fieldAt e 73 1 / 64 % 2 == 1, sig := (fieldAt e 80 8, 512) }

/-- Whether the header of an image is in order and lists segment k (R201, R202). -/
def imageLists (img : List Byte) (k : Nat) : Bool :=
  decide (64 ≤ img.length) && img.take 4 == [0x54, 0x52, 0x54, 0x46] && fieldAt img 4 2 == 1 && allZero (partOf img (6, 2)) &&
    allZero (partOf img (16, 48)) && decide (k < fieldAt img 8 4) && decide (fieldAt img 12 4 + 128 * fieldAt img 8 4 ≤ img.length)

/-- The elements of a table of 32-bit or 64-bit words. -/
def tableOf (img : List Byte) (p : Part) (size : Nat) : List Nat :=
  (List.range (p.2 / size)).map fun i => fieldAt img (p.1 + size * i) size

/-- Code offsets that are multiples of 4 within the code (R202). -/
def Segment.offsetsOk (g : Segment) (l : List Nat) : Bool := l.all fun o => o % 4 == 0 && decide (o < g.code.2)

/-- Whether a segment is well formed (R202): the firmware refuses any other. -/
def Segment.ok (g : Segment) (img : List Byte) : Bool :=
  let inside := fun (p : Part) => decide (p.1 + p.2 ≤ img.length)
  allZero ((g.entry.drop 74).take 6) && allZero (g.entry.drop 88) && decide (fieldAt g.entry 73 1 < 128) &&
    inside g.code && inside g.data && inside g.entries && inside g.resumes && inside g.relocs && inside g.sig &&
    decide (fieldAt g.entry 0 8 < img.length) && g.code.2 % 4 == 0 && g.offsetsOk (tableOf img g.entries 4) &&
    g.offsetsOk (tableOf img g.resumes 4) && decide (g.code.2 + g.data.2 + g.bss ≤ 512 * 1048576)

/-- What the signature of a segment covers (R203): its entry with SIG read as zero, its code, its data and its three tables. -/
def Segment.signed (g : Segment) (img : List Byte) : List Byte :=
  g.entry.take 80 ++ List.replicate 8 0 ++ g.entry.drop 88 ++ partOf img g.code ++ partOf img g.data ++ partOf img g.entries ++
    partOf img g.resumes ++ partOf img g.relocs

/-- Whether the firmware's code-signing keys accept a segment, and whether the key is a system-code key (R203).  A segment marked as
system code is accepted under such a key only. -/
def Segment.accepted (g : Segment) (keys : List (Nat × Nat × Bool)) (img : List Byte) : Option Bool :=
  match keys.find? fun k => rsaVerify k.1 k.2.1 (partOf img g.sig) (g.signed img) with
  | some k => if g.sys && !k.2.2 then none else some k.2.2
  | none => none

/-- The first 64 KiB boundary at or above a number of bytes. -/
def boundary (n : Nat) : Nat := (n + 0xFFFF) / 0x10000 * 0x10000

/-- The data of a segment with C added to each word that RELOC names (R202). -/
def Segment.relocated (g : Segment) (img : List Byte) (code : Word) : List Byte :=
  (tableOf img g.relocs 8).foldl (fun d o =>
    if o + 8 ≤ d.length then d.take o ++ bytesOf 8 ((fieldAt d o 8 + code.toNat) % 2 ^ 64) ++ d.drop (o + 8) else d) (partOf img g.data)

/-- The bytes of a loaded segment, from C upward: the code, at the next boundary the data, and the zero-filled section (R202). -/
def Segment.image (g : Segment) (img : List Byte) (code : Word) : List Byte :=
  partOf img g.code ++ List.replicate (boundary g.code.2 - g.code.2) 0 ++ g.relocated img code ++ List.replicate g.bss 0

/-- The firmware loads a segment (R202, R203, R438, R439): it is checked, measured and placed, and gets the next handle, of which no
cache holds anything.  A segment that is refused gets none (log 88). -/
def State.loadSegment (s : State) (img : List Byte) (k : Nat) (code : Word) (place : Nat) : State :=
  let g := segmentAt img k
  let num := s.hub.lastHandle + 1
  match if imageLists img k && g.ok img && code.toNat % 0x10000 == 0 && num != 0 then g.accepted s.hub.keys img else none with
  | none => s
  | some system =>
    let s := (attempt (extendM (sha512 (g.signed img))) s).1
    let s := putBytes s place (g.image img code)
    -- with no entry table, entry 0 is the first instruction (R200)
    let entries := tableOf img g.entries 4
    let h : Handle := { num := num, code := code, size := g.code.2, entries := if entries.isEmpty then [0] else entries,
                        resumes := tableOf img g.resumes 4, system := system }
    { s with hub := { s.hub with handles := s.hub.handles ++ [h], lastHandle := num } }.dropCode num

/-- The firmware unloads a handle, unless a resident launch names it (R439, R121). -/
def State.unload (s : State) (num : BitVec 32) : State :=
  if s.hub.launches.any fun l => l.handle == num then s
  else { s with hub := { s.hub with handles := s.hub.handles.filter fun h => h.num != num } }.dropCode num

end Sys2Proof.Machine

end
end

