-- ==== Sys2Proof/Machine/Fetch.lean ====
section
/-! DEFINITION. Fetching and decoding the next instruction of an agent (07 R161, 08 R184, R187, R189), forwarding to the
execute side (07 R162) and performing what was forwarded.  The meanings come in as `ex`. -/

noncomputable section

namespace Sys2Proof.Machine

/-- What the next word of an agent is: an instruction, the trap that its fetch or decoding takes (R189 rows 1 to 4), or a word of
another module's memory that has not come yet (R43). -/
inductive Fetched where
  | instr (i : Instr)
  | trapped (t : TrapReq)
  | waiting (cell n : Nat)
deriving DecidableEq, Repr

/-- Whether an agent runs system code: a handle with the system bit, or supervisor privilege (R228). -/
def State.systemCode (s : State) (a : Agent) : Bool :=
  match a with
  | .strand c => match s.strand? c.val with
    | some t => t.hart.sysh
    | none => false
  | .cc n => bitOf (s.cc n.val).ccstat 0

/-- What an undecodable word does (R187, R189 rows 2 to 4). -/
def decodeTrap (sys : Bool) (e : DecodeError) (w : Nat) : TrapReq :=
  match e with
  | .reservedSpace => { cause := cReserved, tval := BitVec.ofNat 64 w }
  | .systemUnassigned => { cause := if sys then cIllegal else cPrivilege, tval := BitVec.ofNat 64 w }
  | .illegal => { cause := cIllegal, tval := BitVec.ofNat 64 w }

/-- A control complex core has no reserved space or Sirmal block: every word it does not execute is illegal (R422). -/
def ccDecodeTrap (t : TrapReq) : TrapReq := if t.cause = cReserved then { t with cause := cIllegal } else t

/-- What a word is for the agent whose turn it is (R189 rows 2 to 4). -/
def decodeFor (s : State) (w : Nat) : Fetched :=
  match decodeWord w with
  | .ok i => .instr i
  | .error e =>
    let t := decodeTrap (s.systemCode s.turn) e w
    .trapped (match s.turn with | .strand _ => t | .cc _ => ccDecodeTrap t)

/-- Fetching and decoding at the program counter (R189 rows 1 to 4). -/
def fetchDecode (s : State) : Fetched × State :=
  match fetchWord.run s with
  | .ok w s' => (decodeFor s w, s')
  | .error (.trap t) s' => (.trapped t, s')
  | .error (.wait (.fabric _ cell n)) _ => (.waiting cell n, s)
  | .error _ s' => (.trapped { cause := cIllegal, tval := 0 }, s')

/-- Whether the strand of a context is stopped. -/
def State.isStopped (s : State) (c : Ctx) : Bool :=
  match s.strand? c.val with
  | some t => t.cond == .stopped
  | none => false

/-- Whether the strand of a context sleeps. -/
def State.isAsleep (s : State) (c : Ctx) : Bool :=
  match s.strand? c.val with
  | some t => match t.cond with
    | .asleep _ => true
    | _ => false
  | none => false

/-- Whether the strand of a context sleeps on a queue. -/
def State.sleepsOnQueue (s : State) (c : Ctx) : Bool :=
  match s.strand? c.val with
  | some t => match t.cond with
    | .asleep (.queueFull _) => true
    | .asleep (.queueEmpty _) => true
    | _ => false
  | none => false

/-- The cause of the trap at which the strand of a context stands. -/
def State.causeOf (s : State) (c : Ctx) : Nat :=
  match s.strand? c.val with
  | some t => fieldOf t.hart.tcause 7 0
  | none => 0

/-- Whether the strand of a context stands at a trap held in a frame. -/
def State.heldAt (s : State) (c : Ctx) : Bool :=
  match s.strand? c.val with
  | some t => bitOf t.hart.tcause 9
  | none => false

/-- Whether the head of a strand's fault frame has a number on its path (R338). -/
def State.frameNumbered (s : State) (c : Ctx) : Bool :=
  match s.strand? c.val with
  | some t => t.frame.any fun f => f.head.op.isSome
  | none => false

/-- Whether an instruction is an access of the execute side to memory that is performed behind all earlier stores (R139): all but
the vector loads and stores, which keep their order by the bytes they touch. -/
def behindStores (i : Instr) : Bool :=
  match i with
  | .vldl .. => true
  | .vldlD .. => true
  | .vldz .. => true
  | .vscc .. => true
  | .vsccD .. => true
  | .fld .. => true
  | .fldlv .. => true
  | .fst .. => true
  | .fscat .. => true
  | .accld .. => true
  | .accst .. => true
  | _ => false

/-- Whether the head of a strand's queue is performed behind all earlier stores. -/
def State.headBehind (s : State) (c : Ctx) : Bool :=
  match s.strand? c.val with
  | some t => match t.iq with
    | f :: _ => behindStores f.instr
    | [] => false
  | none => false

/-- What came of an execute-side instruction that a lasting error stands before: one that has not met it at an element of a memory
access takes the data-error trap with nothing performed, since what it did to registers is performed again with the same result
(R394, R412). -/
def meetOutcome (c : Ctx) (i : Instr) (s : State) (o : Host.Outcome State Fault Refusal) : Host.Outcome State Fault Refusal :=
  match o, s.strand? c.val with
  | .next u, some t =>
    match t.dataErr with
    | some e =>
      if isExecute i && e.elem != 0xFFFF && !u.isAsleep c && (u.strand? c.val).any (fun v => v.dataErr.isSome) then
        .next (takeTrap i (e.req s (.element e.elem.toNat (t.view (s.groupsOf c)).laneWidth)) s)
      else o
    | none => o
  | _, _ => o

/-- The execute side performs the head of its queue under the values captured with it (R162); a head that has to wait for a
queue, or for bytes of another module, stays where it is (R43, R165). -/
def performHead (ex : Instr → State → Host.Outcome State Fault Refusal) (c : Ctx) (defer : Bool) (s : State) :
    Host.Outcome State Fault Refusal :=
  let s := if s.headBehind c then s.storeAll c else s
  match s.strand? c.val with
  | none => .next s
  | some t =>
    match t.iq with
    | [] => .next s
    | f :: rest =>
      let t1 := { t.withCaptured f.cap with
        fromQueue := some f, saved := some t.capture, cond := .runnable, iq := rest, delay := defer }
      let s1 := { s.setStrand c.val t1 with turn := .strand c }
      match meetOutcome c f.instr s1 (ex f.instr s1) with
      | .next u =>
        if u.isStopped c then .next { u with turn := s.turn }
        else if u.isAsleep c then .next { s with hub := { s.hub with fabric := u.hub.fabric, outbox := u.hub.outbox } }
        else
          match u.strand? c.val with
          | some v => .next { u.setStrand c.val { v.endForwarded with cond := t.cond, cm := 0, delay := false } with turn := s.turn }
          | none => .next { u with turn := s.turn }
      | o => o

/-- Forwarding an instruction to the execute side (R162); `numbered` says whether it takes a number on its path. -/
def forward (c : Ctx) (i : Instr) (numbered : Bool) (s : State) : State :=
  match s.strand? c.val with
  | none => s
  | some t =>
    let old := lengthBefore t i
    let (t, n) := t.onForward (s.groupsOf c) numbered i
    let rpl := t.inReplay t.hart.pc
    let f : Forwarded := { pc := t.hart.pc, instr := i, cap := t.capture, op := n, rpl := rpl, before := old }
    s.setStrand c.val { t.continueAt (t.hart.pc + 4) with iq := t.iq ++ [f] }

/-- Whether an execute-side instruction can set a flag under R85 and take the arithmetic trap: all but moves, logic, masks, and the
matrix, accumulator and solver instructions, of which only ACCCVT does (R299). -/
def canFlag (i : Instr) : Bool :=
  match i with
  | .vand .. => false
  | .vor .. => false
  | .vxor .. => false
  | .vshl .. => false
  | .vshr .. => false
  | .vsra .. => false
  | .vabs .. => false
  | .vneg .. => false
  | .vmov .. => false
  | .vclass .. => false
  | .viota .. => false
  | .vsplat .. => false
  | .vmovQ .. => false
  | .vandS .. => false
  | .vorS .. => false
  | .vxorS .. => false
  | .vshlS .. => false
  | .vshrS .. => false
  | .vsraS .. => false
  | .vsel .. => false
  | .vpf .. => false
  | .vsplit .. => false
  | .vfuse .. => false
  | .mpopv .. => false
  | .mand .. => false
  | .mor .. => false
  | .mxor .. => false
  | .mnot .. => false
  | .mset .. => false
  | .mclr .. => false
  | .mfromfm .. => false
  | .vslideup .. => false
  | .vslidedn .. => false
  | .vshuf .. => false
  | .vrev .. => false
  | .vexpand .. => false
  | .vfoldClr .. => false
  | .vconflict .. => false
  | .fintA .. => false
  | .fintB .. => false
  | .funiA .. => false
  | .funiB .. => false
  | .fcpt .. => false
  | .ffromv .. => false
  | .fcrd .. => false
  | .fval .. => false
  | .fcnt .. => false
  | .mmaT .. => false
  | .mmaM .. => false
  | .mmaxT .. => false
  | .mmaxM .. => false
  | .mmasT .. => false
  | .mmasM .. => false
  | .accz .. => false
  | .accld .. => false
  | .accst .. => false
  | .accrd .. => false
  | .accwr .. => false
  | .accred .. => false
  | .accrdD .. => false
  | .accwrD .. => false
  | .tluf .. => false
  | .tchol .. => false
  | .ttrsL .. => false
  | .ttrsU .. => false
  | .ttrsL1 .. => false
  | .ttrsU1 .. => false
  | .ttrsLp .. => false
  | .ttrsL1p .. => false
  | .tres .. => false
  | .titer .. => false
  | .rstv .. => false
  | .rstvMc .. => false
  | .rstvAdd .. => false
  | .bnkexa .. => false
  | .cdep .. => false
  | _ => true

/-- Whether an instruction holds the access side (R393): VMERGE, and while an arithmetic trap is enabled what can set a flag.  No
later instruction then has any effect before it has been performed (R391), so that it is performed in its place. -/
def holds (t : Strand) (i : Instr) : Bool := (i matches .vmerge ..) || (fieldOf t.hart.status 12 8 != 0 && canFlag i)

/-- Whether an instruction may be forwarded now: execute side, room in the queue, on its path and in the queue it fills, and no
hold of R393. -/
def forwardable (t : Strand) (i : Instr) : Bool :=
  (match (klass i).side with
    | .execute => true
    | _ => false) &&
  decide (t.iq.length < Config.iqDepth) && t.mayForward i && !holds t i

/-- The job of the strand in a context. -/
def State.jobAt (s : State) (c : Ctx) : Nat :=
  match s.strand? c.val with
  | some t => jobOf t.hart.ptbase
  | none => 0

/-- Whether every participant of a barrier episode has arrived on this module. -/
def State.barrierFull (s : State) (sc : Fin 8) (n : Nat) (b : Fin 16) (job : Nat) : Bool :=
  s.hub.episodes.any fun e => e.scope == sc && e.inst == n && e.bar == b && e.job == BitVec.ofNat 16 job &&
    decide (e.count ≤ e.arrived.length)

/-- The event that may wake an agent from what it sleeps on (R182); arrivals at a POD barrier on other modules are not waited
for here (log 32). -/
def wakeEvent (s : State) (a : Agent) (r : Sleep) : Instr :=
  match a, r with
  | .strand c, .queueFull _ => .queueWake c
  | .strand c, .queueEmpty _ => .queueWake c
  | .strand c, .stream _ => .queueWake c
  | .strand c, .ctas b => .semaphoreGrant (Fin.ofNat 1024 (quadNum c)) b
  | .strand c, .bar sc n b =>
    if s.barrierFull sc n b (s.jobAt c) then .barrierEpisodeComplete (Fin.ofNat 5 sc.val) n b (BitVec.ofNat 16 (s.jobAt c))
    else .queueWake c
  | .strand c, .cplw .. => .cplwWake c
  | .strand c, .issueLimit _ => .cplwWake c
  | .strand c, .opDone .. => .cplwWake c
  | .strand c, .drain _ => .cplwWake c
  | .strand c, .idle => .idleWake c
  | .strand c, .others _ => .queueWake c
  | .strand c, .pageUse .. => .queueWake c
  | .strand c, .fabric .. => .queueWake c
  | .strand c, .performed .. => .queueWake c
  | .strand c, .replies => .queueWake c
  | .strand c, .reply .. => .queueWake c
  | a, .sigwait .. => .sigwaitWake a
  | a, .waitt .. => .waittWake a
  | .cc n, _ => .ccInterruptEntry n

/-- The engine event that comes next for an outstanding operation, if an engine works for it (R338). -/
def engineEvent (s : State) (c : Ctx) (o : PathOp) : Option Instr :=
  if o.complete then none
  else
    match o.work with
    | .forwarded => none
    | .affine .. => some (.geyserEntryDeliver c o.n)
    | .fibre .. => some (.geyserEntryDeliver c o.n)
    | .gather _ _ elems =>
      match s.stackTab.find? fun k => !k.2.ringRet.isEmpty with
      | some k => some (.fumaroleReturnReceive (Fin.ofNat 16 k.1))
      | none =>
        match s.stackTab.find? fun k => !k.2.ringFwd.isEmpty with
        | some k => some (.fumaroleForwardReceive (Fin.ofNat 16 k.1))
        | none => if elems.all (fun e => e.val.isSome) then some (.pathOperationComplete c o.path o.n) else none
    | .remoteStore _ _ _ false => some (.rstvOutcome c o.n none)
    | .deposit addr .. =>
      if cellModule addr = s.moduleNum.val then some (.calderaDeposit (Fin.ofNat 16 ((cellAddr addr - 0x018000000000) / 0x4000000)))
      else some (.pathOperationComplete c o.path o.n)
    | _ => some (.pathOperationComplete c o.path o.n)

/-- Whether an outcome is anything else than the state it started from. -/
def moves (s : State) (o : Host.Outcome State Fault Refusal) : Bool :=
  match o with
  | .next u => u != s
  | _ => true

/-- The state of a next outcome, else another. -/
def nextOf (o : Host.Outcome State Fault Refusal) (d : State) : State :=
  match o with
  | .next s => s
  | _ => d

/-- The first of several attempts that moves, if one does. -/
def firstMove {α : Type} (s : State) (f : α → Host.Outcome State Fault Refusal) :
    List α → Option (Host.Outcome State Fault Refusal)
  | [] => none
  | x :: r => if moves s (f x) then some (f x) else firstMove s f r

/-- An engine works for some outstanding operation of a strand (R338). -/
def engineStep (ex : Instr → State → Host.Outcome State Fault Refusal) (c : Ctx) (t : Strand) (s : State) :
    Option (Host.Outcome State Fault Refusal) :=
  firstMove s (fun i => ex i s) (t.ops.filterMap (engineEvent s c))

/-- The execute side performs its head, or an engine works for it; none: neither moves. -/
def ownStep (ex : Instr → State → Host.Outcome State Fault Refusal) (c : Ctx) (s : State) :
    Option (Host.Outcome State Fault Refusal) :=
  if moves s (performHead ex c false s) then some (performHead ex c false s)
  else
    match s.strand? c.val with
    | none => none
    | some t => engineStep ex c t s

/-- The strands whose queues hold up a VSPLIT or VFUSE at the head of a strand's queue (R169). -/
def State.holdsUp (s : State) (c : Ctx) : List Ctx :=
  match s.strand? c.val with
  | some t =>
    match t.iq with
    | f :: _ => if changesLanes f.instr then s.splitPeers (coreNum c) c.val else []
    | [] => []
  | none => []

/-- The execute side goes on: it performs its head, an engine works for a head that waits, or the strands that hold it up go
on. -/
def executeStep (ex : Instr → State → Host.Outcome State Fault Refusal) (c : Ctx) (s : State) :
    Host.Outcome State Fault Refusal :=
  match ownStep ex c s with
  | some o => o
  | none => ((firstMove s (fun p => (ownStep ex p s).getD (.next s)) (s.holdsUp c)).getD (.next s))

/-- One step of a strand that is being stopped: its execute side performs what was forwarded, its streams end, its operations
complete, and it stops (R400). -/
def stopStep (ex : Instr → State → Host.Outcome State Fault Refusal) (c : Ctx) (s : State) : Host.Outcome State Fault Refusal :=
  match s.strand? c.val with
  | none => .next s
  | some t =>
    if !t.stores.isEmpty then .next (s.storeAll c)
    else if !t.returns.isEmpty then ex (.bankResultReturn c) s
    else if !t.awaitsBank.isEmpty then .next s
    else if !t.iq.isEmpty then executeStep ex c s
    else if t.ops.any fun o => o.path == pGey && !o.complete then .next (s.setStrand c.val t.endStreams)
    else if t.ops.isEmpty then .next (s.setStrand c.val t.finishStop)
    else (engineStep ex c t s).getD (.next s)

/-- A step towards the point that an agent waits for in other strands (R169, R232, R378, R409); none: they have reached it. -/
def othersStep (ex : Instr → State → Host.Outcome State Fault Refusal) (cs : List Ctx) (s : State) :
    Option (Host.Outcome State Fault Refusal) :=
  let busy := cs.filter fun c => match s.strand? c.val with
    | some t => t.pendingWork
    | none => false
  let go := fun (c : Ctx) => match s.strand? c.val with
    | some t => if t.stop.isSome then stopStep ex c s else executeStep ex c s
    | none => .next s
  if busy.isEmpty then none else some ((firstMove s go busy).getD (.next s))

/-- A step towards the end of the operations that use a page (R42); none: none does any more. -/
def pageStep (ex : Instr → State → Host.Outcome State Fault Refusal) (job va : Nat) (cs : List Ctx) (s : State) :
    Option (Host.Outcome State Fault Refusal) :=
  let evs := cs.flatMap fun c => match s.strand? c.val with
    | some t => (t.ops.filter fun o => !o.complete && o.work.uses job va).map fun o => (c, o)
    | none => []
  if evs.isEmpty then none
  else some ((firstMove s (fun i => ex i s) (evs.filterMap fun e => engineEvent s e.1 e.2)).getD (.next s))

/-- The registers that bank operations of a strand have still to write (R335, R372). -/
def Strand.owed (t : Strand) : List GReg :=
  (t.awaitsBank.filter fun d => d.val != 0) ++ t.ops.filterMap fun o =>
    match o.work with
    | .bank _ _ _ _ d => if o.complete || d.val == 0 then none else some d
    | _ => none

/-- Whether an instruction may read or write a general register: by a register field of its word or a group that starts at one,
or as the link of JAL. -/
def mayTouch (i : Instr) (r : GReg) : Bool :=
  let w := encode i
  let near := fun (f : Nat) => decide (f ≤ r.val) && decide (r.val ≤ f + 7)
  r.val == 1 || near (w / 2 ^ 20 % 32) || near (w / 2 ^ 15 % 32) || near (w / 2 ^ 10 % 32) ||
    (match i with
      | .sblk .. => true
      | _ => false)

/-- A step of the bank operations whose results a strand waits for (R335). -/
def owedStep (ex : Instr → State → Host.Outcome State Fault Refusal) (c : Ctx) (t : Strand) (s : State) :
    Host.Outcome State Fault Refusal :=
  (firstMove s (fun i => ex i s) ((t.ops.filter fun o => o.path == pBnk).filterMap (engineEvent s c))).getD (.next s)

/-- Whether an instruction reads or grants what a VSPLIT or VFUSE changes: LGMAP, VL, VPAD and the shape (R169, R194). -/
def readsLanes (i : Instr) : Bool :=
  match i with
  | .srd _ n => [0x000, 0x001, 0x005, 0x006, 0x007, 0x008].contains n.val
  | .vsetl .. => true
  | .tshape _ => true
  | _ => false

/-- Whether an instruction is a scalar store (R208). -/
def isStore (i : Instr) : Bool :=
  match i with
  | .stB .. => true
  | .stH .. => true
  | .stW .. => true
  | .stD .. => true
  | _ => false

/-- Whether an instruction may be performed before earlier stores of its strand: a load, what touches no memory on the access side,
and the execute side's accesses (R138, R140); a store only if the agenda lets it wait as well. -/
def passesStores (i : Instr) (defer : Bool) : Bool :=
  (klass i == kScalar || (klass i).side == .execute) && (defer || !isStore i)

/-- The outcome with the agenda's wish for the next store met. -/
def undelayed (c : Ctx) (o : Host.Outcome State Fault Refusal) : Host.Outcome State Fault Refusal :=
  match o with
  | .next u => match u.strand? c.val with
    | some t => if t.delay then .next (u.setStrand c.val { t with delay := false }) else .next u
    | none => .next u
  | o => o

/-- Running an instruction of a strand behind its stores (R138). -/
def runBehind (ex : Instr → State → Host.Outcome State Fault Refusal) (c : Ctx) (defer : Bool) (i : Instr) (s : State) :
    Host.Outcome State Fault Refusal :=
  let s := if passesStores i defer then s else s.storeAll c
  match s.strand? c.val with
  | some t => if defer && isStore i then undelayed c (ex i (s.setStrand c.val { t with delay := true })) else meetOutcome c i s (ex i s)
  | none => ex i s

/-- One access-side step of a strand whose next instruction is `i` (R161-R163, R165, R391): an instruction that the execute
side has to precede waits for it; with `defer` an execute-side instruction is forwarded. -/
def accessStep (ex : Instr → State → Host.Outcome State Fault Refusal) (c : Ctx) (defer : Bool) (i : Instr) (s : State) :
    Host.Outcome State Fault Refusal :=
  match s.strand? c.val with
  | none => .next s
  | some t =>
    if t.owed.any (mayTouch i) then owedStep ex c t s
    else if readsLanes i && t.iq.any (fun f => changesLanes f.instr) then executeStep ex c s
    else if !t.iq.isEmpty && (i matches .bnkexa ..) && moves s (executeStep ex c s) then executeStep ex c s
    else
    match runBehind ex c defer i s with
    | .next u =>
      let held := u.isStopped c && u.heldAt c
      let precise := u.isStopped c && !u.heldAt c
      if isExecute i && forwardable t i && !precise && (defer || !t.iq.isEmpty || u.sleepsOnQueue c) then
        .next (forward c i (!held || u.frameNumbered c) s)
      else if t.iq.isEmpty then .next u
      else if u.isStopped c || (klass i).side != .access then
        -- a queue or a path that has no room puts the access side to sleep once the execute side stands as well
        let o := executeStep ex c s
        match if moves s o || !isExecute i then none else t.forwardWait i with
        | some r => .next (s.setStrand c.val { t with cond := .asleep r })
        | none => o
      else .next u
    | o => o

/-- One access-side step that fetches (R161). -/
def fetchStep (ex : Instr → State → Host.Outcome State Fault Refusal) (defer : Bool) (s : State) :
    Host.Outcome State Fault Refusal :=
  match fetchDecode s with
  | (.instr i, s') =>
    match s.turn with
    | .strand c => accessStep ex c defer i s'
    | .cc _ => ex i s'
  | (.waiting cell n, s') => .next ((s'.askFabric s'.turn cell n).fallAsleep (.fabric s'.turn cell n))
  | (.trapped t, s') =>
    match s.turn with
    | .strand c =>
      match s.strand? c.val with
      | some st => if st.iq.isEmpty then .next (takeTrap .yield t s') else executeStep ex c s
      | none => .next s
    | .cc _ => .next (takeTrap .yield t s')

/-- One step of a strand that sleeps: it wakes, its execute side goes on, an engine works for it, the strands it waits for go
on, or it is deadlocked (R165, R182). -/
def sleepStep (ex : Instr → State → Host.Outcome State Fault Refusal) (c : Ctx) (r : Sleep) (s : State) :
    Host.Outcome State Fault Refusal :=
  match r with
  | .others cs => (othersStep ex cs s).getD (.next (s.rouse (.strand c)))
  | .pageUse job va cs => (pageStep ex job va cs s).getD (.next (s.rouse (.strand c)))
  | .fabric .. => executeStep ex c s
  | .reply _ va refused =>
    if refused && (s.strand? c.val).any (fun t => t.iq.isEmpty) then .next (takeTrap .yield { cause := cShape, tval := va } s)
    else executeStep ex c s
  | _ =>
    let woken := ex (wakeEvent s (.strand c) r) s
    if !(nextOf woken s).isAsleep c then woken
    else
      let own := executeStep ex c s
      if moves s own then own else ex (.queueDeadlock c) s

/-- Whether a strand wakes from a sleep to take an upcall (R133, R182): the waits of a release, of SEXIT and of the system
instructions are not left. -/
def Sleep.forUpcall (r : Sleep) : Bool :=
  match r with
  | .drain _ => false
  | .others _ => false
  | .pageUse .. => false
  | .fabric .. => false
  | .reply .. => false
  | _ => true

/-- A strand with a pending upcall takes it, once no register it exchanges is owed a value (R133, R335). -/
def upcallTurn (ex : Instr → State → Host.Outcome State Fault Refusal) (c : Ctx) (t : Strand) (s : State) :
    Host.Outcome State Fault Refusal :=
  if !t.owed.isEmpty then owedStep ex c t s
  else
    let o := ex (.upcallEntry c) s
    if moves s o then o else executeStep ex c s

/-- A step of a strand that a lasting error stands before (R391, R412), none where it goes on as otherwise: on the access side the trap
is taken at the instruction that uses the data, once what was forwarded has been performed; on the execute side the next of its
instructions is performed. -/
def errorStep (ex : Instr → State → Host.Outcome State Fault Refusal) (c : Ctx) (t : Strand) (s : State) :
    Option (Host.Outcome State Fault Refusal) :=
  match t.dataErr with
  | none => none
  | some e =>
    if t.cond = .stopped then none
    else if !t.iq.isEmpty then some (executeStep ex c s)
    else if e.elem = 0xFFFF then some (.next (takeTrap .yield (e.req s .access) s))
    else
      match (fetchDecode s).1 with
      | .instr i => if isExecute i && t.cond == .runnable then some (fetchStep ex false s) else none
      | _ => none

/-- The turn of a strand (R161, R182): results on their way arrive, a strand that was asked to stop stops, upcalls and time-outs
are taken, a sleeping strand tries to wake, and otherwise the next instruction is fetched. -/
def strandTurn (ex : Instr → State → Host.Outcome State Fault Refusal) (c : Ctx) (defer : Bool) (s : State) :
    Host.Outcome State Fault Refusal :=
  match s.strand? c.val with
  | none => .next s
  | some t =>
    if s.hub.frozen || !s.hub.diesReleased then .next s
    else if !t.returns.isEmpty then ex (.bankResultReturn c) s
    else match errorStep ex c t s with
    | some o => o
    | none =>
    if t.stop.isSome && t.pendingWork then stopStep ex c s
    else
      match t.cond with
      | .stopped => .next s
      | .asleep r => if !t.pending.isEmpty && !t.hart.upc && r.forUpcall then upcallTurn ex c t s else sleepStep ex c r s
      | .runnable =>
        if !t.pending.isEmpty && !t.hart.upc then upcallTurn ex c t s
        else if !t.timeouts.isEmpty then (if t.iq.isEmpty then ex (.calderaTimeoutTrap c) s else executeStep ex c s)
        else fetchStep ex defer s

/-- The turn of a control complex core (R422, R424). -/
def ccTurn (ex : Instr → State → Host.Outcome State Fault Refusal) (n : Fin 32) (s : State) :
    Host.Outcome State Fault Refusal :=
  let c := s.cc n.val
  if c.held then .next s
  else if !c.irqs.isEmpty && bitOf c.ccstat 2 then ex (.ccInterruptEntry n) s
  else
    match c.asleep with
    | some .idle => if c.irqs.isEmpty then .next s else .next (s.setCc n.val { c with asleep := none })
    | some (.others cs) => (othersStep ex cs s).getD (.next (s.rouse (.cc n)))
    | some (.pageUse job va cs) => (pageStep ex job va cs s).getD (.next (s.rouse (.cc n)))
    | some (.fabric ..) => .next s
    | some r => ex (wakeEvent s (.cc n) r) s
    | none => fetchStep ex false s

/-- Another module's launch that names this module is resident here from now on, under its issuer's module and number (R375); its
issuer has seen to its predecessors. -/
def State.adopt (s : State) (l : Launch) : State :=
  let first := fieldOf l.place0 11 0
  if l.issuer = s.moduleNum ∨ l.pkind ≠ 2 ∨ s.moduleNum.val < first ∨ first + fieldOf l.place0 27 16 < s.moduleNum.val ∨
      s.hub.launches.any (fun x => x.issuer == l.issuer && x.number == l.number) then s
  else
    { s with hub := { s.hub with launches := s.hub.launches ++
        [{ l with here := true, othersLeft := 0, preds := [], dispatched := false, exited := 0, aborted := false }] } }

/-- An event; one that still waits, for the accesses through a page that an INV or SPLIT names or for bytes of another module, comes
again, and the accesses go on (R43, R48, R50). -/
def eventStep (ex : Instr → State → Host.Outcome State Fault Refusal) (i : Instr) (s : State) :
    Host.Outcome State Fault Refusal :=
  match ex i s with
  | .next u =>
    match u.hub.rdWait with
    | some w =>
      let u := { u with hub := { u.hub with rdWait := none }, agenda := u.agenda ++ [.event i] }
      match w with
      | .pageUse job va cs => (pageStep ex job va cs u).getD (.next u)
      | .fabric => .next u
    | none => .next u
  | o => o

/-- Time passes; a Caldera slot whose time is up then is released before anything else happens (R368). -/
def State.elapse (ex : Instr → State → Host.Outcome State Fault Refusal) (s : State) (ns : Nat) : State :=
  let s := { s with time := s.time + BitVec.ofNat 64 ns }
  s.dueReleases.foldl (fun s i => nextOf (ex i s) s) s

/-- Whether the issue stage takes a strand: it skips one that sleeps or is stopped, that waits in a resynchronisation, or that waits on a
full instruction queue (R384). -/
def State.issuable (s : State) (c : Ctx) : Bool :=
  match s.strand? c.val with
  | some t =>
    t.cond == .runnable &&
      (t.iq.isEmpty ||
        match (fetchDecode { s with turn := .strand c }).1 with
        | .instr i =>
          match (klass i).side with
          | .resync => false
          | .execute => decide (t.iq.length < Config.iqDepth)
          | _ => true
        | _ => false)
  | none => false

/-- Context k of a core. -/
def ctxOf (core : Fin 4096) (k : Nat) : Ctx := Fin.ofNat 32768 (core.val * 8 + k % 8)

/-- The first of a core's contexts after a given one, by number and round again, of which a test holds. -/
def nextCtx (core : Fin 4096) (after : Nat) (p : Ctx → Bool) : Option Ctx :=
  ((List.range 8).map fun k => ctxOf core (after + 1 + k)).find? p

/-- The issue stage of a core takes strands in round robin by context number (R384). -/
def issueStep (ex : Instr → State → Host.Outcome State Fault Refusal) (core : Fin 4096) (defer : Bool) (s : State) :
    Host.Outcome State Fault Refusal :=
  let k := s.core core.val
  match nextCtx core k.served s.issuable with
  | some c => strandTurn ex c defer { s.setCore core.val { k with served := c.val % 8 } with turn := .strand c }
  | none => .next s

/-- Cycles that an instruction occupies its partition: each lane group packs the selected elements of its slots into beats of 256 bits
(R173, R385; log 21). -/
def occupancy (t : Strand) (v : VView) (i : Instr) : Nat :=
  let w := encode i
  let major := w / 2 ^ 25
  let masked := ((decide (0x20 ≤ major) && decide (major < 0x38)) || (decide (0x3C ≤ major) && decide (major < 0x40))) && w / 32 % 2 == 1
  let mask := (t.m[w / 64 % 16]?).getD 0
  let sel := (List.range v.n).filter fun k => !masked || mask.getLsbD k
  let cycles := (List.range v.groups).map fun g =>
    ceilDiv (sel.filter fun k => k * v.laneWidth / 256 % v.groups == g).length (256 / v.laneWidth)
  cycles.foldl Nat.max 1

/-- The strands bound to a partition of a core (R166, R385). -/
def State.boundTo (s : State) (core : Fin 4096) (part : Fin 8) : List Ctx :=
  let lg := (s.core core.val).lgmap
  ((List.range 8).map (ctxOf core)).filter fun c =>
    (s.strand? c.val).isSome && fieldOf lg (3 * (c.val % 8) + 2) (3 * (c.val % 8)) % Nat.max 1 (partitions lg).length == part.val

/-- Crediting strands, none of which has a positive credit (R385). -/
def State.replenish (s : State) (cs : List Ctx) : State :=
  cs.foldl (fun s c => match s.strand? c.val with
    | some t =>
      let w : Int := (fieldOf t.share 3 0 : Nat)
      s.setStrand c.val { t with cred := if t.cred + 8 * w ≤ 64 * w then t.cred + 8 * w else 64 * w }
    | none => s) s

/-- The strand of the greatest credit, the lowest context among equals. -/
def State.richest (s : State) (cs : List Ctx) : Option Ctx :=
  let cred := fun (c : Ctx) => (s.strand? c.val).elim 0 fun t => t.cred
  cs.find? fun c => cs.all fun d => decide (cred d ≤ cred c)

/-- The arbiter of a partition starts one execute-side instruction, of the eligible strand that its credits choose (R385). -/
def arbiterStep (ex : Instr → State → Host.Outcome State Fault Refusal) (core : Fin 4096) (part : Fin 8) (s : State) :
    Host.Outcome State Fault Refusal :=
  let bound := s.boundTo core part
  let weight := fun (c : Ctx) => (s.strand? c.val).elim 0 fun t => fieldOf t.share 3 0
  let eligible := bound.filter fun c => (s.strand? c.val).any (fun t => !t.yielded) && moves s (performHead ex c false s)
  let s := bound.foldl (fun s c => match s.strand? c.val with
    | some t => s.setStrand c.val { t with yielded := false }
    | none => s) s
  match eligible.filter fun c => weight c != 0 with
  | [] =>
    let k := s.core core.val
    match nextCtx core (mapGetD k.idled part.val 7) eligible.contains with
    | some c => performHead ex c false (s.setCore core.val { k with idled := mapSet k.idled part.val (c.val % 8) })
    | none => .next s
  | cs =>
    let poor := cs.all fun c => (s.strand? c.val).any fun t => decide (t.cred ≤ 0)
    let s := if poor then s.replenish cs else s
    match s.richest cs with
    | some c =>
      match s.strand? c.val with
      | some t =>
        let n : Int := (t.iq.head?.elim 0 fun f =>
          let u := t.withCaptured f.cap
          occupancy u (u.view (s.groupsOf c)) f.instr : Nat)
        performHead ex c false (s.setStrand c.val { t with cred := t.cred - n })
      | none => .next s
    | none => .next s

/-- One item of the agenda (log 3); without power only a reset has an effect (R435). -/
def runAct (ex : Instr → State → Host.Outcome State Fault Refusal) (a : Act) (s : State) :
    Host.Outcome State Fault Refusal :=
  if !s.powered && !(a matches .event .moduleReset) then .next s
  else
  match a with
  | .event i =>
    match (klass i).side with
    | .event => eventStep ex i s
    | _ => .next s
  | .access (.strand c) defer => strandTurn ex c defer { s with turn := .strand c }
  | .access (.cc n) _ => ccTurn ex n { s with turn := .cc n }
  | .execute c defer => performHead ex c defer s
  | .issue core defer => issueStep ex core defer s
  | .arbitrate core part => arbiterStep ex core part s
  | .store c k => .next (s.storeAt c k)
  | .launched l => .next (s.adopt l)
  | .loadSegment img k code place => .next (if s.boot = .running then s.loadSegment img k code place else s)
  | .unload num => .next (s.unload num)
  | .elapse ns => .next (s.elapse ex ns)

/-- Writing 8 bytes of physical memory of this module. -/
def State.poke (s : State) (a n v : Nat) : State := { s with mem := s.mem.write (cellOf s.moduleNum.val a) n v }

/-- The leaf of the page that `placeWord` maps: frame 0x30 of the interleaved aperture, readable and executable. -/
def placedLeaf (s : State) : Nat := s.moduleNum.val * 2 ^ 52 + 0x30 * 2 ^ 26 + 0xB

/-- A strand of system code in context 0, at virtual address 0x100 of a page mapped by tables of its own, with an instruction
stored there (log 20). -/
def State.placeWord (s : State) (_nbits w : Nat) : State :=
  let t := { Strand.initial with
    hart := { Hart.zero with pc := 0x100, status := 0x400000, ptbase := 0x0001000000100000 }, handle := 1, launchNum := 1 }
  let s := (((s.poke 0x100000 8 0x200001).poke 0x200000 8 0x201001).poke 0x201000 8 0x202001).poke 0x202000 8 (placedLeaf s)
  let s := s.poke 0x300100 4 w
  { ((s.setStrand 0 t).setCore 0 { s.core 0 with icache := [], tlb := [] }) with turn := .strand 0, agenda := [], boot := .running, hub := { s.hub with diesReleased := true } }

end Sys2Proof.Machine

end
end

