-- ==== Sys2Proof/Machine/Packets.lean ====
section
/-! DEFINITION. Packets between modules and read-duplicate pages (02 R43, R48-R51; 13 R332, R350, R351; 18 R430, R431). -/

noncomputable section

namespace Sys2Proof.Machine

/-- Whether an address of a packet names memory of this module (R24). -/
def State.hasMemory (s : State) (addr : Nat) : Bool :=
  match regionOf (addr % 2 ^ 48) with
  | .dram _ _ => true
  | .bank _ _ => true
  | .resident k o => decide (o < (s.stack k).act * 0x4000000)
  | _ => false

/-- Offset in system space that an address of a packet names, if it does. -/
def systemOff (addr : Nat) : Option Nat :=
  match regionOf (addr % 2 ^ 48) with
  | .system off => some off
  | _ => none

/-- The units that a list of bytes, by cell, covers whole, of those that are lost (R413). -/
def State.wholeUnits (s : State) (cells : List Nat) : List (Nat × Nat) :=
  (cells.flatMap fun c => (s.lostAt c 1).map fun u => (u.1, u.2.1)).eraseDups.filter fun u =>
    (List.range u.2).all fun i => cells.contains (u.1 + i)

/-- Clearing the lost units whose bytes have all been written (R413). -/
def clearUnits (us : List (Nat × Nat)) : M Unit := us.forM fun u => checkLostWrite u.1 u.2 .access

/-- Bytes that an agent outside the dies writes (R136, R413, R428): whole lost units move to a spare, bytes of other lost units
are not written. -/
def writeOutside (ws : List (Nat × Byte)) : M Unit := do
  let s ← get
  let cells := (ws.filter fun w => s.hasMemory w.1).map fun w => (s.cellHere w.1, w.2)
  clearUnits (s.wholeUnits (cells.map (·.1)))
  (cells.map fun w => w.1 / 256).eraseDups.forM fun l => mscTouch (l * 256) 1 0 false false true
  (cells.map fun w => cellAddr w.1 / 65536).eraseDups.forM fun f => touchAddr (f * 65536) 1
  cells.forM fun w => do
    if ((← get).lostAt w.1 1).isEmpty then writeCell w.1 1 w.2.toNat else pure ()

/-- A word stored to system space by another module: registers take aligned 8-byte accesses (R75). -/
def systemStore (ws : List (Nat × Byte)) : M Unit := do
  match ws with
  | w :: _ =>
    match systemOff w.1 with
    | some off =>
      if ws.length = 8 ∧ off % 8 = 0 ∧ ws.zipIdx.all (fun x => x.1.1 == w.1 + x.2) then
        sysWrite false off 8 (ofBytes (ws.map (·.2))) 0
      else pure ()
    | none => pure ()
  | [] => pure ()

/-- An acknowledgement or refusal (R431, Table 7). -/
def acknowledge (src : ModNum) (op : BitVec 32) (addr : Nat) (code : Word) : M Unit :=
  sendPacket { type := 5, dst := src, addr := addr, op := op, data := [], operands := [code] }

/-- REMOTE_STORE_PACKET (R350): a train that finds no buffer space is refused; else its writes are performed, the space is free
again and the train acknowledged. -/
def remoteStoreIn (src : ModNum) (op : BitVec 32) (ws : List (Nat × Byte)) : M Unit := do
  let s ← get
  let addr := (ws.head?.map (·.1)).getD 0
  if Config.recvBytes < s.hub.recvUsed + ws.length then acknowledge src op addr 1
  else
    writeOutside ws
    systemStore ws
    acknowledge src op addr 0

/-- An atomic add of n bytes at an address of this module (R154, R332, R351); none: the bytes are lost or no memory. -/
def addHere (addr n : Nat) (x : Word) : M Unit := do
  let s ← get
  let cell := s.cellHere addr
  if s.hasMemory addr && (s.lostAt cell n).isEmpty then
    touchAddr (addr % 2 ^ 48) n
    countDevice cell
    mscTouch cell n 0 false false true
    writeCell cell n (((← readCell cell n) + x.toNat) % 256 ^ n)
  else
    match systemOff addr with
    | some off => if n = 8 ∧ off % 8 = 0 then sysWrite false off 8 (((← sysRead off 8 0) + x.toNat) % 2 ^ 64) 0 else pure ()
    | none => pure ()

/-- REMOTE_ADD_PACKET (R350, R351). -/
def remoteAddIn (src : ModNum) (op : BitVec 32) (width : Nat) (adds : List (Nat × Word)) : M Unit := do
  let s ← get
  let addr := (adds.head?.map (·.1)).getD 0
  if Config.recvBytes < s.hub.recvUsed + width * adds.length then acknowledge src op addr 1
  else
    adds.forM fun a => addHere a.1 width a.2
    acknowledge src op addr 0

/-- SIGNAL_PACKET (R332): what precedes a marked one on its route has been performed already (R430). -/
def signalIn (src : ModNum) (op : BitVec 32) (addr : Nat) (x : Word) (_release : Bool) : M Unit := do
  addHere addr 8 x
  acknowledge src op addr 0

/-- ACK_PACKET (R350, R367): the answer for an operation of a strand: a deposit ends with its status code; an RSTV is accepted or
refused; what was accepted is performed. -/
def ackIn (c : Ctx) (p : Fin 6) (n : BitVec 32) (code : Word) : M Unit := do
  match (← get).strand? c.val with
  | some t =>
    match t.opAt p n with
    | some o =>
      match o.complete, o.work with
      | false, .deposit addr _ _ _ q =>
        if cellModule addr = (← get).moduleNum.val then pure ()
        else
          fillStatus c q p n code
          completeOp c.val p n none
      | false, .remoteStore _ _ _ false =>
        rstvOutcome c n (if bitOf code 0 then some (fieldOf code 15 8) else none)
      | false, .remoteStore _ _ _ true => finishOp c p n
      | false, .remoteSignal .. => finishOp c p n
      | _, _ => pure ()
    -- a bank request that no Caldera of the other module could take (R372, log 84)
    | none => if p.val = pBnk ∧ n = 0 ∧ code = 4 then modStrandAt c Strand.unanswered else pure ()
  | none => pure ()

/-- REMOTE_READ_PACKET (R43): the data go back to the reader; lost bytes do not (R412, log 68). -/
def remoteReadIn (src : ModNum) (addr n : Nat) : M Unit := do
  let s ← get
  if (List.range n).all (fun i => s.hasMemory (addr + i) && (s.lostAt (s.cellHere (addr + i)) 1).isEmpty) then
    touchAddr (addr % 2 ^ 48) n
    (cutsAt 256 addr n).forM fun c => mscTouch (s.cellHere c.2.1) c.2.2 0 false false false
    let s ← get
    sendPacket { type := 7, dst := src, addr := addr, op := 0, operands := []
                 data := (List.range n).map fun i => s.mem.get (s.cellHere (addr + i)) }
  else
    match systemOff addr with
    | some off =>
      if n = 8 ∧ off % 8 = 0 then
        let v ← sysRead off 8 0
        sendPacket { type := 7, dst := src, addr := addr, op := 0, data := bytesOf 8 v, operands := [] }
      else pure ()
    | none => pure ()

/-- Whether an arriving packet answers a read: its bytes lie within those that were asked for, and have not arrived (R43). -/
def FabricRead.answeredBy (r : FabricRead) (cell n : Nat) : Bool :=
  decide (r.cell ≤ cell) && decide (cell + n ≤ r.cell + r.len) &&
    ((r.data.drop (cell - r.cell)).take n).all fun b => b.isNone

/-- A read with the bytes of a packet put in. -/
def FabricRead.filled (r : FabricRead) (cell : Nat) (bytes : List Byte) : FabricRead :=
  let k := cell - r.cell
  { r with data := r.data.take k ++ bytes.map some ++ r.data.drop (k + bytes.length) }

/-- READ_DATA_PACKET (R43): the oldest read that the bytes answer has them; once it has all, its agent goes on. -/
def readDataIn (src : ModNum) (addr : Nat) (bytes : List Byte) : M Unit := do
  let cell := cellOf src.val (addr % 2 ^ 48)
  let s ← get
  match s.hub.fabric.findIdx? fun r => r.answeredBy cell bytes.length with
  | none => pure ()
  | some k =>
    match s.hub.fabric[k]? with
    | none => pure ()
    | some r =>
      let r := r.filled cell bytes
      modHub fun h => { h with fabric := h.fabric.set k r }
      if r.value.isSome && s.sleepOf r.who = some (.fabric r.who r.cell r.len) then modify fun s => s.rouse r.who else pure ()

/-- Kinds of supervisor control packets, as their first operand. -/
def kInv : Word := 0
def kAck : Word := 1
def kSplit : Word := 2

/-- Sending a supervisor control packet about a page (R48, Table 7). -/
def control (dst : ModNum) (page : Nat) (kind : Word) : M Unit :=
  sendPacket { type := 9, dst := dst, addr := page, op := 0, data := [], operands := [kind] }

/-- The read-duplicate page that a 64 KiB page number belongs to: its key and its record. -/
def Hub.rdAt (h : Hub) (page : Nat) : Option (Nat × RdPage) :=
  h.rd.find? fun e => decide (e.1 ≤ page) && decide (page < e.1 + e.2.size / 65536)

/-- Replacing the record of a page. -/
def setRd (key : Nat) (r : RdPage) : M Unit := modHub fun h => { h with rd := mapSet h.rd key r }

/-- What a page's record says of a holder: the address of its frame and the cell of its leaf entry. -/
def RdPage.of (r : RdPage) (m : ModNum) : Option (Nat × Nat) := (r.holders.find? fun h => h.1 == m).map (·.2)

/-- Bytes of the pod's memory as the supervisor of this module writes them: here, or by a remote store (R43, R431). -/
def supervisorWrite (cell n v : Nat) : M Unit := do
  if cellModule cell = (← get).moduleNum.val then writeCell cell n v
  else sendPacket { type := 1, dst := Fin.ofNat 4096 (cellModule cell), addr := cell, op := 0, data := bytesOf n v, operands := [] }

/-- Bytes of the pod's memory as the supervisor of this module reads them: here, or by a remote read, for which it waits (R43). -/
def supervisorRead (cell n : Nat) : M Nat := do
  let s ← get
  if cellModule cell = s.moduleNum.val then readCell cell n
  else
    let who : Agent := .cc 0
    match s.hub.fabric.find? fun r => r.who == who && r.cell == cell && r.len == n && r.value.isSome with
    | some r =>
      modHub fun h => { h with fabric := h.fabric.erase r }
      return r.value.getD 0
    | none => throw (.wait (.fabric who cell n))

/-- A leaf or table entry written, here or on another module (R29, R48). -/
def writeEntry (cell : Nat) (v : Word) : M Unit := supervisorWrite cell 8 v.toNat

/-- An entry of a page table as it stands, here or on another module. -/
def readEntry (cell : Nat) : M Word := do return BitVec.ofNat 64 (← supervisorRead cell 8)

/-- A leaf that names the frame of a module without RD (R49). -/
def pointTo (l : Word) (m : ModNum) (frame : Nat) : Word :=
  setBit (setBit (setField (setField l 63 52 m.val) 51 26 (frame / 65536)) 7 false) 0 true

/-- The end of a collapse (Table 8): the writer's leaf loses RD, and its access is released. -/
def collapseDone (key : Nat) (r : RdPage) (w : ModNum) : M Unit := do
  match r.of w with
  | some (_, pte) => writeEntry pte (setBit (← readEntry pte) 7 false)
  | none => pure ()
  setRd key { r with state := .owned w, acks := [], released := [w] }

/-- The start of a collapse (Table 8): INV to every holder but the writer. -/
def collapseStart (key : Nat) (r : RdPage) (w : ModNum) : M Unit := do
  let others := (r.holders.map (·.1)).filter fun h => h != w
  others.forM fun h => control h key kInv
  if others.isEmpty then collapseDone key r w else setRd key { r with state := .collapsing w, acks := others }

/-- The start of a transfer to the oldest queued writer (Table 8). -/
def transferStart (key : Nat) (r : RdPage) (w : ModNum) : M Unit := do
  match r.queue with
  | x :: q =>
    if r.released.contains w then setRd key r
    else
      control w key kInv
      setRd key { r with state := .transfer w x, queue := q, acks := [w] }
  | [] => setRd key r

/-- RD_WRITE_FAULT_REPORT (R48-R50, Table 8): split, collapse or queue. -/
def rdFault (page : Nat) (w : ModNum) (split : Bool) : M Unit := do
  match (← hub).rdAt page with
  | some (key, r) =>
    match r.state with
    | .shared =>
      if split && r.size == 0x200000 && r.sfmt.val == 0 then
        let hs := r.holders.map (·.1)
        hs.forM fun h => control h key kSplit
        setRd key { r with state := .splitting w, acks := hs, written := page }
      else collapseStart key r w
    -- a second writer waits for the split, and is heard again (R51)
    | .splitting _ => setRd key { r with late := r.late ++ [(w, page)] }
    | .collapsing v => if v = w ∨ r.queue.contains w then pure () else setRd key { r with queue := r.queue ++ [w] }
    | .owned v => if v = w ∨ r.queue.contains w then pure () else transferStart key { r with queue := r.queue ++ [w] } v
    | .transfer _ x => if x = w ∨ r.queue.contains w then pure () else setRd key { r with queue := r.queue ++ [w] }
  | none => pure ()

/-- The 32 pages of a split page, each SHARED (Table 8): a holder's new entries stand in the table that its old entry points to now
(R50). -/
def subPage (r : RdPage) (tables : List Nat) (i : Nat) : RdPage :=
  { r with
    size := 65536, state := .shared, acks := [], late := []
    holders := (r.holders.zip tables).map fun h =>
      (h.1.1, h.1.2.1 + i * 65536, entryCell (cellModule h.1.2.2) h.2 i) }

/-- The end of a split (Table 8): the written page takes the fault, and writers that faulted meanwhile are heard again (R51). -/
def splitDone (key : Nat) (r : RdPage) (w : ModNum) : M Unit := do
  let tables ← r.holders.mapM fun h => do return fieldOf (← readEntry h.2.2) 47 8 * 256
  forN 32 fun i => setRd (key + i) (subPage r tables i)
  rdFault r.written w false
  r.late.forM fun x => rdFault x.2 x.1 false

/-- The end of a transfer (Table 8): the page goes to the frame of its new owner, and both leaves name it there. -/
def transferDone (key : Nat) (r : RdPage) (w x : ModNum) : M Unit := do
  match r.of w, r.of x with
  | some (wf, wp), some (xf, xp) =>
    let l ← readEntry wp
    let n := leafStored l r.size
    let lx ← readEntry xp
    supervisorWrite (cellOf x.val xf) n (← supervisorRead (cellOf w.val wf) n)
    writeEntry xp (pointTo lx x xf)
    writeEntry wp (pointTo l x xf)
  | _, _ => pure ()
  setRd key { r with state := .owned x, acks := [], released := [x] }

/-- RD_ACK_RECEIVE (R49, Table 8). -/
def rdAck (page : Nat) (h : ModNum) : M Unit := do
  match (← hub).rdAt page with
  | some (key, r) =>
    if r.acks.contains h then
      let r := { r with acks := r.acks.filter fun x => x != h }
      if !r.acks.isEmpty then setRd key r
      else
        match r.state with
        | .splitting w => splitDone key r w
        | .collapsing w => collapseDone key r w
        | .transfer w x => transferDone key r w x
        | _ => setRd key r
    else pure ()
  | none => pure ()

/-- RD_RELEASED_RETIRED (R49, Table 8). -/
def rdRetired (page : Nat) (w : ModNum) : M Unit := do
  match (← hub).rdAt page with
  | some (key, r) =>
    match r.state with
    | .owned v => if v = w then transferStart key { r with released := r.released.filter fun x => x != w } w else pure ()
    | _ => pure ()
  | none => pure ()

/-- RD_FORMER_HOLDER_FAULT (R49, Table 8): the leaf of a former holder names the owner's frame. -/
def rdFormer (page : Nat) (h : ModNum) : M Unit := do
  match (← hub).rdAt page with
  | some (_, r) =>
    match r.state with
    | .owned w =>
      match r.of h, r.of w with
      | some (_, cell), some (frame, _) =>
        let l ← readEntry cell
        if h = w || leafV l then pure () else writeEntry cell (pointTo l w frame)
      | _, _ => pure ()
    | _ => pure ()
  | none => pure ()

/-- XLINV at MOD scope by the supervisor, then an ACK to the home: both follow once no access through the page is outstanding; until
then the event waits and comes again (R42, R48, R50). -/
def invalidateThenAck (home : ModNum) (page : Nat) (ptbase va : Word) : M Unit := do
  let s ← get
  let job := jobOf ptbase
  let within := coresIn (.cc 0) 3
  match s.pageUsers within job va.toNat with
  | [] =>
    modify fun s => (s.performThrough within job va.toNat).invalidate within job va.toNat []
    control home page kAck
  | users => modHub fun h => { h with rdWait := some (.pageUse job va.toNat users) }

/-- RD_INV_RECEIVE (R48): the leaf loses V, XLINV is completed at MOD scope, and ACK goes to the home. -/
def rdInv (home : ModNum) (page : Nat) (ptbase va : Word) : M Unit := do
  let s ← get
  match s.walkPage ptbase va.toNat with
  | .leaf l _ pte => writeEntry pte (setBit l 0 false)
  | _ => pure ()
  invalidateThenAck home page ptbase va

/-- RD_SPLIT_RECEIVE (R50): 32 leaves in a new table take the place of a 2 MiB leaf; XLINV is completed, and ACK goes to the
home. -/
def rdSplit (home : ModNum) (page : Nat) (ptbase va : Word) (table : Nat) : M Unit := do
  let s ← get
  match s.walkPage ptbase va.toNat with
  | .leaf l 0x200000 pte =>
    if tableOk table 256 then
      forN 32 fun i => writeEntry (entryCell s.moduleNum.val table i)
        (setBit (setField l 51 26 (leafFrame l + i)) 7 true)
      writeEntry pte (BitVec.ofNat 64 (table + 1))
    else pure ()
  | _ => pure ()
  invalidateThenAck home page ptbase va

/-- REMOTE_STORE_PACKET (R350): A destination hub receives a remote store train, reserving buffer or refusing it. -/
def execRemoteStorePacket (src : ModNum) (op : BitVec 32) (writes : List (Nat × Byte)) (s : State) : Host.Outcome State Fault Refusal :=
  occur (remoteStoreIn src op writes) s

/-- REMOTE_ADD_PACKET (R351): A destination receives a remote add and performs atomic adds at the elements. -/
def execRemoteAddPacket (src : ModNum) (op : BitVec 32) (width : Nat) (adds : List (Nat × Word)) (s : State) : Host.Outcome State Fault Refusal :=
  occur (remoteAddIn src op width adds) s

/-- SIGNAL_PACKET (R332): A destination receives a SIGINC and performs the atomic add, as a release if marked. -/
def execSignalPacket (src : ModNum) (op : BitVec 32) (addr : Nat) (addend : Word) (release : Bool) (s : State) : Host.Outcome State Fault Refusal :=
  occur (signalIn src op addr addend release) s

/-- ACK_PACKET (R350): An acknowledgement or refusal returns to the issuing module for a REM operation. -/
def execAckPacket (ctx : Ctx) (path : Fin 6) (n : BitVec 32) (code : Word) (s : State) : Host.Outcome State Fault Refusal :=
  occur (ackIn ctx path n code) s

/-- REMOTE_READ_PACKET (R43): A module receives a remote read and returns read data. -/
def execRemoteReadPacket (src : ModNum) (addr : Nat) (len : Nat) (s : State) : Host.Outcome State Fault Refusal :=
  occur (remoteReadIn src addr len) s

/-- READ_DATA_PACKET (R43): Read data for a remote access arrives at the requesting module. -/
def execReadDataPacket (src : ModNum) (addr : Nat) (bytes : List Byte) (s : State) : Host.Outcome State Fault Refusal :=
  occur (readDataIn src addr bytes) s

/-- RD_WRITE_FAULT_REPORT (R49): The home receives a write fault on a read-duplicate page and collapses, splits or queues it. -/
def execRdWriteFaultReport (page : Nat) (writer : ModNum) (split : Bool) (s : State) : Host.Outcome State Fault Refusal :=
  occur (rdFault page writer split) s

/-- RD_SPLIT_RECEIVE (R50): A holder replaces its 2 MiB leaf with 32 leaves of 64 KiB, performs XLINV and sends ACK. -/
def execRdSplitReceive (home : ModNum) (page : Nat) (ptbase : Word) (va : Word) (table : Nat) (s : State) : Host.Outcome State Fault Refusal :=
  occur (rdSplit home page ptbase va table) s

/-- RD_INV_RECEIVE (R48): A holder invalidates its leaf, performs XLINV and sends ACK. -/
def execRdInvReceive (home : ModNum) (page : Nat) (ptbase : Word) (va : Word) (s : State) : Host.Outcome State Fault Refusal :=
  occur (rdInv home page ptbase va) s

/-- RD_ACK_RECEIVE (R49): The home counts an ACK; the last one completes a split, collapse or transfer. -/
def execRdAckReceive (page : Nat) (holder : ModNum) (s : State) : Host.Outcome State Fault Refusal :=
  occur (rdAck page holder) s

/-- RD_RELEASED_RETIRED (R49): The owner reports its released write retired, and the home starts a transfer to a queued writer. -/
def execRdReleasedRetired (page : Nat) (writer : ModNum) (s : State) : Host.Outcome State Fault Refusal :=
  occur (rdRetired page writer) s

/-- RD_FORMER_HOLDER_FAULT (R49): A former holder's translation fault is resolved by pointing its leaf at the owner's frame. -/
def execRdFormerHolderFault (page : Nat) (holder : ModNum) (_ptbase : Word) (_va : Word) (s : State) : Host.Outcome State Fault Refusal :=
  occur (rdFormer page holder) s

end Sys2Proof.Machine

end
end

