-- ==== Sys2Proof/Machine/HubEvents.lean ====
section
/-! DEFINITION. Events of the dispatch units and of the hub: launches, the record, time, power, resets, DMA and ports (15 R376-R382; 17 R417-R421; 18 R428-R438). -/

noncomputable section

namespace Sys2Proof.Machine

/-- LAUNCH_ENTER_DISPATCH (R376): the launch enters the queues, or is cancelled where a predecessor failed. -/
def launchEnter (m : ModNum) (n : BitVec 32) : M Unit := do
  enterDispatch m n
  let s ← get
  match s.launch? m n with
  | some l => if s.outcomeNow l = some 3 then retireShare m n else pure ()
  | none => pure ()

/-- QUANTUM_EXPIRY (R381): the dispatch unit looks at its head share again. -/
def quantumM (c : Ctx) : M Unit := do
  let s ← get
  match s.strand? c.val with
  | some t =>
    if t.placedAt.toNat + Config.quantumNs ≤ s.time.toNat then
      dispatchPlace (dieNum c)
      dispatchPreempt (dieNum c)
    else pure ()
  | none => pure ()

/-- The entries not yet sent, oldest first, up to 32 (R419). -/
def Hub.unsent (h : Hub) : List TuffEntry :=
  (List.range (Nat.min 32 (h.tuffSeq - h.tuffSent))).filterMap fun i => mapGet h.tuff ((h.tuffSent + i) % 8192)

/-- TUFF_STREAM_SEND (R419): a DROP entry where entries were overwritten unsent, then one datagram. -/
def streamSend : M Unit := do
  let h ← hub
  if !bitOf h.tuffctl 1 || !h.mgmtUp then pure ()
  else
    if h.tuffLost = 0 ∨ h.frz then pure ()
    else
      let _ ← tuffWrite tDrop 0 0 0 (BitVec.ofNat 64 h.tuffLost)
      modHub fun h => { h with tuffLost := 0 }
    modHub fun h =>
      if h.unsent.isEmpty then h
      else { h with collector := h.collector ++ [(h.tuffSent, h.unsent)], tuffSent := h.tuffSent + h.unsent.length }

/-- The last event of a power supply: everything is lost, but what the collector has received and the flash holds (R417,
R434). -/
def State.dark (s : State) : State := { moduleReset s with powered := false }

/-- The bytes of a die's bank memory zeroed (R435). -/
def zeroBanks (s : State) : State :=
  { s with mem := s.mem.filter fun e => !(cellModule e.1 == s.moduleNum.val && (regionOf (cellAddr e.1)).isBank) }

/-- A stack after a warm reset: its cache is written back and empty, its control logic reset (Table 12). -/
def Stack.warm (k : Stack) : Stack := { Stack.reset with scfg := k.scfg, lost := k.lost, spares := k.spares }

/-- What a warm reset resets (R435, Table 12). -/
def State.warmed (s : State) : State :=
  { zeroBanks s with
    parked := [], strands := [], cores := [], quads := [], dies := [], stackTab := s.stackTab.map fun e => (e.1, e.2.warm)
    hub := { s.hub with
      episodes := [], recvUsed := 0, errors := [], frozen := false, diesReleased := true, rstctl := setBit s.hub.rstctl 1 false } }

/-- Ending every resident launch as an abort would: contexts are freed, and each retires FAILED (R378, R435). -/
def endLaunches : M Unit := do
  modify fun s => (s.ctxsWhere fun _ _ => true).foldl State.release s
  (← hub).launches.forM fun l => retire l 2

/-- WARM_RESET (R435): it waits for FRZ to be cleared, and for the strands of the resident launches to stop, unless their
clocks are stopped already (R420). -/
def warmResetM : M Unit := do
  let s ← get
  if !bitOf s.hub.rstctl 1 || s.hub.frz then pure ()
  else
    let running := s.ctxsWhere fun _ t => t.cond != .stopped || t.busy
    if running.isEmpty || s.hub.frozen then
      endLaunches
      modify State.warmed
    else modify fun s => running.foldl (fun s c => s.askStop c .abort) s

/-- GM_RELEASE_TIMEOUT (R432): one second after GM was set. -/
def gmTimeout : M Unit := do
  let s ← get
  match s.hub.gmSince with
  | some t =>
    if t.toNat + 1000000000 ≤ s.time.toNat then
      modHub fun h => { h with gmSince := none }
      releaseDies
    else pure ()
  | none => pure ()

/-- Whether the estimated offset is within 25 ns (R433). -/
def Hub.near (h : Hub) : Bool :=
  let x := toSigned 32 (fieldOf h.timestat 63 32)
  decide (-25 ≤ x) && decide (x ≤ 25)

/-- LOCK follows the estimate on a module that has received time; its first lock releases the compute dies (R432, R433). -/
def lockFollows : M Unit := do
  let h ← hub
  if bitOf h.timectl 8 || !h.timeKnown then pure ()
  else
    setLock h.near
    if h.near then releaseDies else pure ()

/-- TIME_EVENT_MESSAGE (R432): the estimate changes; TIME steps only where that makes the first lock while the compute dies are
in reset.  Slewing changes how fast TIME passes, which the agenda says (log 3). -/
def timeMessage (offset : BitVec 32) (adjust : Int) : M Unit := do
  if bitOf (← hub).timectl 8 then pure ()
  else
    modHub fun h => { h with timeKnown := true, timestat := setField h.timestat 63 32 offset.toNat }
    let h ← hub
    let stepped := { h with timestat := setField h.timestat 63 32 (offset + BitVec.ofInt 32 adjust).toNat }
    if !h.diesReleased && !bitOf h.timestat 0 && !h.near && stepped.near then
      modify fun s => { s with hub := stepped, time := s.time + BitVec.ofInt 64 adjust }
    else pure ()
    lockFollows

/-- POWER_MODE_CHANGE_END (R434). -/
def powerEnd : M Unit := do
  let h ← hub
  if bitOf h.pwrctl 9 then
    modHub fun h => { h with pwrctl := setBit (setField h.pwrctl 11 10 (fieldOf h.pwrctl 1 0)) 9 false }
    raiseIrq irqCore 4 0
  else pure ()

/-- THERMAL_THROTTLE and THERMAL_UNTHROTTLE (R434): a change of THR. -/
def throttle (on : Bool) : M Unit := do
  if bitOf (← hub).pwrctl 8 = on then pure ()
  else
    modHub fun h => { h with pwrctl := setBit h.pwrctl 8 on }
    raiseIrq irqCore 4 0

/-- Whether a DMA request lies in DRAM or in resident memory (R428). -/
def State.dmaOk (s : State) (addr n : Nat) : Bool :=
  decide (addr + n ≤ 2 ^ 48) && (chunks addr n).all fun a => match regionOf a with
    | .dram _ _ => true
    | .resident k o => decide (o < (s.stack k).act * 0x4000000)
    | _ => false

/-- PCIE_INBOUND_DMA (R428): a write is performed at its point of coherence before its MSI-X is raised; a request outside
completes as Unsupported Request, with no effect here. -/
def inboundDma (port : Fin 2) (addr len : Nat) (write : Option (List Byte)) (msix : Option (BitVec 16)) : M Unit := do
  let s ← get
  match write with
  | some bytes => if s.dmaOk addr bytes.length then writeOutside (bytes.zipIdx.map fun b => (addr + b.2, b.1)) else pure ()
  | none =>
    if s.dmaOk addr len then
      touchAddr addr len
      (cutsAt 256 addr len).forM fun c => mscTouch (s.cellHere c.2.1) c.2.2 0 false false false
    else pure ()
  match msix with
  | some vec => raiseIrq irqCore (Fin.ofNat 8 (port.val + 1)) vec
  | none => pure ()

/-- REGISTER_WRITE (R75, R426): an aligned word stored to system space at a module-local address. -/
def registerStore (addr : Nat) (v : Word) : M Unit := do
  match regionOf addr with
  | .system off => if off % 8 = 0 then sysWrite true off 8 v.toNat 0 else pure ()
  | _ => pure ()

/-- MANAGEMENT_PORT_RECEIVE (R424, R429): a frame that arrives after boot, while the port is up. -/
def mgmtReceive (frame : List Byte) : M Unit := do
  let s ← get
  if s.boot = .running ∧ s.hub.mgmtUp then
    modHub fun h => { h with mgmtFrames := h.mgmtFrames ++ [frame] }
    raiseIrq irqCore 5 0
  else pure ()

/-- LAUNCH_ENTER_DISPATCH (R376): A launch whose predecessors have retired enters its priority queue on each die. -/
def execLaunchEnterDispatch (issuer : ModNum) (launch : BitVec 32) (s : State) : Host.Outcome State Fault Refusal :=
  occur (launchEnter issuer launch) s

/-- DISPATCH_PLACE (R380): The dispatch unit places a head share whole on free contexts. -/
def execDispatchPlace (die : Die) (s : State) : Host.Outcome State Fault Refusal :=
  occur (dispatchPlace die.val) s

/-- DISPATCH_PREEMPT (R381): The dispatch unit pre-empts lower-priority shares to make room for the head share. -/
def execDispatchPreempt (die : Die) (s : State) : Host.Outcome State Fault Refusal :=
  occur (dispatchPreempt die.val) s

/-- QUANTUM_EXPIRY (R381): A strand's 100 µs quantum expires, and the unit re-examines the head share. -/
def execQuantumExpiry (ctx : Ctx) (s : State) : Host.Outcome State Fault Refusal :=
  occur (quantumM ctx) s

/-- LAUNCH_RETIRE (R376): A launch retires with its outcome, as a POD-scope release. -/
def execLaunchRetire (issuer : ModNum) (launch : BitVec 32) (s : State) : Host.Outcome State Fault Refusal :=
  occur (retireShare issuer launch) s

/-- TUFF_STREAM_SEND (R419): The hub sends unsent Tuff entries to the collector in UDP datagrams. -/
def execTuffStreamSend (s : State) : Host.Outcome State Fault Refusal :=
  occur streamSend s

/-- TUFFCTL_FRZ_SET (R420): Writing 1 to FRZ freezes the record as a fatal event. -/
def execTuffctlFrzSet (s : State) : Host.Outcome State Fault Refusal :=
  occur (fatalEvent 0 0 true) s

/-- TUFFCTL_FRZ_CLEAR (R421): Writing 0 to FRZ unfreezes the record and lets a waiting warm reset start. -/
def execTuffctlFrzClear (s : State) : Host.Outcome State Fault Refusal :=
  occur frzClear s

/-- TUFFCTL_STREAM_WRITE (R419): Enables or disables sending entries over the management port. -/
def execTuffctlStreamWrite (on : Bool) (s : State) : Host.Outcome State Fault Refusal :=
  occur (modHub fun h => { h with tuffctl := setBit h.tuffctl 1 on }) s

/-- TUFFPUT_COMMIT (R421): A write to the last TUFFPUT register commits a supervisor entry with a new SEQ and TIME. -/
def execTuffputCommit (w3 : Word) (s : State) : Host.Outcome State Fault Refusal :=
  occur (tuffputCommit w3) s

/-- MEXT_EXTEND (R438): The eighth store to MEXT extends the measurement register. -/
def execMextExtend (w : Word) (s : State) : Host.Outcome State Fault Refusal :=
  occur (mextStore w) s

/-- ATTEST_REQUEST (R438): The hub fills a request with M, the count and a signature by the identity key. -/
def execAttestRequest (va : Word) (s : State) : Host.Outcome State Fault Refusal :=
  occur (attestRequest va) s

/-- MODULE_RESET (R435): Power-on or the reset input resets the whole module and runs the boot ROM. -/
def execModuleReset (s : State) : Host.Outcome State Fault Refusal :=
  occur (modify moduleReset) s

/-- TFTP_IMAGE_RECEIVE (R437): The boot ROM receives an image by TFTP, checks it, and writes and boots it or discards it. -/
def execTftpImageReceive (image : List Byte) (s : State) : Host.Outcome State Fault Refusal :=
  occur (modify (tftpImage image)) s

/-- RSTCTL_WARM_WRITE (R435): Writing 1 to WARM requests a warm reset of the compute dies. -/
def execRstctlWarmWrite (s : State) : Host.Outcome State Fault Refusal :=
  occur warmRequest s

/-- WARM_RESET (R435): Once FRZ is clear, the hub aborts resident launches, writes back the caches and resets the compute dies. -/
def execWarmReset (s : State) : Host.Outcome State Fault Refusal :=
  occur warmResetM s

/-- TIMECTL_GM_WRITE (R432): Marks the module as grandmaster and starts the 1 s release timer. -/
def execTimectlGmWrite (v : Bool) (s : State) : Host.Outcome State Fault Refusal :=
  occur (timectlGm v) s

/-- TIMECTL_REL_WRITE (R432): Writing 1 to REL releases the compute dies at once without a lock. -/
def execTimectlRelWrite (s : State) : Host.Outcome State Fault Refusal :=
  occur timectlRel s

/-- GM_RELEASE_TIMEOUT (R432): One second after GM is set, the grandmaster releases its compute dies. -/
def execGmReleaseTimeout (s : State) : Host.Outcome State Fault Refusal :=
  occur gmTimeout s

/-- TIME_EVENT_MESSAGE (R432): A timestamped time packet updates the module's offset estimate and slews or steps TIME. -/
def execTimeEventMessage (offset : BitVec 32) (adjust : Int) (s : State) : Host.Outcome State Fault Refusal :=
  occur (timeMessage offset adjust) s

/-- TIME_LOCK_CHANGE (R433): LOCK changes with the offset estimate and raises interrupt source 3. -/
def execTimeLockChange (s : State) : Host.Outcome State Fault Refusal :=
  occur lockFollows s

/-- PWRCTL_REQ_WRITE (R434): A write of REQ starts a change of power mode on all dies. -/
def execPwrctlReqWrite (req : Fin 4) (s : State) : Host.Outcome State Fault Refusal :=
  occur (pwrReq req.val) s

/-- POWER_MODE_CHANGE_END (R434): The held clocks restart at the new rate, and interrupt source 4 is raised. -/
def execPowerModeChangeEnd (s : State) : Host.Outcome State Fault Refusal :=
  occur powerEnd s

/-- THERMAL_THROTTLE (R434): A die reaching 100 °C lowers the module to the Efficient rate and sets THR. -/
def execThermalThrottle (s : State) : Host.Outcome State Fault Refusal :=
  occur (throttle true) s

/-- THERMAL_UNTHROTTLE (R434): With every die at or below 95 °C, the mode's rate is restored. -/
def execThermalUnthrottle (s : State) : Host.Outcome State Fault Refusal :=
  occur (throttle false) s

/-- THERMAL_POWER_OFF (R434): At 115 °C the carrier removes power from the module. -/
def execThermalPowerOff (s : State) : Host.Outcome State Fault Refusal :=
  occur (modify State.dark) s

/-- PCIE_INBOUND_DMA (R428): A root port performs an inbound DMA request at its point of coherence or completes it as Unsupported Request. -/
def execPcieInboundDma (port : Fin 2) (addr : Nat) (len : Nat) (write : Option (List Byte)) (msix : Option (BitVec 16)) (s : State) : Host.Outcome State Fault Refusal :=
  occur (inboundDma port addr len write msix) s

/-- REGISTER_WRITE (R426): A write to a system-space register without a row of its own. -/
def execRegisterWrite (addr : Nat) (v : Word) (s : State) : Host.Outcome State Fault Refusal :=
  occur (registerStore addr v) s

/-- POWER_LOSS (R417): The module loses its supply, and everything but the collector's copy of the Tuff record is lost. -/
def execPowerLoss (s : State) : Host.Outcome State Fault Refusal :=
  occur (modify State.dark) s

/-- MANAGEMENT_PORT_LINK_CHANGE (R419): The management port goes down or comes back up, holding or resuming the Tuff stream. -/
def execManagementPortLinkChange (up : Bool) (s : State) : Host.Outcome State Fault Refusal :=
  occur (modHub fun h => { h with mgmtUp := up }) s

/-- MANAGEMENT_PORT_RECEIVE (R424): A frame arrives at the management port after boot and raises interrupt source 5. -/
def execManagementPortReceive (frame : List Byte) (s : State) : Host.Outcome State Fault Refusal :=
  occur (mgmtReceive frame) s

end Sys2Proof.Machine

end
end

