-- ==== Sys2Proof/Machine/System.lean ====
section
/-! DEFINITION. The end of a strand and the system instructions (09 R224, R228-R236; 16 R399-R410). -/

noncomputable section

namespace Sys2Proof.Machine

/-- A context named by a general register (R231, Table 8). -/
def ctxArg (a : GReg) : M Ctx := do
  let v ← gR a
  require (fieldOf v 63 15 == 0) cProtection v
  return Fin.ofNat 32768 (fieldOf v 14 0)

/-- Writing the outcome of a context operation (R231, Table 9). -/
def report (d : GReg) (code : Nat) : M Unit := do
  gW d (BitVec.ofNat 64 code)
  advance

/-- SEXIT (R224). -/
def sexitM : M Unit := do
  let c ← ctx
  let t ← strand
  if !t.ops.isEmpty then sleepOn (.drain 0x3F)
  else
    modify fun s => s.release c
    modLaunch t.launchMod t.launchNum fun l => { l with exited := l.exited + 1 }

/-- TRET (R230, R390, R424). -/
def tretM : M Unit := do
  match (← get).turn with
  | .strand _ => trap cIllegal (wordOf .tret)
  | .cc n =>
    let c := (← get).cc n.val
    if c.handling = 0 then trap cIllegal (wordOf .tret)
    else
      require (fieldOf c.hart.tpc 1 0 == 0) cMisaligned c.hart.tpc
      modCc n.val CcCore.leave

/-- PREEMPT (R232, R400). -/
def preemptM (d a : GReg) : M Unit := do
  let c ← ctxArg a
  match (← get).strand? c.val with
  | none => report d 1
  | some t =>
    if t.cond = .stopped then report d 0
    else
      modify fun s => s.askStop c .preempt
      sleepOn (.others [c])

/-- What a part would answer, with its effect on the machine undone; its traps are taken (R232). -/
def rehearse {α : Type} (m : M α) : M α := do
  let s ← get
  let a ← m
  set s
  return a

/-- CTXSAVE (R232, R401, R402).  ACCDECL and the pages are checked before the strand's operations are brought to an end (R397). -/
def ctxsaveM (d a b : GReg) : M Unit := do
  let c ← ctxArg a
  let va ← gR b
  match (← get).strand? c.val with
  | none => report d 1
  | some t =>
    if t.cond ≠ .stopped then report d 2
    else if t.frame.isSome then report d 3
    else if t.busy then
      if ← rehearse (saveContext c va) then
        modify fun s => s.askStop c .preempt
        sleepOn (.others [c])
      else report d 5
    else if ← saveContext c va then
      modify fun s => s.release c
      report d 0
    else report d 5

/-- CTXLOAD (R232, R404). -/
def ctxloadM (d a b : GReg) : M Unit := do
  let c ← ctxArg a
  let va ← gR b
  let (len, img) ← readLayout va
  let code := (← get).loadCode c img len
  if code = 0 then modify fun s => s.load c img va else pure ()
  report d code

/-- A precisely stopped strand resumes at TPC (R399). -/
def Strand.resume (t : Strand) : Strand :=
  { t with cond := .runnable, stop := none, hart := { t.hart with pc := t.hart.tpc } }

/-- FRESTORE with gb = 0 (R399). -/
def resumeInPlace (c : Ctx) : M Nat := do
  match (← get).strand? c.val with
  | none => return 1
  | some t =>
    if t.cond ≠ .stopped then return 2
    else if t.frame.isSome then return 3
    else
      modify fun s => s.setStrand c.val t.resume
      modCore (coreNum c) Core.l1Flush
      return 0

/-- The code that a frame's header and its target give (R399). -/
def State.frameCode (s : State) (c : Ctx) (hdr : Nat) : Nat :=
  let w := le64 hdr 0
  let c0 := le hdr 24 8
  let job := match s.strand? c0, s.parked.find? fun p => p.ctx.val == c0 with
    | some t, _ => jobOf t.hart.ptbase
    | none, some p => jobOf p.strand.hart.ptbase
    | none, none => 0
  if !(c.val == c0 && (s.strand? c0).isSome) &&
      ((s.strand? c.val).isSome || !s.quadTakes (quadNum c) (BitVec.ofNat 16 job)) then 2
  else if fieldOf w 15 0 != 0x0B04 || fieldOf w 19 16 != s.groupsOf c ||
      fieldOf w 21 20 != fieldOf (s.core (coreNum c)).lgmap 41 40 then 4
  else if bitOf w 24 || le hdr 8 8 != Config.frameLength.toNat || fieldOf w 23 22 != 0 || fieldOf w 63 25 != 0 ||
      decide (32768 ≤ c0) then 5
  else 0

/-- The strand of a frame goes on: the held instructions stand in its queue again (R394, R399). -/
def Strand.fromFrame (t : Strand) (f : Frame) : Strand :=
  { f.head.relengthen t with cond := .runnable, stop := none, frame := none, iq := f.head :: f.rest, cm := f.cm }

/-- Loading a frame into its own context, or into a free one that the strand moves to with its accumulator window (R399). -/
def State.loadFrame (s : State) (c0 c : Ctx) (t : Strand) (f : Frame) : State :=
  if c = c0 then
    let k := s.core (coreNum c)
    (s.setCore (coreNum c) k.l1Flush).setStrand c.val (t.fromFrame f)
  else
    let (old, size) := accWindow t.accwin
    let t' := { t.fromFrame f with accwin := accwinOf c.val (fieldOf t.accwin 46 32) }
    let (new, _) := accWindow t'.accwin
    let img := (s.core (coreNum c0)).acc.read old size
    let s := (s.release c0).bind c.val t'
    let k := s.core (coreNum c)
    s.setCore (coreNum c) { k with acc := k.acc.write new size img }

/-- Loading the frame of a strand whose context has been freed into a free context (R399, R410). -/
def State.unpark (s : State) (c : Ctx) (p : ParkedFrame) (f : Frame) : State :=
  let t' := { p.strand.fromFrame f with accwin := accwinOf c.val (fieldOf p.strand.accwin 46 32) }
  let (new, size) := accWindow t'.accwin
  let s := { s with parked := s.parked.erase p }.bind c.val t'
  let k := s.core (coreNum c)
  s.setCore (coreNum c) { k with acc := k.acc.write new size p.acc }

/-- The strand of a frame that is parked, if it is. -/
def State.parkedAt (s : State) (key : FrameKey) : Option (ParkedFrame × Frame) :=
  s.parked.findSome? fun p => match p.strand.frame with
    | some f => if f.serial = key.serial then some (p, f) else none
    | none => none

/-- The second load of a frame: its strand's registers hold free values (R399). -/
def Strand.scramble (t : Strand) (k : Nat) : Strand :=
  let x := fun (i : Nat) => Config.reloadedFrame (k * 128 + i)
  { t with
    hart := { t.hart with g := Vector.ofFn fun i => if i.val = 0 then 0 else (x i.val).truncate 64, pc := (x 32).truncate 64 <<< 2 }
    v := Vector.ofFn fun i => (x (33 + i.val)).truncate 16384
    m := Vector.ofFn fun i => x (65 + i.val)
    fm := x 81 }

/-- The context and the frame that a place in memory holds: the frame with the number that was written there, or, at a copy of a
frame, that of the context it names (log 79). -/
def State.frameAt (s : State) (key : Option FrameKey) (c0 : Nat) : Option (Nat × Strand × Frame) :=
  match key with
  | some k => s.strands.findSome? fun e => match e.2.frame with
    | some f => if f.serial = k.serial then some (e.1, e.2, f) else none
    | none => none
  | none => match s.strand? c0 with
    | some t => t.frame.map fun f => (c0, t, f)
    | none => none

/-- The second load of a frame has an undefined effect on its strand, wherever that is bound, and on no other (R399). -/
def reloadFrame (key : FrameKey) : M Unit := do
  let k ← freshNum
  modify fun s => { s with strands := s.strands.map fun e =>
    if (e.2.launchMod, e.2.launchNum) = key.launch ∧ e.2.rank = key.rank then (e.1, e.2.scramble k) else e }

/-- FRESTORE of a frame (R399). -/
def frestoreFrame (c : Ctx) (va : Word) : M Nat := do
  let hdr ← loadBytes va 32
  let p ← translate .load va
  let s ← get
  let code := s.frameCode c hdr
  if code ≠ 0 then return code
  else
    let key := mapGet s.frames (p.cell va.toNat)
    match s.frameAt key (le hdr 24 8), key with
    | some (c0, t, f), _ =>
      set (s.loadFrame (Fin.ofNat 32768 c0) c t f)
      return 0
    | none, some k =>
      match s.parkedAt k with
      | some (p, f) => set (s.unpark c p f)
      | none => reloadFrame k
      return 0
    | none, none => return 5

/-- FRESTORE (R232, R399). -/
def frestoreM (d a b : GReg) : M Unit := do
  let c ← ctxArg a
  let va ← gR b
  let code ← if va = 0 then resumeInPlace c else frestoreFrame c va
  report d code

/-- XLINV (R234). -/
def xlinvM (a b : GReg) (scope : Fin 8) : M Unit := do
  let va ← gR a
  let j ← gR b
  require (fieldOf j 63 16 == 0) cProtection j
  xlinvPage scope.val j.toNat va.toNat []
  advance

/-- IDLE (R235): the program counter stands at the next word while the issuer sleeps. -/
def idleM : M Unit := do
  advance
  match (← get).turn with
  | .strand _ => if (← strand).pending.isEmpty then sleepOn .idle else pure ()
  | .cc _ => sleepOn .idle

/-- SETPRI (R233, R382). -/
def setpriM (d a b : GReg) : M Unit := do
  let n := BitVec.ofNat 32 (← gR a).toNat
  let p ← gR b
  require (fieldOf p 63 3 == 0) cProtection p
  let s ← get
  let prio : Fin 8 := Fin.ofNat 8 p.toNat
  match s.launch? s.moduleNum n with
  | some _ =>
    modLaunch s.moduleNum n fun l => { l with prio := prio }
    forN 16 fun k => modShare k s.moduleNum n fun sh => { sh with prio := prio }
    report d 0
  | none => report d 1

/-- The strands of a core whose partition changes with LGMAP (R409). -/
def State.splitBy (s : State) (core : Nat) (new : Word) : List Ctx :=
  let old := (s.core core).lgmap
  s.ctxsWhere fun c _ => coreNum c == core && partitionOf old c.val != partitionOf new c.val

/-- A strand that a retirement stopped resumes at its resume point (R405, R409). -/
def Strand.afterRetire (t : Strand) (r : Word) : Strand :=
  let h := t.hart
  { t with
    cond := .runnable, stop := none
    hart := { h with pc := r, lact := h.lact && decide (h.lbeg.toNat ≤ r.toNat) && decide (r.toNat ≤ h.lend.toNat) }
    ract := t.ract && decide (t.rbeg.toNat ≤ r.toNat) && decide (r.toNat < t.rend.toNat), rbody := []
    blkpt := if r = h.tpc then t.blkpt else none }

/-- A strand that cannot be carried to the new width is saved, its context freed, and the supervisor told (R410, log 31). -/
def saveRetired (c : Ctx) (lost : Bool) : M Unit := do
  let before ← get
  modStrandAt c.val fun t =>
    { t with hart := { t.hart with
      tcause := tcauseOf { cause := cShape, tval := 0 } false t.hart.upc (t.inReplay t.hart.tpc) (t.blkpt.isSome && !t.hart.upc) lost, tval := 0xFFFFFFFFFFFFFFFF } }
  let t ← strandAt c.val
  let ok ← asAgent (.strand c) (do
    if ← saveContext c (t.saveArea + 0x1000) then pure () else throw (.refuse .noAgent))
  if ok then
    modify fun s => s.release c
    modDie (dieNum c) fun d => { d with notices := d.notices ++ [t.notice c true] }
  else
    match before.strand? c.val with
    | some u => set (before.setStrand c.val { u with stop := none })
    | none => set before

/-- A strand whose fault frame holds it leaves a core that goes out of service: the frame, which holds all that a restore needs, stays,
its context is freed, and the supervisor told (R398, R410, log 51). -/
def parkFrame (c : Ctx) (lost : Bool) : M Unit := do
  let s ← get
  let t ← strandAt c.val
  let (base, size) := accWindow t.accwin
  let img := (s.core (coreNum c)).acc.read base size
  let h : Hart := { t.hart with tcause := tcauseOf { cause := cShape, tval := 0 } false t.hart.upc false false lost, tval := 0xFFFFFFFFFFFFFFFF }
  let u : State := s.release c
  let p : ParkedFrame := { ctx := c, strand := t, acc := img }
  set { u with parked := u.parked ++ [p] }
  let note := Strand.notice { t with hart := h } c true
  modDie (dieNum c) fun d => { d with notices := d.notices ++ [note] }

/-- The retirement of a lane group whose strands have stopped: those with no resume point are saved, LGMAP changes, the others
resume (R409, R410).  `bad` is the strand of whose lane state a fault has destroyed an element. -/
def finishRetire (core : Nat) (new : Word) (bad : Option Ctx) : M Unit := do
  let s ← get
  let stopped := (s.splitBy core new).filter fun c => (s.strand? c.val).any fun t => t.stop == some .retire
  stopped.forM fun c => do
    let t ← strandAt c.val
    if ((← get).resumeFor t t.hart.tpc).isNone then saveRetired c (bad == some c) else pure ()
  setLgmap core new true
  stopped.forM fun c => do
    let s ← get
    match s.strand? c.val with
    | some t =>
      match s.resumeFor t t.hart.tpc, t.stop with
      | some r, some .retire => modify fun s => s.setStrand c.val (t.afterRetire r)
      | _, _ => pure ()
    | none => pure ()

/-- The strands, but one, that have to stop before a retirement (R409). -/
def State.stopFor (s : State) (core : Nat) (new : Word) (me : Option Ctx) : List Ctx :=
  (s.splitBy core new).filter fun c => some c != me && (s.strand? c.val).any fun t =>
    t.pendingWork && t.stop.isSome || (t.cond != .stopped && t.stop.isNone)

/-- Asking for those stops. -/
def State.askRetire (s : State) (cs : List Ctx) : State :=
  cs.foldl (fun s c => if (s.strand? c.val).any fun t => t.stop.isNone then s.askStop c .retire else s) s

/-- LGRETIRE (R236, R409, R410). -/
def lgretireM (d a b : GReg) : M Unit := do
  let c ← ctxArg a
  let g ← gR b
  require (fieldOf g 63 3 == 0) cProtection g
  let s ← get
  let core := coreNum c
  let old := (s.core core).lgmap
  if !bitOf old (32 + g.toNat) then report d 1
  else if (liveGroups old).length = 1 then report d 6
  else
    let new := setBit old (32 + g.toNat) false
    let me := match s.turn with
      | .strand m => if (s.splitBy core new).contains m then some m else none
      | .cc _ => none
    let others := s.stopFor core new me
    if !others.isEmpty then
      modify fun s => s.askRetire others
      sleepOn (.others others)
    else
      if me.isNone then
        finishRetire core new none
        report d 0
      else if !(← strand).ops.isEmpty then
        modStrand Strand.endStreams
        sleepOn (.drain 0x3F)
      else
        report d 0
        modStrand fun t => { t with stop := some .retire }.finishStop
        finishRetire core new none

/-- SEXIT (R224): Ends the strand once its execute side and its path operations have completed, then frees the context. -/
def execSexit (s : State) : Host.Outcome State Fault Refusal :=
  perform (.sexit) sexitM s

/-- TRET (R230): Returns from a trap handler to TPC, restoring privilege, interrupt and loop state. -/
def execTret (s : State) : Host.Outcome State Fault Refusal :=
  perform (.tret) tretM s

/-- LAUNCH (R233): Reads a launch descriptor and accepts or refuses a new launch. -/
def execLaunch (d : GReg) (a : GReg) (s : State) : Host.Outcome State Fault Refusal :=
  perform (.launch d a) (launchM d a) s

/-- LAUNCH_ABORT (R378): A descriptor with OP = 1 stops every strand of the target launch and retires it FAILED. -/
def execLaunchAbort (d : GReg) (a : GReg) (s : State) : Host.Outcome State Fault Refusal :=
  perform (.launchAbort d a) (launchM d a) s

/-- PREEMPT (R400): Stops a strand precisely and waits until it has stopped. -/
def execPreempt (d : GReg) (a : GReg) (s : State) : Host.Outcome State Fault Refusal :=
  perform (.preempt d a) (preemptM d a) s

/-- CTXSAVE (R232): Writes the portable save layout of a stopped strand and frees its context. -/
def execCtxsave (d : GReg) (a : GReg) (b : GReg) (s : State) : Host.Outcome State Fault Refusal :=
  perform (.ctxsave d a b) (ctxsaveM d a b) s

/-- CTXLOAD (R404): Loads a portable layout into a free context, regranting, and makes the strand runnable at RESUME. -/
def execCtxload (d : GReg) (a : GReg) (b : GReg) (s : State) : Host.Outcome State Fault Refusal :=
  perform (.ctxload d a b) (ctxloadM d a b) s

/-- FRESTORE (R399): Resumes a stopped strand in place, or from a fault frame. -/
def execFrestore (d : GReg) (a : GReg) (b : GReg) (s : State) : Host.Outcome State Fault Refusal :=
  perform (.frestore d a b) (frestoreM d a b) s

/-- XLINV (R234): Invalidates a page's translation-cache entries and L1 lines within a scope, and waits for completion. -/
def execXlinv (a : GReg) (b : GReg) (r0 : Fin 8) (s : State) : Host.Outcome State Fault Refusal :=
  perform (.xlinv a b r0) (xlinvM a b r0) s

/-- IDLE (R235): Puts the issuer to sleep until an interrupt, an upcall or a pre-emption. -/
def execIdle (s : State) : Host.Outcome State Fault Refusal :=
  perform (.idle) idleM s

/-- SETPRI (R233): Sets the priority of a launch that the issuing module issued. -/
def execSetpri (d : GReg) (a : GReg) (b : GReg) (s : State) : Host.Outcome State Fault Refusal :=
  perform (.setpri d a b) (setpriM d a b) s

/-- LGRETIRE (R236): Retires a lane group of a core and re-forms its partitions. -/
def execLgretire (d : GReg) (a : GReg) (b : GReg) (s : State) : Host.Outcome State Fault Refusal :=
  perform (.lgretire d a b) (lgretireM d a b) s

end Sys2Proof.Machine

end
end

