-- ==== Sys2Proof/Machine/Errors.lean ====
section
/-! DEFINITION. Errors and their consequences: the retry rule, lost units, retirement, sparing and links (17 R411-R416, R420; 16 R409, R410). -/

noncomputable section

namespace Sys2Proof.Machine

/-- Structures of Table 1 by STRUCT: registers, whose entries carry no address. -/
def structRegister (k : Nat) : Bool := k == 1 || k == 2

/-- Links, by STRUCT. -/
def structLink (k : Nat) : Bool := decide (0x0A ≤ k) && decide (k ≤ 0x0D)

/-- Parts of the place of an event (Table 3): die or stack, core of the module, lane group. -/
def ErrorEvent.die (e : ErrorEvent) : Nat := e.place.toNat % 16
def ErrorEvent.core (e : ErrorEvent) : Nat := e.place.toNat % 16 * 256 + e.place.toNat / 16 % 256
def ErrorEvent.group (e : ErrorEvent) : Nat := e.place.toNat / 4096 % 8

/-- The payload of its TRANSIENT or LASTING entry (Table 4): a pod-global address, an offset in a store, or 0. -/
def ErrorEvent.payload (e : ErrorEvent) (me : Nat) : Word :=
  let k := e.struct.toNat
  if structRegister k || structLink k then 0
  else if k = 5 ∨ k = 6 then BitVec.ofNat 64 e.addr
  else BitVec.ofNat 64 (me * 2 ^ 48 + e.addr % 2 ^ 48)

/-- UNCORRECTABLE_ERROR (R411, R412): the retry begins; a line of the L1 is dropped for it. -/
def errorBegin (e : ErrorEvent) : M Unit := do
  if e.struct = 0 ∨ 0x0F < e.struct.toNat then pure ()
  else
    let s ← get
    if e.struct = 3 then modCore e.core fun c => c.l1Drop (s.cellHere e.addr / 64 * 64) 64 else pure ()
    modHub fun h => { h with errors := h.errors ++ [e] }

/-- A lasting error reaches its consumer (R412): the instruction of a strand that uses the data, on the access side or, by the element,
on the execute side, takes the data-error trap when it comes to it. -/
def consumerTrap (c : Ctx) (elem : BitVec 16) (struct seq : Nat) (lost : Bool) : M Unit := do
  match (← get).strand? c.val with
  | some t =>
    if t.cond = .stopped then pure ()
    else modStrandAt c fun t => { t with dataErr := some { elem := elem, struct := struct, seq := seq, lost := lost } }
  | none => pure ()

/-- The trap of the consumer of an event, if it has one. -/
def consumerOf (e : ErrorEvent) (seq : Nat) (lost : Bool) : M Unit :=
  match e.ctx with
  | some c => consumerTrap c e.elem e.struct.toNat seq lost
  | none => pure ()

/-- The strands of a core that have to stop before it leaves service (R410). -/
def State.boundOn (s : State) (core : Nat) : List Ctx := s.ctxsWhere fun c _ => coreNum c == core

/-- A core leaves service (R410, R413): its strands stop and are saved, and the dispatch unit places nothing on it.  `bad` is the
strand of whose state the fault has destroyed an element.  Answers whether the core has left. -/
def coreLeaves (core : Nat) (bad : Option Ctx) : M Bool := do
  let s ← get
  let cs := s.boundOn core
  let running := cs.filter fun c => (s.strand? c.val).any fun t =>
    t.pendingWork && t.stop.isSome || (t.cond != .stopped && t.stop.isNone)
  if !running.isEmpty then
    modify fun s => s.askRetire running
    return false
  else
    cs.forM fun c => do
      match (← get).strand? c.val with
      | some t =>
        let lost := bitOf t.hart.tcause 15 || bad == some c
        if t.frame.isSome then parkFrame c lost else saveRetired c lost
      | none => pure ()
    modCore core fun k => { k with dead := true }
    return true

/-- Whether a lane group is the last live one of its core. -/
def State.lastGroup (s : State) (core g : Nat) : Bool := liveGroups (s.core core).lgmap == [g]

/-- The retirement of the lane group of an event after a lasting fault (R409, R415): once its strands have stopped, LGMAP changes, the
LGRET entry is written, and they resume.  Answers whether it is done. -/
def groupRetires (e : ErrorEvent) : M Bool := do
  let s ← get
  let old := (s.core e.core).lgmap
  if !bitOf old (32 + e.group) then return true
  else if s.lastGroup e.core e.group then coreLeaves e.core e.ctx
  else
    let new := setBit old (32 + e.group) false
    let others := s.stopFor e.core new none
    if !others.isEmpty then
      modify fun s => s.askRetire others
      return false
    else
      finishRetire e.core new e.ctx
      let _ ← tuffWrite tLgRet 2 1 e.place.toNat 0
      return true

/-- A LOSTUNIT entry (Table 4): its SEQ. -/
def lostEntry (e : ErrorEvent) (addr : Nat) : M Nat :=
  tuffWrite tLostUnit 2 e.struct.toNat e.place.toNat (BitVec.ofNat 64 addr)

/-- The row of a lasting DRAM event is copied to a spare of its bank; without one its frame is named (R415, Table 4). -/
def spareRow (e : ErrorEvent) (stack line : Nat) : M Unit := do
  let row := rowOf line
  let used := (((← get).stack stack).spares.filter fun x => x.1 % 4096 == row % 4096).length
  if used < 32 then
    modStack stack fun k => { k with spares := k.spares ++ [(row, used)] }
    let _ ← tuffWrite tSpare 2 9 e.place.toNat (BitVec.ofNat 64 (rowPayload row + used * 2 ^ 27))
  else
    let _ ← tuffWrite tFrameFail 2 9 e.place.toNat (BitVec.ofNat 64 (e.addr % 2 ^ 48 / 65536 * 65536))

/-- The failing line of a stack becomes lost (R413, R415); a full table is fatal.  Answers whether the machine goes on. -/
def lineLost (e : ErrorEvent) (unit : Nat) : M Bool := do
  let s ← get
  let cell := s.cellHere e.addr / unit * unit
  match regionOf (cellAddr cell) with
  | .dram k off =>
    let st := s.stack k
    let known := st.lost.any fun u => u.1 == cell
    let full := unit == 256 && decide (256 ≤ (st.lost.filter fun u => u.2.1 != 0x0E).length)
    if known || full then pure ()
    else
      let seq ← lostEntry e (cellAddr cell)
      modStack k fun x => { x with lost := x.lost ++ [(cell, e.struct.toNat, seq)] }
    if e.struct = 9 then spareRow e k (off / 256) else pure ()
    if full && !known then
      fatalEvent e.struct.toNat 1 false
      return false
    else return true
  | .resident k _ =>
    let st := s.stack k
    if st.lost.any fun u => u.1 == cell then return true
    else if 256 ≤ st.lost.length then
      fatalEvent e.struct.toNat 1 false
      return false
    else
      let seq ← lostEntry e (cellAddr cell)
      modStack k fun x => { x with lost := x.lost ++ [(cell, e.struct.toNat, seq)] }
      return true
  | _ => return true

/-- A failing unit of bank memory becomes lost (R413); a full table is fatal. -/
def bankLost (e : ErrorEvent) : M Bool := do
  let s ← get
  let cell := s.cellHere e.addr / 8 * 8
  match regionOf (cellAddr cell) with
  | .bank d _ =>
    if (s.die d).lost.any fun u => u.1 == cell then return true
    else if 64 ≤ (s.die d).lost.length then
      fatalEvent 7 1 false
      return false
    else
      let seq ← lostEntry e (cellAddr cell)
      modDie d fun x => { x with lost := x.lost ++ [(cell, 7, seq)] }
      return true
  | _ => return true

/-- A failing unit of a tile or accumulator store becomes lost (R413); answers whether the core stays in service. -/
def storeLost (e : ErrorEvent) : M Bool := do
  let s ← get
  let off := e.addr / 8 * 8
  let k := s.core e.core
  if k.lost.any fun u => u.1 == off && u.2.1 == e.struct.toNat then return true
  else if 16 ≤ k.lost.length then return false
  else
    let seq ← lostEntry e off
    modCore e.core fun x => { x with lost := x.lost ++ [(off, e.struct.toNat, seq)] }
    return true

/-- A control complex core takes the data-error trap of its cache (R412, R424). -/
def ccConsumer (e : ErrorEvent) (seq : Nat) : M Unit := do
  let n := e.place.toNat / 16 % 32
  modify fun s => takeCcTrap n { cause := cDataError, tval := s.reportWord (.cc (Fin.ofNat 32 n)) .access 0x0E seq false } s

/-- What waits for strands to stop stays at the head of the events until they have. -/
def keepWaiting (e : ErrorEvent) (seq : Nat) (done : Bool) : M Unit :=
  if done then pure () else modHub fun h => { h with errors := { e with seq := some seq } :: h.errors }

/-- A lasting event, by structure (R412-R416, R420). -/
def lasting (e : ErrorEvent) : M Unit := do
  let s ← get
  let k := e.struct.toNat
  let seq ← tuffWrite tLasting 2 k e.place.toNat (e.payload s.moduleNum.val)
  if k = 1 then
    consumerOf e seq true
    keepWaiting e seq (← groupRetires e)
  else if k = 2 then consumerOf { e with elem := 0xFFFF } seq true
  else if k = 5 ∨ k = 6 then
    let stays ← storeLost e
    consumerOf e seq false
    if stays then pure () else keepWaiting e seq (← coreLeaves e.core e.ctx)
  else if k = 7 then if ← bankLost e then consumerOf e seq false else pure ()
  else if k = 8 ∨ k = 9 then if ← lineLost e 256 then consumerOf e seq false else pure ()
  else if k = 0x0E then
    let _ ← lineLost e 64
    ccConsumer e seq
  else if k = 0x0F then fatalEvent k 2 false
  else if structLink k then pure ()
  else consumerOf e seq false

/-- What follows from a lasting event once the strands have stopped (R409, R410). -/
def lastingResume (e : ErrorEvent) (seq : Nat) : M Unit := do
  if e.struct = 1 then keepWaiting e seq (← groupRetires e)
  else keepWaiting e seq (← coreLeaves e.core e.ctx)

/-- ERROR_RETRY_RESULT (R412): the oldest event is transient or lasting. -/
def retryResult (ok : Bool) : M Unit := do
  let s ← get
  match s.hub.errors with
  | e :: r =>
    modHub fun h => { h with errors := r }
    match e.seq with
    | some seq => lastingResume e seq
    | none =>
      if ok then tuffTransient e.struct.toNat e.place.toNat (e.payload s.moduleNum.val) else lasting e
  | [] => pure ()

/-- STRUCT of a link or port (R10, R411, R430): numbers 0 to 23 are the scale-out ports; the spec numbers no other link, and the model
lets the 32 links of the in-package torus, the 16 hops of the base-die ring and the 16 hub links follow (log 51). -/
def portStruct (p : Nat) : Nat :=
  if p < 24 then 0x0D else if p < 56 then 0x0A else if p < 72 then 0x0B else if p < 88 then 0x0C else 0x0A

/-- LINK_CRC_RESEND (R411, R412): the flit was sent again; the event is transient. -/
def crcResend (p : Nat) : M Unit := tuffTransient (portStruct p) p 0

/-- The REM operations that a lost direction cuts off end (R416). -/
def endCutOff : M Unit := do
  let s ← get
  s.strands.forM fun e => e.2.ops.forM fun o =>
    if o.complete then pure ()
    else
      match o.work.modules.findSome? s.cutOff with
      | some seq => linkFails (Fin.ofNat 32768 e.1) o seq
      | none => pure ()

/-- LINK_RETRAIN (R416): one lane fewer; a scale-out port that cannot is disabled, an in-package link that cannot is fatal. -/
def retrain (p : Nat) (ok : Bool) : M Unit := do
  let h ← hub
  let out := mapGetD h.links p 0
  if 256 ≤ out then pure ()
  else if ok then
    modHub fun h => { h with links := mapSet h.links p (out + 1) }
    let _ ← tuffWrite tLink 2 (portStruct p) p (BitVec.ofNat 64 (p + (Config.linkLanes p - (out + 1)) % 256 * 256))
  else
    let seq ← tuffWrite tLasting 2 (portStruct p) p 0
    if p < 24 then
      modHub fun h => { h with links := mapSet h.links p (256 + seq) }
      let _ ← tuffWrite tLink 2 (portStruct p) p (BitVec.ofNat 64 p)
      endCutOff
    else fatalEvent (portStruct p) 3 false

/-- UNCORRECTABLE_ERROR (R412): An uncorrectable error is detected and retried once by the structure's action. -/
def execUncorrectableError (struct : BitVec 8) (place : BitVec 32) (addr : Nat) (ctx : Option Ctx) (elem : BitVec 16) (s : State) : Host.Outcome State Fault Refusal :=
  occur (errorBegin { struct := struct, place := place, addr := addr, ctx := ctx, elem := elem, seq := none }) s

/-- ERROR_RETRY_RESULT (R412): The retry completes; the event is logged transient or becomes lasting. -/
def execErrorRetryResult (ok : Bool) (s : State) : Host.Outcome State Fault Refusal :=
  occur (retryResult ok) s

/-- LINK_CRC_RESEND (R411): A flit with a CRC error is resent from the link's replay buffer. -/
def execLinkCrcResend (port : BitVec 8) (s : State) : Host.Outcome State Fault Refusal :=
  occur (crcResend port.toNat) s

/-- LINK_RETRAIN (R416): A link retrains with one fewer lane, or is disabled, and resends the flit. -/
def execLinkRetrain (port : BitVec 8) (ok : Bool) (s : State) : Host.Outcome State Fault Refusal :=
  occur (retrain port.toNat ok) s

end Sys2Proof.Machine

end
end

