-- ==== Sys2Proof/Machine/Fibre.lean ====
section
/-! DEFINITION. Fibre instructions (11 R275-R298). -/

noncomputable section

namespace Sys2Proof.Machine

/-- An entry of a fibre: coordinate and value. -/
abbrev FEntry := BitVec 32 × Word

/-- The order class of coordinates (Table 1 of 11). -/
def ordOf (cs : List (BitVec 32)) : Fin 4 :=
  let ps := cs.zip (cs.drop 1)
  if ps.all fun p => decide (p.1.toNat < p.2.toNat) then 2
  else if ps.all fun p => decide (p.1.toNat ≤ p.2.toNat) then 1
  else 0

/-- A fibre of entries under an element type (R276). -/
def fibreOf (et : Nat) (es : List FEntry) : Fibre := { fet := Fin.ofNat 32 et, ord := ordOf (es.map (·.1)), entries := es }

/-- Capacity of a fibre register (R275). -/
def VView.fibreCap (v : VView) : Nat := 64 * v.groups

/-- The checks at issue: a fibre type, the vector operand, and no MFMT for the memory forms (R278, R280). -/
def fibPre (i : Instr) (accept : Nat → Bool) (memory rounds : Bool) (vec : VView → List Span) : M VView := do
  let v ← view
  requireState i (accept v.et && (!memory || v.mfmt == 0) && (vec v).all Span.ok)
  checkRounding i v (rounds && classF v.et)
  return v

/-- The check of value types that the execute side makes: a source that is not empty has the element type (R278, R392). -/
def fibTypes (i : Instr) (v : VView) (fs : List FReg) : M Unit := do
  let t ← strand
  if fs.all fun f => t.f[f].entries.isEmpty || t.f[f].fet.val == v.et then pure ()
  else throw (.trap { cause := cIllegal, tval := wordOf i, held := true })

/-- Writing a fibre register. -/
def putFibre (d : FReg) (v : VView) (es : List FEntry) : M Unit :=
  modStrand fun t => { t with f := t.f.set d.val (fibreOf v.et es) }

/-- The shape trap unless a source has an order that the instruction takes (R287, R289). -/
def needOrder (ok : Fin 4 → Bool) (fs : List FReg) : M Unit := do
  let t ← strand
  match fs.find? fun f => !ok t.f[f].ord with
  | some f => trap cShape (BitVec.ofNat 64 f.val)
  | none => pure ()

/-- A unit of a fibre access: entry j; `sub` tells coordinates (0) from values (1). -/
def fibUnit (j : Nat) (va : Word) (len sub : Nat) : MUnit := { lo := j, cnt := 1, va := va, len := len, align := len, sub := sub }

/-- The address of entry j of an array of n-byte items. -/
def itemVa (base : Word) (j n : Nat) : Word := base + BitVec.ofNat 64 (j * n)

/-- Coordinate and value units of n entries, the first at position `k` of each array. -/
def entryUnits (c w : Word) (e k n : Nat) (values : Bool) : List MUnit :=
  (List.range n).flatMap fun j =>
    fibUnit j (itemVa c (k + j) 4) 4 0 :: (if values then [fibUnit j (itemVa w (k + j) e) e 1] else [])

/-- Reading the units of a fibre load: coordinates and positions by the coordinate partition, values under BYPT (R282). -/
def readEntries (us : List MUnit) (footprint : Nat) (fu : FrameUse) : M (List (MUnit × Nat)) := do
  let use := bypUse (← strand) footprint
  let p ← enumPiece { acc := .load } us
  p.good.mapM fun (u, ps) => do
    let x ← readParts ps u.va.toNat (if u.sub = 0 then .fills .coord true else use) false fu (.entry u.lo)
    return (u, x)

/-- The entries that were read; a value that no array holds is given by `dflt`. -/
def entriesOf (n : Nat) (l : List (MUnit × Nat)) (dflt : Nat → Nat) : List FEntry :=
  (List.range n).map fun j =>
    let item := fun (s : Nat) => (l.find? fun x => x.1.lo == j && x.1.sub == s).map (·.2)
    (BitVec.ofNat 32 ((item 0).getD 0), BitVec.ofNat 64 ((item 1).getD (dflt j)))

/-- FLD (R281). -/
def fldM (i : Instr) (d : FReg) (r0 : GReg) : M Unit := do
  let v ← fibPre i classFI true false (fun _ => [])
  let c ← gR r0
  let w ← gR (Fin.ofNat 32 (r0.val + 1))
  require (decide (v.n ≤ v.fibreCap)) cShape (BitVec.ofNat 64 v.n)
  let l ← readEntries (entryUnits c w (v.w / 8) 0 v.n true) (v.n * (v.w / 8)) .ordinary
  putFibre d v (entriesOf v.n l fun _ => 0)
  advance

/-- An action that has no effect where it traps (R298). -/
def whole (m : M Unit) : M Unit := do
  let before ← get
  match ← caught m with
  | .ok _ => pure ()
  | .error (.trap t) =>
    set before
    throw (.trap t)
  | .error e => throw e

/-- FST (R281): a data error leaves memory as it was (R298). -/
def fstM (i : Instr) (a : FReg) (r0 : GReg) : M Unit := do
  let v ← fibPre i classFI true false (fun _ => [])
  fibTypes i v [a]
  let c ← gR r0
  let w ← gR (Fin.ofNat 32 (r0.val + 1))
  let es := (← strand).f[a].entries
  let p ← enumPiece { acc := .store } (entryUnits c w (v.w / 8) 0 es.length true)
  whole do p.good.forM fun (u, ps) => do
    let x := es.getD u.lo (0, 0)
    writeParts ps u.va.toNat (if u.sub = 0 then x.1.toNat else x.2.toNat % 2 ^ v.w) .ordinary (.entry u.lo)
  advance

/-- FLDLV (R283): positions first, then up to CAP children. -/
def fldlvM (i : Instr) (d : FReg) (r0 : GReg) : M Unit := do
  let v ← fibPre i classFI true false (fun _ => [])
  let reg := fun (k : Nat) => gR (Fin.ofNat 32 (r0.val + k))
  let c ← reg 1
  let w ← reg 2
  let a := (← reg 0) + BitVec.ofNat 64 (4 * fieldOf (← reg 3) 31 0)
  let ps ← readEntries [fibUnit 0 a 4 0, fibUnit 1 (a + 4) 4 0] 0 .gather
  let lo := (ps.map (·.2)).getD 0 0
  let hi := (ps.map (·.2)).getD 1 0
  require (decide (lo ≤ hi)) cShape a
  require (w != 0 || v.et == 0x0A || v.et == 0x0B || v.et == 0x0E || v.et == 0x0F) cShape 0
  let t ← strand
  let mine := t.stoppedAt 5
  let k := if mine then Nat.min (fieldOf t.vprog 31 0) (hi - lo) else 0
  let cnt := Nat.min (hi - lo - k) v.fibreCap
  let l ← readEntries (entryUnits c w (v.w / 8) (lo + k) cnt (w != 0)) (cnt * (v.w / 8)) .gather
  putFibre d v (entriesOf cnt l fun j => (lo + k + j) % 2 ^ v.w)
  if lo + k + cnt < hi then modStrand fun t => { t with vprog := vprogWord true 5 (k + cnt) ((k + cnt) / 65536) }
  else if mine then modStrand fun t => { t with vprog := 0 }
  else pure ()
  advance

/-- The pieces of an FSCAT (R282): the results of the entries done, and the stop with its resume entry. -/
def fscatPieces (v : VView) (es : List FEntry) (cm : Nat) : Nat → List MUnit → Bool → M (List (MUnit × Res) × Option (Stop × Option Nat))
  | 0, _, _ => return ([], none)
  | fuel + 1, us, first => do
    let at' := if first then none else us.head?.map (·.lo)
    match ← caught (enumPiece { acc := .rw, stored := true } us) with
    | .error e => return ([], some (e, at'))
    | .ok p =>
      let add := fun (u : MUnit) (ps : Parts) => do
        let x ← readParts ps u.va.toNat .bypass false .gather (.entry u.lo)
        let r := elemAdd v.ty (v.mode u.lo) x ((es.getD u.lo (0, 0)).2.toNat % 2 ^ v.w)
        writeParts ps u.va.toNat r.bits .gather (.entry u.lo)
        return r
      let (l, e) ← overUnits add (p.good.filter fun x => !cmBit cm x.1.lo)
      match e with
      | some e => return (l, some (e, at'))
      | none =>
        if p.rest.isEmpty then return (l, none)
        else if ← stopsHere then return (l, some (.parted, p.rest.head?.map (·.lo)))
        else
          let (l', e') ← fscatPieces v es cm fuel p.rest false
          return (l ++ l', e')

/-- FSCAT (R284, R285): an enabled arithmetic trap leaves memory as it was. -/
def fscatM (i : Instr) (a : FReg) (g : GReg) : M Unit := do
  let v ← fibPre i classFI true true (fun _ => [])
  fibTypes i v [a]
  let base ← gR g
  let t ← strand
  let es := t.f[a].entries
  let us := ((List.range es.length).filter fun k => decide (t.resumeElem ≤ k)).map fun k =>
    fibUnit k (base + BitVec.ofNat 64 ((es.getD k (0, 0)).1.toNat * (v.w / 8))) (v.w / 8) 1
  let s0 ← get
  let (l, stop) ← fscatPieces v es t.cm (us.length + 1) us true
  let rs := l.map fun x => (x.1.lo, x.2)
  let h ← hart
  if rs.any fun r => enabledOf h r.2.flags then set s0 else pure ()
  let _ ← settle v false rs
  match stop with
  | some (e, at') =>
    match at' with
    | some j => modStrand fun t => { t with vprog := vprogWord true 0 j 0 }
    | none => pure ()
    throw (withDone t.cm (cmOf (l.map (·.1))) e)
  | none =>
    clearProgress 0
    advance

/-- Combining two values (Table 3 of 11). -/
inductive FOp where
  | a | b | add | mul | min | max
deriving DecidableEq, Repr

def FOp.elem : FOp → ElemOp
  | .a => fun _ _ x _ => quiet x
  | .b => fun _ _ _ y => quiet y
  | .add => elemAdd
  | .mul => elemMul
  | .min => elemMinMax false
  | .max => elemMinMax true

/-- The operations that round. -/
def FOp.rounds (o : FOp) : Bool := o == .add || o == .mul

/-- Combine for output entry n (R286). -/
def VView.combine (v : VView) (op : FOp) (n : Nat) (x y : Word) : Res :=
  op.elem v.ty (v.mode n) (x.toNat % 2 ^ v.w) (y.toNat % 2 ^ v.w)

/-- An output entry with what its value raised. -/
abbrev OutEntry := BitVec 32 × Res

/-- An entry passed on unchanged. -/
def passOn (e : FEntry) : OutEntry := (e.1, quiet e.2.toNat)

/-- The result of a combining instruction: flags and traps by output entry, then the fibre (R286). -/
def putCombined (d : FReg) (v : VView) (out : List OutEntry) : M Unit := do
  let vals ← settle v false (out.zipIdx.map fun x => (x.2, x.1.2))
  putFibre d v ((out.zip vals).map fun x => (x.1.1, BitVec.ofNat 64 x.2.2))

/-- The loop of FINT (R287); `fuel` bounds its steps, n counts the outputs. -/
def fintGo (v : VView) (op : FOp) : Nat → Nat → List FEntry → List FEntry → List OutEntry
  | fuel + 1, n, x :: xs, y :: ys =>
    if x.1.toNat < y.1.toNat then fintGo v op fuel n xs (y :: ys)
    else if y.1.toNat < x.1.toNat then fintGo v op fuel n (x :: xs) ys
    else (x.1, v.combine op n x.2 y.2) :: fintGo v op fuel (n + 1) xs ys
  | _, _, _, _ => []

/-- FINT (R287). -/
def fintM (i : Instr) (op : FOp) (d a b : FReg) : M Unit := do
  let v ← fibPre i classFI false op.rounds (fun _ => [])
  fibTypes i v [a, b]
  needOrder (fun o => o == 2) [a, b]
  let t ← strand
  let xs := t.f[a].entries
  let ys := t.f[b].entries
  putCombined d v (fintGo v op (xs.length + ys.length) 0 xs ys)
  advance

/-- The loop of FUNI and FMRG (R288, R289): outputs until CAP, and the entries not consumed; `op` none merges. -/
def unionGo (v : VView) (op : Option FOp) : Nat → Nat → List FEntry → List FEntry →
    List OutEntry × List FEntry × List FEntry
  | 0, _, xs, ys => ([], xs, ys)
  | room + 1, n, xs, ys =>
    let cons := fun (o : OutEntry) (r : List OutEntry × List FEntry × List FEntry) => (o :: r.1, r.2)
    match xs, ys with
    | [], [] => ([], [], [])
    | x :: xs, [] => cons (passOn x) (unionGo v op room (n + 1) xs [])
    | [], y :: ys => cons (passOn y) (unionGo v op room (n + 1) [] ys)
    | x :: xs, y :: ys =>
      if x.1.toNat < y.1.toNat ∨ (op.isNone ∧ x.1 = y.1) then cons (passOn x) (unionGo v op room (n + 1) xs (y :: ys))
      else if y.1.toNat < x.1.toNat then cons (passOn y) (unionGo v op room (n + 1) (x :: xs) ys)
      else
        cons (x.1, match op with
          | some op => v.combine op n x.2 y.2
          | none => quiet x.2.toNat) (unionGo v op room (n + 1) xs ys)

/-- FUNI and FMRG: a stop at capacity records the cursors (R288, R289, R291). -/
def unionM (i : Instr) (op : Option FOp) (kind : Nat) (ok : Fin 4 → Bool) (d a b : FReg) : M Unit := do
  let v ← fibPre i classFI false (op.any FOp.rounds) (fun _ => [])
  fibTypes i v [a, b]
  needOrder ok [a, b]
  let t ← strand
  let mine := t.stoppedAt kind
  let i0 := if mine then fieldOf t.vprog 15 0 else 0
  let j0 := if mine then fieldOf t.vprog 31 16 else 0
  let xs := t.f[a].entries
  let ys := t.f[b].entries
  let (out, rx, ry) := unionGo v op v.fibreCap 0 (xs.drop i0) (ys.drop j0)
  putCombined d v out
  if !rx.isEmpty || !ry.isEmpty then
    -- a cursor beyond its source stays where it is
    let cur := fun (n c rest : Nat) => if n < c then c else n - rest
    modStrand fun t =>
      { t with vprog := vprogWord true kind (cur xs.length i0 rx.length) (cur ys.length j0 ry.length) }
  else if mine then modStrand fun t => { t with vprog := 0 }
  else pure ()
  advance

/-- An entry put behind the entries whose coordinate is not greater. -/
def insertEntry (e : FEntry) : List FEntry → List FEntry
  | [] => [e]
  | x :: r => if e.1.toNat < x.1.toNat then e :: x :: r else x :: insertEntry e r

/-- The stable sort of R290. -/
def sortEntries (l : List FEntry) : List FEntry := l.foldl (fun acc e => insertEntry e acc) []

/-- Replacing each run of equal coordinates by one entry (R290): `cur` is the run in progress, n the outputs so far. -/
def runGo (v : VView) (op : FOp) : List FEntry → Nat → Option OutEntry → List OutEntry
  | [], _, none => []
  | [], _, some o => [o]
  | x :: r, n, none => runGo v op r n (some (passOn x))
  | x :: r, n, some o =>
    if x.1 = o.1 then
      let z := v.combine op n (BitVec.ofNat 64 o.2.bits) x.2
      runGo v op r n (some (o.1, { bits := z.bits, flags := z.flags ||| o.2.flags, sat := z.sat || o.2.sat }))
    else o :: runGo v op r (n + 1) (some (passOn x))

/-- FSORT (R290). -/
def fsortM (i : Instr) (op : Option FOp) (d a : FReg) : M Unit := do
  let v ← fibPre i classFI false (op.any FOp.rounds) (fun _ => [])
  fibTypes i v [a]
  let s := sortEntries (← strand).f[a].entries
  match op with
  | some op => putCombined d v (runGo v op s 0 none)
  | none => putFibre d v s
  advance

/-- Keeping the entries that satisfy a test (R292). -/
def keepM (i : Instr) (d a : FReg) (keep : VView → Strand → Nat → FEntry → Bool) : M Unit := do
  let v ← fibPre i classFI false false (fun _ => [])
  fibTypes i v [a]
  let t ← strand
  putFibre d v ((t.f[a].entries.zipIdx.filter fun x => keep v t x.2 x.1).map (·.1))
  advance

/-- Whether a value counts as zero (R292). -/
def VView.zeroValue (v : VView) (x : Word) : Bool :=
  match v.ty with
  | .flt f => (f.decode (x.toNat % 2 ^ v.w)).isZero
  | .int _ w => x.toNat % 2 ^ w == 0

/-- FFROMV (R293). -/
def ffromvM (i : Instr) (d : FReg) (a : VReg) (g : GReg) : M Unit := do
  let v ← fibPre i classFI false false (fun v => [v.span a])
  let c0 := fieldOf (← gR g) 31 0
  require (decide (v.n ≤ v.fibreCap)) cShape (BitVec.ofNat 64 v.n)
  let x ← source v none (v.span a) v.w
  putFibre d v ((List.range v.n).map fun k => (BitVec.ofNat 32 (c0 + k), BitVec.ofNat 64 (x k)))
  advance

/-- FEXP (R294): the access side has set VL where the instruction was forwarded; otherwise it does so here. -/
def fexpM (i : Instr) (a : FReg) (d : VReg) (r0 : GReg) : M Unit := do
  let v0 ← fibPre i classFI false false (fun v => [v.span d])
  let c0 := fieldOf (← gR r0) 31 0
  let req ← gR (Fin.ofNat 32 (r0.val + 1))
  fibTypes i v0 [a]
  if (← strand).fromQueue.isNone then modStrand fun t => t.lengthStep v0.groups req else pure ()
  let v ← view
  let es := (← strand).f[a].entries
  let zeros := (List.range v.vl).map fun k => (k, 0)
  let vals := es.filterMap fun e =>
    if c0 ≤ e.1.toNat ∧ e.1.toNat < c0 + v.vl then some (e.1.toNat - c0, e.2.toNat) else none
  writeVec v (v.span d) v.w (zeros ++ vals)
  advance

/-- FCRD and FVAL (R295). -/
def extractM (i : Instr) (accept : Nat → Bool) (typed : Bool) (a : FReg) (d : VReg) (f : FEntry → Nat) : M Unit := do
  let v ← fibPre i accept false false (fun v => [v.span d])
  if typed then fibTypes i v [a] else pure ()
  let es := (← strand).f[a].entries
  writeVec v (v.span d) v.w ((List.range v.n).map fun k => (k, (es.map f).getD k 0))
  advance

/-- FCNT (R296). -/
def fcntM (q : Fin 2) (a : FReg) : M Unit := do
  needRoom q
  pushResult q (BitVec.ofNat 64 (← strand).f[a].entries.length)
  advance

/-- The types that coordinates are extracted to (R280). -/
def coordType (et : Nat) : Bool := et == 0x0A || et == 0x0B || et == 0x0E || et == 0x0F

/-- FLD (R281): Loads a fibre from coordinate and value arrays. -/
def execFld (d : FReg) (r0 : GReg) (s : State) : Host.Outcome State Fault Refusal :=
  perform (.fld d r0) (fldM (.fld d r0) d r0) s

/-- FST (R281): Stores a fibre to coordinate and value arrays. -/
def execFst (a : FReg) (r0 : GReg) (s : State) : Host.Outcome State Fault Refusal :=
  perform (.fst a r0) (fstM (.fst a r0) a r0) s

/-- FLDLV (R283): Loads the children of a parent position from one compressed level. -/
def execFldlv (d : FReg) (r0 : GReg) (s : State) : Host.Outcome State Fault Refusal :=
  perform (.fldlv d r0) (fldlvM (.fldlv d r0) d r0) s

/-- FSCAT (R284): Adds each fibre entry's value into a dense array. -/
def execFscat (a : FReg) (g : GReg) (s : State) : Host.Outcome State Fault Refusal :=
  perform (.fscat a g) (fscatM (.fscat a g) a g) s

/-- FINT_A (R287): Intersects two fibres, keeping fa's value. -/
def execFintA (d : FReg) (a : FReg) (b : FReg) (s : State) : Host.Outcome State Fault Refusal :=
  perform (.fintA d a b) (fintM (.fintA d a b) .a d a b) s

/-- FINT_B (R287): Intersects two fibres, keeping fb's value. -/
def execFintB (d : FReg) (a : FReg) (b : FReg) (s : State) : Host.Outcome State Fault Refusal :=
  perform (.fintB d a b) (fintM (.fintB d a b) .b d a b) s

/-- FINT_ADD (R287): Intersects two fibres, adding the values. -/
def execFintAdd (d : FReg) (a : FReg) (b : FReg) (s : State) : Host.Outcome State Fault Refusal :=
  perform (.fintAdd d a b) (fintM (.fintAdd d a b) .add d a b) s

/-- FINT_MUL (R287): Intersects two fibres, multiplying the values. -/
def execFintMul (d : FReg) (a : FReg) (b : FReg) (s : State) : Host.Outcome State Fault Refusal :=
  perform (.fintMul d a b) (fintM (.fintMul d a b) .mul d a b) s

/-- FINT_MIN (R287): Intersects two fibres, keeping the lesser value. -/
def execFintMin (d : FReg) (a : FReg) (b : FReg) (s : State) : Host.Outcome State Fault Refusal :=
  perform (.fintMin d a b) (fintM (.fintMin d a b) .min d a b) s

/-- FINT_MAX (R287): Intersects two fibres, keeping the greater value. -/
def execFintMax (d : FReg) (a : FReg) (b : FReg) (s : State) : Host.Outcome State Fault Refusal :=
  perform (.fintMax d a b) (fintM (.fintMax d a b) .max d a b) s

/-- FUNI_A (R288): Unites two fibres, keeping fa's value where both hold the coordinate. -/
def execFuniA (d : FReg) (a : FReg) (b : FReg) (s : State) : Host.Outcome State Fault Refusal :=
  perform (.funiA d a b) (unionM (.funiA d a b) (some .a) 3 (fun o => o == 2) d a b) s

/-- FUNI_B (R288): Unites two fibres, keeping fb's value where both hold the coordinate. -/
def execFuniB (d : FReg) (a : FReg) (b : FReg) (s : State) : Host.Outcome State Fault Refusal :=
  perform (.funiB d a b) (unionM (.funiB d a b) (some .b) 3 (fun o => o == 2) d a b) s

/-- FUNI_ADD (R288): Unites two fibres, adding the values where both hold the coordinate. -/
def execFuniAdd (d : FReg) (a : FReg) (b : FReg) (s : State) : Host.Outcome State Fault Refusal :=
  perform (.funiAdd d a b) (unionM (.funiAdd d a b) (some .add) 3 (fun o => o == 2) d a b) s

/-- FUNI_MUL (R288): Unites two fibres, multiplying the values where both hold the coordinate. -/
def execFuniMul (d : FReg) (a : FReg) (b : FReg) (s : State) : Host.Outcome State Fault Refusal :=
  perform (.funiMul d a b) (unionM (.funiMul d a b) (some .mul) 3 (fun o => o == 2) d a b) s

/-- FUNI_MIN (R288): Unites two fibres, keeping the lesser value where both hold the coordinate. -/
def execFuniMin (d : FReg) (a : FReg) (b : FReg) (s : State) : Host.Outcome State Fault Refusal :=
  perform (.funiMin d a b) (unionM (.funiMin d a b) (some .min) 3 (fun o => o == 2) d a b) s

/-- FUNI_MAX (R288): Unites two fibres, keeping the greater value where both hold the coordinate. -/
def execFuniMax (d : FReg) (a : FReg) (b : FReg) (s : State) : Host.Outcome State Fault Refusal :=
  perform (.funiMax d a b) (unionM (.funiMax d a b) (some .max) 3 (fun o => o == 2) d a b) s

/-- FMRG (R289): Merges two fibres, keeping every entry. -/
def execFmrg (d : FReg) (a : FReg) (b : FReg) (s : State) : Host.Outcome State Fault Refusal :=
  perform (.fmrg d a b) (unionM (.fmrg d a b) none 4 (fun o => o == 1 || o == 2) d a b) s

/-- FSORT (R290): Sorts a fibre stably by coordinate. -/
def execFsort (d : FReg) (a : FReg) (s : State) : Host.Outcome State Fault Refusal :=
  perform (.fsort d a) (fsortM (.fsort d a) none d a) s

/-- FSORT_A (R290): Sorts a fibre and keeps the first value of each run. -/
def execFsortA (d : FReg) (a : FReg) (s : State) : Host.Outcome State Fault Refusal :=
  perform (.fsortA d a) (fsortM (.fsortA d a) (some .a) d a) s

/-- FSORT_B (R290): Sorts a fibre and keeps the last value of each run. -/
def execFsortB (d : FReg) (a : FReg) (s : State) : Host.Outcome State Fault Refusal :=
  perform (.fsortB d a) (fsortM (.fsortB d a) (some .b) d a) s

/-- FSORT_ADD (R290): Sorts a fibre and sums each run. -/
def execFsortAdd (d : FReg) (a : FReg) (s : State) : Host.Outcome State Fault Refusal :=
  perform (.fsortAdd d a) (fsortM (.fsortAdd d a) (some .add) d a) s

/-- FSORT_MUL (R290): Sorts a fibre and multiplies each run. -/
def execFsortMul (d : FReg) (a : FReg) (s : State) : Host.Outcome State Fault Refusal :=
  perform (.fsortMul d a) (fsortM (.fsortMul d a) (some .mul) d a) s

/-- FSORT_MIN (R290): Sorts a fibre and keeps the minimum of each run. -/
def execFsortMin (d : FReg) (a : FReg) (s : State) : Host.Outcome State Fault Refusal :=
  perform (.fsortMin d a) (fsortM (.fsortMin d a) (some .min) d a) s

/-- FSORT_MAX (R290): Sorts a fibre and keeps the maximum of each run. -/
def execFsortMax (d : FReg) (a : FReg) (s : State) : Host.Outcome State Fault Refusal :=
  perform (.fsortMax d a) (fsortM (.fsortMax d a) (some .max) d a) s

/-- FCPT (R292): Keeps the fibre entries whose mask bit is set. -/
def execFcpt (d : FReg) (a : FReg) (m : MReg) (s : State) : Host.Outcome State Fault Refusal :=
  perform (.fcpt d a m) (keepM (.fcpt d a m) d a fun _ t k _ => t.maskBit m k) s

/-- FCPT_Z (R292): Keeps the fibre entries whose value is not zero. -/
def execFcptZ (d : FReg) (a : FReg) (s : State) : Host.Outcome State Fault Refusal :=
  perform (.fcptZ d a) (keepM (.fcptZ d a) d a fun v _ _ e => !v.zeroValue e.2) s

/-- FEXP (R294): Sets VL and writes a dense window of a fibre to a vector. -/
def execFexp (a : FReg) (v : VReg) (r0 : GReg) (s : State) : Host.Outcome State Fault Refusal :=
  perform (.fexp a v r0) (fexpM (.fexp a v r0) a v r0) s

/-- FFROMV (R293): Builds a fibre from the dense elements of a vector. -/
def execFfromv (d : FReg) (v : VReg) (g : GReg) (s : State) : Host.Outcome State Fault Refusal :=
  perform (.ffromv d v g) (ffromvM (.ffromv d v g) d v g) s

/-- FCRD (R295): Extracts a fibre's coordinates into a vector. -/
def execFcrd (a : FReg) (v : VReg) (s : State) : Host.Outcome State Fault Refusal :=
  perform (.fcrd a v) (extractM (.fcrd a v) coordType false a v fun e => e.1.toNat) s

/-- FVAL (R295): Extracts a fibre's values into a vector. -/
def execFval (a : FReg) (v : VReg) (s : State) : Host.Outcome State Fault Refusal :=
  perform (.fval a v) (extractM (.fval a v) classFI true a v fun e => e.2.toNat) s

/-- FCNT (R296): Appends a fibre's FOCC to q6 or q7. -/
def execFcnt (q : Fin 2) (a : FReg) (s : State) : Host.Outcome State Fault Refusal :=
  perform (.fcnt q a) (fcntM q a) s

end Sys2Proof.Machine

end
end

