-- ==== Sys2Proof/Machine/Masks.lean ====
section
/-! DEFINITION. Mask instructions and queue registers (10 R265, R266; 09 R226, R227). -/

noncomputable section

namespace Sys2Proof.Machine

/-- Bits 0 to n - 1 of a mask instruction's result (R265). -/
def maskOp (d : MReg) (f : Strand → Nat → Bool) : M Unit := do
  let v ← view
  let t ← strand
  writeMask v d ((List.range v.n).map fun i => (i, f t i))
  advance

/-- MCLR: the whole register (R265). -/
def mclrM (d : MReg) : M Unit := do
  modStrand fun t => { t with m := t.m.set! d.val 0 }
  advance

/-- MFROMFM: the whole register, and FM is cleared (R265, R175). -/
def mfromfmM (d : MReg) : M Unit := do
  modStrand fun t => { t with m := t.m.set! d.val t.fm, fm := 0 }
  advance

/-- MPOPV (R266). -/
def mpopvM (i : Instr) (d : VReg) (a : MReg) (mk : MReg) (me : Bool) : M Unit := do
  let m := modsOf mk me
  let v ← view
  requireState i (classI v.et && groupsOk (some (v.span d)) [] false)
  let t ← strand
  let count := fun (k : Nat) => ((List.range k).filter fun j => t.maskBit a j).length
  writeVec v (v.span d) v.w ((t.selected v m).map fun k => (k, count k % 2 ^ v.w))
  advance

/-- The set bits of a mask below VL, ascending (R227). -/
def maskBitsBelowVl (a : MReg) : M (List Nat) := do
  let t ← strand
  return (List.range (fieldOf t.vl 31 0)).filter fun i => t.maskBit a i

/-- A mask read into a general register (R227). -/
def maskRead (d : GReg) (a : MReg) (f : List Nat → Word) : M Unit := do
  gW d (f (← maskBitsBelowVl a))
  advance

/-- QW (R226). -/
def qwM (q : Fin 32) (a : GReg) : M Unit := do
  let k := Fin.ofNat 4 q.val
  let x ← gR a
  if 16 ≤ (← strand).qs[k].length then sleepOn (.queueFull (Fin.ofNat 8 k.val))
  else
    modStrand fun t => { t with qs := t.qs.set k.val (t.qs[k] ++ [x]) }
    advance

/-- The head of q6 or q7, or sleep until its value is there (R164, R226). -/
def peekResult (q : Fin 2) : M Word := do
  match (← strand).qr[q] with
  | .value v :: _ => return v
  | _ => sleepOn (.queueEmpty (Fin.ofNat 8 (q.val + 6)))

/-- QR and QPEEK (R226). -/
def qrM (d : GReg) (q : Fin 32) (pop : Bool) : M Unit := do
  let k := Fin.ofNat 2 q.val
  let v ← peekResult k
  if pop then modStrand fun t => { t with qr := t.qr.set k.val (t.qr[k].drop 1) } else pure ()
  gW d v
  advance

/-- Entries of a queue (R164, R226). -/
def Strand.queueLength (t : Strand) (q : Nat) : Nat :=
  if q < 4 then t.qs[Fin.ofNat 4 q].length else if q < 6 then t.qv[Fin.ofNat 2 q].length else t.qr[Fin.ofNat 2 q].length

/-- QSTAT (R226). -/
def qstatM (d : GReg) (q : Fin 32) : M Unit := do
  gW d (BitVec.ofNat 64 ((← strand).queueLength q.val))
  advance

/-- MAND (R265): Takes the AND of two masks. -/
def execMand (d : MReg) (a : MReg) (b : MReg) (s : State) : Host.Outcome State Fault Refusal :=
  perform (.mand d a b) (maskOp d fun t i => t.maskBit a i && t.maskBit b i) s

/-- MOR (R265): Takes the OR of two masks. -/
def execMor (d : MReg) (a : MReg) (b : MReg) (s : State) : Host.Outcome State Fault Refusal :=
  perform (.mor d a b) (maskOp d fun t i => t.maskBit a i || t.maskBit b i) s

/-- MXOR (R265): Takes the XOR of two masks. -/
def execMxor (d : MReg) (a : MReg) (b : MReg) (s : State) : Host.Outcome State Fault Refusal :=
  perform (.mxor d a b) (maskOp d fun t i => t.maskBit a i != t.maskBit b i) s

/-- MNOT (R265): Inverts a mask. -/
def execMnot (d : MReg) (a : MReg) (s : State) : Host.Outcome State Fault Refusal :=
  perform (.mnot d a) (maskOp d fun t i => !t.maskBit a i) s

/-- MSET (R265): Sets mask bits below n. -/
def execMset (d : MReg) (s : State) : Host.Outcome State Fault Refusal :=
  perform (.mset d) (maskOp d fun _ _ => true) s

/-- MCLR (R265): Clears every bit of a mask register. -/
def execMclr (d : MReg) (s : State) : Host.Outcome State Fault Refusal :=
  perform (.mclr d) (mclrM d) s

/-- MFROMFM (R265): Copies FM into a mask register and clears FM. -/
def execMfromfm (d : MReg) (s : State) : Host.Outcome State Fault Refusal :=
  perform (.mfromfm d) (mfromfmM d) s

/-- MPOPV (R266): Writes, for each element, the count of lower set mask bits. -/
def execMpopv (d : VReg) (a : MReg) (mk : MReg) (me : Bool) (s : State) : Host.Outcome State Fault Refusal :=
  perform (.mpopv d a mk me) (mpopvM (.mpopv d a mk me) d a mk me) s

/-- MCNT (R227): Writes the count of set mask bits below VL to gd, resynchronising the sides. -/
def execMcnt (d : GReg) (a : MReg) (s : State) : Host.Outcome State Fault Refusal :=
  perform (.mcnt d a) (maskRead d a fun l => BitVec.ofNat 64 l.length) s

/-- MANY (R227): Writes 1 to gd if any mask bit below VL is set, resynchronising the sides. -/
def execMany (d : GReg) (a : MReg) (s : State) : Host.Outcome State Fault Refusal :=
  perform (.many d a) (maskRead d a fun l => if l.isEmpty then 0 else 1) s

/-- MFIRST (R227): Writes the lowest set mask index to gd, resynchronising the sides. -/
def execMfirst (d : GReg) (a : MReg) (s : State) : Host.Outcome State Fault Refusal :=
  perform (.mfirst d a) (maskRead d a fun l => match l with
    | k :: _ => BitVec.ofNat 64 k
    | [] => 0xFFFFFFFFFFFFFFFF) s

/-- QW (R226): Appends ga to queue q0-q3, sleeping while the queue is full. -/
def execQw (q : Fin 32) (a : GReg) (s : State) : Host.Outcome State Fault Refusal :=
  perform (.qw q a) (qwM q a) s

/-- QR (R226): Pops the head of q6 or q7 into gd, sleeping while the queue is empty. -/
def execQr (d : GReg) (q : Fin 32) (s : State) : Host.Outcome State Fault Refusal :=
  perform (.qr d q) (qrM d q true) s

/-- QPEEK (R226): Copies the head of q6 or q7 into gd without popping it. -/
def execQpeek (d : GReg) (q : Fin 32) (s : State) : Host.Outcome State Fault Refusal :=
  perform (.qpeek d q) (qrM d q false) s

/-- QSTAT (R226): Writes a queue's entry count to gd. -/
def execQstat (d : GReg) (q : Fin 32) (s : State) : Host.Outcome State Fault Refusal :=
  perform (.qstat d q) (qstatM d q) s

end Sys2Proof.Machine

end
end

