-- ==== Sys2Proof/Machine/Matrix.lean ====
section
/-! DEFINITION. The matrix unit and the accumulator instructions (12 R299-R315, R324, R325; 04 R95, R96; 05 R105-R112). -/

noncomputable section

namespace Sys2Proof.Machine

/-- A tile of the accumulator store, placed (R106): its descriptor, first byte, row stride in bytes, element width, TYPE. -/
structure AccTile where
  core : Nat
  desc : DReg
  base : Nat
  stride : Nat
  w : Nat
  kind : Nat
deriving DecidableEq, Repr

/-- Bytes of an element of an accumulator TYPE (R106). -/
def accBytes (kind : Nat) : Nat := if kind = 1 then 8 else 4

/-- The type that an accumulator TYPE names. -/
def accTy (kind : Nat) : ElemTy := if kind = 0 then .flt fp32 else if kind = 1 then .flt fp64 else .int true 32

/-- The ET code of an accumulator TYPE (R312). -/
def accEt (kind : Nat) : Nat := if kind = 0 then 0x00 else if kind = 1 then 0x01 else 0x0A

/-- The trap word of a descriptor. -/
def descWord (n : DReg) : Word := BitVec.ofNat 64 n.val

/-- The tile of a descriptor for M rows and N columns, `ahead` units beyond its BASE, with the checks of R107 in their order;
no check is made of its place where M or N is 0. -/
def accTile (n : DReg) (rows cols ahead : Nat) : M AccTile := do
  let t ← strand
  let w := (t.d[n]).toNat
  let kind := bitsOf w 31 30
  let stride := bitsOf w 29 15 * 64
  let start := (bitsOf w 14 0 + ahead) * 64
  require (kind != 3) cShape (descWord n)
  require (decide (rows ≤ 1) || decide (cols * accBytes kind ≤ stride)) cShape (descWord n)
  let (base, size) := accWindow t.accwin
  require (decide (start + (rows - 1) * stride + cols * accBytes kind ≤ size)) cProtection (descWord n)
  return { core := ← myCore, desc := n, base := base + start, stride := stride, w := accBytes kind, kind := kind }

/-- Place of element (i, j). -/
def AccTile.at' (t : AccTile) (i j : Nat) : Nat := t.base + i * t.stride + j * t.w

/-- Reading the elements of a tile that are asked for; the others count as zero and are not read. -/
def AccTile.read (t : AccTile) (rows cols : Nat) (wanted : Nat → Nat → Bool) : M (List (List Nat)) :=
  (List.range rows).mapM fun i => (List.range cols).mapM fun j => do
    if wanted i j then
      checkStore t.core 6 (t.at' i j) t.w .unit
      return ((← get).core t.core).acc.read (t.at' i j) t.w
    else return 0

/-- Writing the first elements of each row of a tile; whether every lost unit is covered whole is checked before the first
(R413). -/
def AccTile.write (t : AccTile) (rows : List (List Nat)) : M Unit := do
  rows.zipIdx.forM fun r => do
    let s ← get
    match ((s.core t.core).lostIn 6 (t.at' r.2 0) (r.1.length * t.w)).find? fun u =>
        decide (u.1 < t.at' r.2 0) || decide (t.at' r.2 r.1.length < u.1 + 8) with
    | some (_, _, seq) => trap cDataError (s.reportWord s.turn .unit 6 seq true)
    | none => pure ()
  rows.zipIdx.forM fun r => do
    checkStoreWrite t.core 6 (t.at' r.2 0) (r.1.length * t.w) .unit
    modCore t.core fun k => { k with acc := k.acc.write (t.at' r.2 0) (r.1.length * t.w) (packElems (8 * t.w) r.1) }

/-- A tile word (R309, Table 3). -/
structure TileWord where
  word : Word
  rows : Nat
  cols : Nat
  count : Nat
  pitch : Nat
deriving DecidableEq, Repr

/-- Whether the extents leave nothing to do. -/
def TileWord.isEmpty (x : TileWord) : Bool := x.rows == 0 || x.cols == 0

/-- A tile word with its checks: PITCH and COUNT zero where the instruction does not use them, extents up to 128 (R309). -/
def tileWordOf (w : Word) (usesPitch usesCount : Bool) : M TileWord := do
  let x : TileWord := { word := w, rows := fieldOf w 7 0, cols := fieldOf w 15 8, count := fieldOf w 31 16, pitch := fieldOf w 63 32 }
  require ((usesPitch || x.pitch == 0) && (usesCount || x.count == 0)) cShape w
  require (decide (x.rows ≤ 128) && decide (x.cols ≤ 128)) cShape w
  return x

/-- The second register of a pair. -/
def pairReg (g : GReg) : GReg := Fin.ofNat 32 (g.val + 1)

/-- A matrix over a list of rows: element (i, j). -/
def matGet (m : List (List Nat)) (i j : Nat) : Nat := (m.getD i []).getD j 0

/-- The accumulator TYPE that an element type feeds (Table 1, R96). -/
def accKindOf (et : Nat) : Nat := if et = 0x01 then 1 else if et = 0x08 ∨ et = 0x10 then 2 else 0

/-- The first n values of a sequence of elements or blocks, given as one number. -/
def matValues (et n v : Nat) : List Num :=
  match packedOf et with
  | some p => ((List.range (ceilDiv n 32)).flatMap fun b => p.decode (elemAt (8 * p.blockBytes) v b)).take n
  | none =>
    let t := (elemTyOf et).getD (.int true 8)
    (List.range n).map fun k => t.num (elemAt t.width v k)

/-- Bytes that hold the first n elements of a row or column (R305). -/
def matBytes (et n : Nat) : Nat :=
  match packedOf et with
  | some p => ceilDiv n 32 * p.blockBytes
  | none => ceilDiv (n * ((elemTyOf et).getD (.int true 8)).width) 8

/-- Alignment of a B operand (R305): packed types and INT4 need none. -/
def matAlign (et : Nat) : Nat :=
  match packedOf et with
  | some _ => 1
  | none => Nat.max 1 (((elemTyOf et).getD (.int true 8)).width / 8)

/-- The flags of a group's exact sum (R85): those of its products, and NV where infinities of opposite sign meet. -/
def groupFlags (ps : List (Num × Num)) : FlagSet :=
  let xs := ps.map fun p => numMul p.1 p.2
  let fl := xs.foldl (fun a x => a ||| x.2) 0
  if xs.all (fun x => !x.1.isNan) && xs.any (fun x => x.1 == .inf false) && xs.any (fun x => x.1 == .inf true) then fl ||| flagNV
  else fl

/-- One group added into an accumulator element (R95); `minus` subtracts it (R322). -/
def groupStep (f : FFmt) (minus : Bool) (c : Nat) (ps : List (Num × Num)) : Res :=
  let g := groupSum ps
  let (v, fl) := numAdd false (f.decode c) (if minus then g.neg else g)
  let r := f.round .rne v
  { r with flags := r.flags ||| fl ||| groupFlags ps }

/-- A number put into an ascending list without repeats. -/
def insertNat (x : Nat) : List Nat → List Nat
  | [] => [x]
  | y :: r => if x < y then x :: y :: r else if x = y then y :: r else y :: insertNat x r

/-- The value of an integer operand. -/
def intOf (x : Num) : Int :=
  match x with
  | .fin neg sig e => signedSig neg (sig * 2 ^ e.toNat)
  | _ => 0

/-- An accumulator element after a multiply: (k, A, B) by groups of 16 consecutive k, ascending (R306, R307). -/
def mulElem (kind : Nat) (c : Nat) (l : List (Nat × Num × Num)) : Nat × FlagSet :=
  if kind = 2 then (ofSigned 32 ((c : Int) + l.foldl (fun a x => a + intOf x.2.1 * intOf x.2.2) 0), 0)
  else
    let f := if kind = 1 then fp64 else fp32
    (l.foldl (fun ks x => insertNat (x.1 / 16) ks) []).foldl (fun (acc : Nat × FlagSet) g =>
      let r := groupStep f false acc.1 ((l.filter fun x => x.1 / 16 == g).map (·.2))
      (r.bits, acc.2 ||| r.flags)) (c, 0)

/-- Forms of a multiply (R303). -/
inductive MulForm where
  | dense
  /-- MMAX: the index vector -/
  | gathered (b : VReg)
  /-- MMAS: the metadata vector -/
  | sparse (b : VReg)
deriving DecidableEq, Repr

/-- The types that a form accepts (R300). -/
def MulForm.accepts (f : MulForm) (et : Nat) : Bool :=
  match f with
  | .dense => (matQuantum et).isSome
  | .gathered _ => (matQuantum et).isSome && classXCode et
  | .sparse _ => et == 0x02 || et == 0x03 || et == 0x04 || et == 0x05 || et == 0x08

/-- The effective A[i, k] of a 2-of-4 row, k below ke (R308), with the flags of adding two values of one place. -/
def sparseRow (vals : List Num) (posn : Nat → Nat) (ke : Nat) : List (Num × FlagSet) :=
  (List.range ke).map fun k =>
    let q := k / 4
    let x := fun j => vals.getD (2 * q + j) (.fin false 0 0)
    let here := fun j => posn q / 4 ^ j % 4 == k % 4
    match here 0, here 1 with
    | true, true => numAdd false (x 0) (x 1)
    | true, false => (x 0, 0)
    | false, true => (x 1, 0)
    | false, false => (.fin false 0 0, 0)

/-- Pages of a .M operand's accesses, in order (R305): a page of another module takes the protection trap. -/
def enumOperand : List (Word × Nat) → List PageTr → M (List PageTr)
  | [], ps => return ps
  | (va, n) :: r, ps => do
    match ← tryTranslateRange .load va n with
    | .error t => throw (.trap { t with tval := va })
    | .ok l =>
      let s ← get
      if l.any fun p => !leafDead p.1.leaf && leafMod p.1.leaf != s.moduleNum.val then trapPage cProtection va 0
      require (!(l.any fun p => ownSystem s p.1 && !inPcie (p.1.sysOff p.2.1) && n != 8)) cMisaligned va
      let ps := addPages ps (l.map (·.1))
      if Config.maxPages < ps.length then trapPage cShape 0 0 else enumOperand r ps

/-- The arithmetic clock in MHz (R18, R434): throttling lowers it to the Efficient rate. -/
def State.clockMhz (s : State) : Nat :=
  if bitOf s.hub.pwrctl 8 then 1000
  else match fieldOf s.hub.pwrctl 11 10 with
    | 0 => 1400
    | 1 => 1700
    | _ => 1000

/-- Whether a multicast window still serves at a time: 64 cycles starting with the cycle of its read (R112). -/
def Window.live (w : Window) (s : State) : Bool := decide ((s.time - w.time).toNat * s.clockMhz < 64000)

/-- A block of 1,024 bytes of a tile store as a matrix operand fetch sees it: from a live window of the quad that the strand has not
closed, else by a read that opens one (R112, R113). -/
def blockFetch (c : Ctx) (core block : Nat) : M Nat := do
  let s ← get
  let t ← strand
  let q := s.quad (quadNum c)
  match q.windows.find? fun w => w.core == core && w.block == block && decide (t.winClosed ≤ w.num) && w.live s with
  | some w => return w.data
  | none =>
    let data := (s.core core).tile.read (1024 * block) 1024
    let w : Window := { core := core, block := block, data := data, time := s.time, num := q.nextWindow }
    modQuad (quadNum c) fun q => { q with windows := w :: q.windows.filter fun x => x.live s, nextWindow := q.nextWindow + 1 }
    return data

/-- n bytes of a tile store at an offset as a matrix operand fetch reads them, block by block (R112). -/
def tileFetch (c : Ctx) (w : Word) (off n : Nat) : M Nat := do
  let core := tileCore c w
  checkStore core 5 off n .unit
  let blocks ← (List.range (ceilDiv (off % 1024 + n) 1024)).mapM fun k => blockFetch c core (off / 1024 + k)
  return blocks.zipIdx.foldl (fun a x => a + x.1 * 2 ^ (8192 * x.2)) 0 >>> (8 * (off % 1024)) % 2 ^ (8 * n)

/-- The B operand: n bytes from each of the given offsets (R305). -/
def fetchOperand (mem : Bool) (et : Nat) (addr : Word) (lines : List (Nat × Nat)) : M (List Nat) := do
  if mem then
    let e := match packedOf et with
      | some p => p.blockBytes
      | none => matAlign et
    let ps ← enumOperand (lines.flatMap fun l =>
      (List.range (l.2 / e)).map fun k => (addr + BitVec.ofNat 64 (l.1 + k * e), e)) []
    lines.mapM fun l => do
      let va := (addr + BitVec.ofNat 64 l.1).toNat
      readParts (piecesOn (← get) ps va l.2) va .bypass false .ordinary .unit
  else
    require (lines.all fun l => tileOk addr (l.1 + l.2)) cProtection addr
    let c ← ctx
    lines.mapM fun l => tileFetch c addr (fieldOf addr 18 0 + l.1) l.2

/-- A multiply that has been performed: it is counted on MOF (R130, R305). -/
def countMultiply : M Unit := do
  let n ← numberOp pMof .operandFetch
  completeOp (← ctx).val pMof n none
  advance

/-- Row r of A (R304, R307, R308): each value with its k and the position of its B element, and the flags of forming it. -/
def mulRow (form : MulForm) (t : Strand) (et tk bits4 ke : Nat) (idx : List Nat) (img r : Nat) :
    List ((Nat × Num × Nat) × FlagSet) :=
  match form with
  | .sparse b =>
    let words := ((t.v[b.val]?).getD 0).toNat
    (sparseRow (matValues et (tk / 2) (img >>> (r * (tk / 2) * (bits4 / 4)))) (fun q => elemAt 4 words (r * (tk / 4) + q)) ke).zipIdx.map
      fun x => ((x.2, x.1.1, x.2), x.1.2)
  | .gathered _ =>
    (matValues et idx.length (img >>> (r * tk * bits4 / 4))).zipIdx.map fun x => ((idx.getD x.2 0, x.1, x.2), 0)
  | .dense => (matValues et ke (img >>> (r * tk * bits4 / 4))).zipIdx.map fun x => ((x.2, x.1, x.2), 0)

/-- The indices of an MMAX, none elsewhere (R307). -/
def MulForm.indices (form : MulForm) (t : Strand) (v : VView) : List Nat :=
  match form with
  | .gathered b => (List.range v.n).map fun k => elemAt 32 (t.image v.regBits (v.spanOf b 32)) k
  | _ => []

/-- Whether a form takes its rows of B by an index vector. -/
def MulForm.isGathered (form : MulForm) : Bool :=
  match form with
  | .gathered _ => true
  | _ => false

/-- Where each row or column of B begins in the operand, and its bytes (R305, R307). -/
def MulForm.lines (form : MulForm) (t : Strand) (v : VView) (ne ke bits4 : Nat) : List (Nat × Nat) :=
  if form.isGathered then (form.indices t v).map fun x => (x * (fieldOf t.tn 31 0 * bits4 / 32), matBytes v.et ne)
  else (List.range ne).map fun j => (j * (fieldOf t.tk 31 0 * bits4 / 32), matBytes v.et ke)

/-- The product added into the elements `c` of a tile, each with its flags (R306-R308); `raw` holds the lines of B. -/
def MulForm.product (form : MulForm) (t : Strand) (v : VView) (a : VReg) (kind ne ke bits4 : Nat) (raw : List Nat)
    (c : List (List Nat)) : List (List (Nat × FlagSet)) :=
  let bs := raw.map fun x => matValues v.et (if form.isGathered then ne else ke) x
  let bElem := fun (pos j : Nat) =>
    if form.isGathered then (bs.getD pos []).getD j (.nan false) else (bs.getD j []).getD pos (.nan false)
  c.zipIdx.map fun row =>
    let as := mulRow form t v.et (fieldOf t.tk 31 0) bits4 ke (form.indices t v) (t.image v.regBits ⟨a.val, 8⟩) row.2
    let fl := as.foldl (fun f x => f ||| x.2) 0
    row.1.zipIdx.map fun x =>
      let r := mulElem kind x.1 (as.map fun y => (y.1.1, y.1.2.1, bElem y.1.2.2 x.2))
      (r.1, r.2 ||| fl)

/-- The flags of a computed tile. -/
def tileFlags (out : List (List (Nat × FlagSet))) : FlagSet := out.foldl (fun f row => row.foldl (fun f x => f ||| x.2) f) 0

/-- The partials of an element combined in C64 order, or their wrapped sum (R314). -/
def combinePartials (kind : Nat) (l : List Nat) : Nat × FlagSet :=
  if kind = 2 then (l.foldl (· + ·) 0 % 2 ^ 32, 0) else c64Sum (if kind = 1 then fp64 else fp32) l

/-- MMA, MMAX and MMAS (R302-R308). -/
def multiplyM (i : Instr) (form : MulForm) (mem : Bool) (d : DReg) (a : VReg) (g : GReg) : M Unit := do
  let v ← view
  requireState i (form.accepts v.et && (match form with
    | .gathered b => (v.spanOf b 32).ok
    | _ => true))
  needNumber pMof
  let t ← strand
  let eff := fun (w : Word) => Nat.min (fieldOf w 63 32) (fieldOf w 31 0)
  let me := eff t.tm
  let ne := eff t.tn
  let ke := eff t.tk
  if me = 0 ∨ ne = 0 ∨ ke = 0 then countMultiply
  else
    let bits4 := ((matQuantum v.et).getD (16, 64)).2
    let tk := fieldOf t.tk 31 0
    let addr ← gR g
    let off := if mem then addr.toNat else fieldOf addr 18 0
    require (off % matAlign v.et == 0) cMisaligned addr
    require (decide (fieldOf t.tm 31 0 * tk * bits4 ≤ 8 * v.groups * 2048 * 4)) cShape 0
    let tile ← accTile d me ne 0
    require (tile.kind == accKindOf v.et) cShape (descWord d)
    require (!form.isGathered || decide (v.n ≤ ke)) cShape (BitVec.ofNat 64 v.n)
    if form.isGathered ∧ v.n = 0 then countMultiply
    else
      let raw ← fetchOperand mem v.et addr (form.lines t v ne ke bits4)
      let c ← tile.read me ne fun _ _ => true
      let out := form.product t v a tile.kind ne ke bits4 raw c
      tile.write (out.map fun row => row.map (·.1))
      raiseFlags (tileFlags out)
      countMultiply

/-- ACCZ (R311). -/
def acczM (d : DReg) (g : GReg) : M Unit := do
  let x ← tileWordOf (← gR g) false false
  if x.isEmpty then pure ()
  else
    let t ← accTile d x.rows x.cols 0
    t.write (List.replicate x.rows (List.replicate x.cols 0))
  advance

/-- A list cut into rows of k, at most as many as the fuel says. -/
def chunksOf {α : Type} (k : Nat) : Nat → List α → List (List α)
  | 0, _ => []
  | fuel + 1, l => if l.isEmpty then [] else l.take k :: chunksOf k fuel (l.drop k)

/-- The elements of a tile in memory (R311): element r of the row-major order at base + i * PITCH + j * w. -/
def tileUnits (x : TileWord) (w : Nat) (base : Word) : List MUnit :=
  (List.range (x.rows * x.cols)).map fun r =>
    { lo := r, cnt := 1, len := w, align := w, sub := 0,
      va := base + BitVec.ofInt 64 ((r / x.cols : Nat) * toSigned 32 x.pitch) + BitVec.ofNat 64 (r % x.cols * w) }

/-- ACCLD (R311). -/
def accldM (d : DReg) (g : GReg) : M Unit := do
  let base ← gR g
  let x ← tileWordOf (← gR (pairReg g)) true false
  if x.isEmpty then pure ()
  else
    let t ← accTile d x.rows x.cols 0
    let p ← enumPiece { acc := .load } (tileUnits x t.w base)
    let use := bypUse (← strand) (x.rows * x.cols * t.w)
    let vals ← p.good.mapM fun u => readParts u.2 u.1.va.toNat use false .ordinary (.element u.1.lo (8 * t.w))
    t.write (chunksOf x.cols (x.rows + 1) vals)
  advance

/-- ACCST (R311): in row-major order, so that the higher element prevails. -/
def accstM (d : DReg) (g : GReg) : M Unit := do
  let base ← gR g
  let x ← tileWordOf (← gR (pairReg g)) true false
  if x.isEmpty then pure ()
  else
    let t ← accTile d x.rows x.cols 0
    let p ← enumPiece { acc := .store } (tileUnits x t.w base)
    let m ← t.read x.rows x.cols fun _ _ => true
    p.good.forM fun u => writeParts u.2 u.1.va.toNat (matGet m (u.1.lo / x.cols) (u.1.lo % x.cols)) .ordinary (.element u.1.lo (8 * t.w))
  advance

/-- ACCRD (R312). -/
def accrdM (i : Instr) (d : DReg) (a : VReg) (g : GReg) : M Unit := do
  let v ← view
  requireState i (classXCode v.et && (v.span a).ok)
  let x ← tileWordOf (← gR g) false false
  if x.isEmpty then pure ()
  else
    let t ← accTile d x.rows x.cols 0
    require (v.et == accEt t.kind) cShape (descWord d)
    let k := Nat.min v.n (x.rows * x.cols)
    let m ← t.read x.rows x.cols fun i j => decide (i * x.cols + j < k)
    writeVec v (v.span a) v.w ((List.range v.n).map fun r =>
      (r, if r < k then matGet m (r / x.cols) (r % x.cols) else 0))
  advance

/-- ACCWR (R312). -/
def accwrM (i : Instr) (d : DReg) (a : VReg) (g : GReg) : M Unit := do
  let v ← view
  requireState i (classXCode v.et && (v.span a).ok)
  let x ← tileWordOf (← gR g) false false
  if x.isEmpty then pure ()
  else
    let t ← accTile d x.rows x.cols 0
    require (v.et == accEt t.kind) cShape (descWord d)
    let img := (← strand).image v.regBits (v.span a)
    t.write (chunksOf x.cols (x.rows + 1) ((List.range (Nat.min v.n (x.rows * x.cols))).map fun r => elemAt v.w img r))
  advance

/-- ACCCVT (R313): SR draws by row and column; flags, SATM and the arithmetic trap by element. -/
def acccvtM (i : Instr) (d : DReg) (a : VReg) (g : GReg) : M Unit := do
  let v ← view
  requireState i (classXCode v.et && (v.span a).ok)
  checkRounding i v (!(classI v.et || v.et == 0x10) || bitsOf ((← strand).d[d]).toNat 31 30 != 2)
  let x ← tileWordOf (← gR g) false false
  if x.isEmpty then pure ()
  else
    let t ← accTile d x.rows x.cols 0
    let k := Nat.min v.n (x.rows * x.cols)
    let m ← t.read x.rows x.cols fun i j => decide (i * x.cols + j < k)
    let vals ← settle v false ((List.range k).map fun r =>
      (r, v.ty.round (v.modeXY (r % x.cols) (r / x.cols + 1)) ((accTy t.kind).num (matGet m (r / x.cols) (r % x.cols)))))
    writeVec v (v.span a) v.w (vals ++ (List.range (v.n - k)).map fun r => (k + r, 0))
  advance

/-- ACCRED (R314). -/
def accredM (d : DReg) (g : GReg) : M Unit := do
  let x ← tileWordOf (← gR g) true true
  if x.isEmpty then pure ()
  else
    require (x.count != 0) cShape x.word
    let ts ← (List.range x.count).mapM fun p => accTile d x.rows x.cols (p * x.pitch)
    let ms ← ts.mapM fun t => t.read x.rows x.cols fun _ _ => true
    match ts with
    | [] => pure ()
    | t :: _ =>
      let out := (List.range x.rows).map fun i => (List.range x.cols).map fun j =>
        combinePartials t.kind (ms.map fun m => matGet m i j)
      t.write (out.map fun row => row.map (·.1))
      raiseFlags (tileFlags out)
  advance

/-- ACCRD.D (R312). -/
def accrdDM (d : DReg) (q : Fin 2) : M Unit := do
  needRoom q
  pushResult q (((← strand).d[d]).zeroExtend 64)
  advance

/-- ACCWR.D (R312): bits 63:32 are ignored. -/
def accwrDM (d : DReg) (g : GReg) : M Unit := do
  let w ← gR g
  modStrand fun t => { t with d := t.d.set d.val (w.truncate 32) }
  advance

/-- MMA_T (R306): Multiplies A by B from a tile store into an accumulator tile. -/
def execMmaT (d : DReg) (a : VReg) (g : GReg) (s : State) : Host.Outcome State Fault Refusal :=
  perform (.mmaT d a g) (multiplyM (.mmaT d a g) .dense false d a g) s

/-- MMA_M (R306): Multiplies A by B from memory into an accumulator tile. -/
def execMmaM (d : DReg) (a : VReg) (g : GReg) (s : State) : Host.Outcome State Fault Refusal :=
  perform (.mmaM d a g) (multiplyM (.mmaM d a g) .dense true d a g) s

/-- MMAX_T (R307): Multiplies with gathered rows of B from a tile store. -/
def execMmaxT (d : DReg) (a : VReg) (b : VReg) (g : GReg) (s : State) : Host.Outcome State Fault Refusal :=
  perform (.mmaxT d a b g) (multiplyM (.mmaxT d a b g) (.gathered b) false d a g) s

/-- MMAX_M (R307): Multiplies with gathered rows of B from memory. -/
def execMmaxM (d : DReg) (a : VReg) (b : VReg) (g : GReg) (s : State) : Host.Outcome State Fault Refusal :=
  perform (.mmaxM d a b g) (multiplyM (.mmaxM d a b g) (.gathered b) true d a g) s

/-- MMAS_T (R308): Multiplies a 2-of-4 sparse A by B from a tile store. -/
def execMmasT (d : DReg) (a : VReg) (b : VReg) (g : GReg) (s : State) : Host.Outcome State Fault Refusal :=
  perform (.mmasT d a b g) (multiplyM (.mmasT d a b g) (.sparse b) false d a g) s

/-- MMAS_M (R308): Multiplies a 2-of-4 sparse A by B from memory. -/
def execMmasM (d : DReg) (a : VReg) (b : VReg) (g : GReg) (s : State) : Host.Outcome State Fault Refusal :=
  perform (.mmasM d a b g) (multiplyM (.mmasM d a b g) (.sparse b) true d a g) s

/-- ACCZ (R311): Zeroes an accumulator tile. -/
def execAccz (d : DReg) (g : GReg) (s : State) : Host.Outcome State Fault Refusal :=
  perform (.accz d g) (acczM d g) s

/-- ACCLD (R311): Loads an accumulator tile from memory. -/
def execAccld (d : DReg) (g : GReg) (s : State) : Host.Outcome State Fault Refusal :=
  perform (.accld d g) (accldM d g) s

/-- ACCST (R311): Stores an accumulator tile to memory. -/
def execAccst (d : DReg) (g : GReg) (s : State) : Host.Outcome State Fault Refusal :=
  perform (.accst d g) (accstM d g) s

/-- ACCRD (R312): Copies an accumulator tile into a vector register. -/
def execAccrd (d : DReg) (a : VReg) (g : GReg) (s : State) : Host.Outcome State Fault Refusal :=
  perform (.accrd d a g) (accrdM (.accrd d a g) d a g) s

/-- ACCWR (R312): Copies a vector register into an accumulator tile. -/
def execAccwr (d : DReg) (a : VReg) (g : GReg) (s : State) : Host.Outcome State Fault Refusal :=
  perform (.accwr d a g) (accwrM (.accwr d a g) d a g) s

/-- ACCCVT (R313): Converts an accumulator tile into a vector of VTYPE.ET. -/
def execAcccvt (d : DReg) (a : VReg) (g : GReg) (s : State) : Host.Outcome State Fault Refusal :=
  perform (.acccvt d a g) (acccvtM (.acccvt d a g) d a g) s

/-- ACCRED (R314): Combines split-K partial tiles in C64 order into partial 0. -/
def execAccred (d : DReg) (g : GReg) (s : State) : Host.Outcome State Fault Refusal :=
  perform (.accred d g) (accredM d g) s

/-- ACCRD_D (R312): Appends an accumulator descriptor to q6 or q7. -/
def execAccrdD (d : DReg) (q : Fin 2) (s : State) : Host.Outcome State Fault Refusal :=
  perform (.accrdD d q) (accrdDM d q) s

/-- ACCWR_D (R312): Writes an accumulator descriptor from a general register. -/
def execAccwrD (d : DReg) (g : GReg) (s : State) : Host.Outcome State Fault Refusal :=
  perform (.accwrD d g) (accwrDM d g) s

end Sys2Proof.Machine

end
end

