-- ==== Sys2Proof/Machine/Scalar.lean ====
section
/-! DEFINITION. Scalar integer and address instructions, scalar loads and stores, linked and conditional accesses (09
R204-R213). -/

noncomputable section

namespace Sys2Proof.Machine

/-- gd := f(ga, gb), then the next word (R204). -/
def gOp2 (d a b : GReg) (f : Word → Word → Word) : M Unit := do
  gW d (f (← gR a) (← gR b))
  advance

/-- gd := f(ga), then the next word. -/
def gOp1 (d a : GReg) (f : Word → Word) : M Unit := do
  gW d (f (← gR a))
  advance

/-- imm15 sign-extended (R185). -/
def simm (i : BitVec 15) : Word := i.signExtend 64

/-- imm15 zero-extended (R185). -/
def zimm (i : BitVec 15) : Word := i.zeroExtend 64

/-- The upper half of a 128-bit product. -/
def mulHigh (x y : Int) : Word := BitVec.ofInt 64 (x * y / 2 ^ 64)

/-- Signed quotient, truncated toward zero (R205). -/
def divS (a b : Word) : Word := if b = 0 then 0xFFFFFFFFFFFFFFFF else BitVec.ofInt 64 (a.toInt.tdiv b.toInt)

/-- Unsigned quotient (R205). -/
def divU (a b : Word) : Word := if b = 0 then 0xFFFFFFFFFFFFFFFF else BitVec.ofNat 64 (a.toNat / b.toNat)

/-- Signed remainder, with the sign of the dividend (R205). -/
def remS (a b : Word) : Word := if b = 0 then a else BitVec.ofInt 64 (a.toInt.tmod b.toInt)

/-- Unsigned remainder (R205). -/
def remU (a b : Word) : Word := if b = 0 then a else BitVec.ofNat 64 (a.toNat % b.toNat)

/-- Leading zeros, 0 to 64. -/
def clz64 (a : Word) : Word := if a = 0 then 64 else BitVec.ofNat 64 (63 - Nat.log2 a.toNat)

/-- Trailing zeros of a number, at most n. -/
def ctzGo : Nat → Nat → Nat
  | 0, _ => 0
  | n + 1, v => if v % 2 = 1 then 0 else ctzGo n (v / 2) + 1

/-- Trailing zeros, 0 to 64. -/
def ctz64 (a : Word) : Word := BitVec.ofNat 64 (ctzGo 64 a.toNat)

/-- 1 for true, 0 for false. -/
def boolWord (b : Bool) : Word := if b then 1 else 0

/-- A scalar load of n bytes at ga + imm, extended by `ext` (R208). -/
def loadTo (d a : GReg) (imm : BitVec 15) (n : Nat) (ext : Nat → Word) : M Unit := do
  let v ← loadScalar ((← gR a) + simm imm) n
  gW d (ext v)
  advance

/-- A scalar store of the low n bytes of gd at ga + imm (R208). -/
def storeFrom (d a : GReg) (imm : BitVec 15) (n : Nat) : M Unit := do
  let va := (← gR a) + simm imm
  let v ← gR d
  storeScalar va n (v.toNat % 256 ^ n)
  advance

/-- Zero extension of loaded bytes. -/
def zextWord (v : Nat) : Word := BitVec.ofNat 64 v

/-- The page and checks that LDL and STC share: alignment, R and W, no remote page, no system space, no converted page
(R211, R213). -/
def linkedPage (va : Word) : M PageTr := do
  require (va.toNat % 8 == 0) cMisaligned va
  let p ← translate .rw va
  if p.isSystem || leafMod p.leaf != (← get).moduleNum.val then trapAcc cProtection va 3 else pure ()
  if p.converts then formatTrap .rw va else pure ()
  return p

/-- LDL: the reservation is set to the word (R211). -/
def ldlM (d a : GReg) : M Unit := do
  let va ← gR a
  let p ← linkedPage va
  touchFrame p va.toNat 8 .ordinary
  let v ← readPage p va.toNat 8 .bypass false .access
  modHart fun h => { h with resv := some (p.cell va.toNat) }
  match (← get).turn with
  | .strand _ => pure ()
  | .cc n => modCc n.val fun c => { c with resvOwn := if leafSWA p.leaf then none else some (BitVec.ofNat 64 v) }
  gW d (BitVec.ofNat 64 v)
  advance

/-- Whether the reservation of the executing agent lets an STC to a cell store.  One that the control complex holds in its own cache
sees no write of the device side: where such a write came in between, the store may happen and lose it (R52, R212). -/
def resvHolds (cell : Nat) : M Bool := do
  let mine := (← hart).resv == some cell
  match (← get).turn with
  | .strand _ => return mine
  | .cc n =>
    match ((← get).cc n.val).resvOwn with
    | none => return mine
    | some v =>
      if BitVec.ofNat 64 (← readCell cell 8) = v then return mine
      else
        let k ← freshNum
        return mine && Config.mixLoses k

/-- STC: the store happens if the reservation names the word; the reservation is cleared, and the core's copy of the line dropped,
in either case (R211, R212). -/
def stcM (d a b : GReg) : M Unit := do
  let va ← gR a
  let x ← gR b
  let p ← linkedPage va
  let cell := p.cell va.toNat
  let ok ← resvHolds cell
  if ok then
    touchFrame p va.toNat 8 .ordinary
    countMix p cell
    atomicUpdate p cell (writePage p va.toNat 8 x.toNat .access)
  else pure ()
  l1DropMine cell 8
  modHart fun h => { h with resv := none }
  gW d (boolWord (!ok))
  advance

/-- ADD (R204): Writes the sum of ga and gb modulo 2^64 to gd. -/
def execAdd (d : GReg) (a : GReg) (b : GReg) (s : State) : Host.Outcome State Fault Refusal :=
  perform (.add d a b) (gOp2 d a b fun x y => x + y) s

/-- SUB (R204): Writes ga minus gb modulo 2^64 to gd. -/
def execSub (d : GReg) (a : GReg) (b : GReg) (s : State) : Host.Outcome State Fault Refusal :=
  perform (.sub d a b) (gOp2 d a b fun x y => x - y) s

/-- MUL (R204): Writes the low 64 bits of ga times gb to gd. -/
def execMul (d : GReg) (a : GReg) (b : GReg) (s : State) : Host.Outcome State Fault Refusal :=
  perform (.mul d a b) (gOp2 d a b fun x y => x * y) s

/-- MULH (R204): Writes the high 64 bits of the signed 128-bit product to gd. -/
def execMulh (d : GReg) (a : GReg) (b : GReg) (s : State) : Host.Outcome State Fault Refusal :=
  perform (.mulh d a b) (gOp2 d a b fun x y => mulHigh x.toInt y.toInt) s

/-- MULHN (R204): Writes the high 64 bits of the unsigned 128-bit product to gd. -/
def execMulhn (d : GReg) (a : GReg) (b : GReg) (s : State) : Host.Outcome State Fault Refusal :=
  perform (.mulhn d a b) (gOp2 d a b fun x y => mulHigh x.toNat y.toNat) s

/-- DIV (R205): Writes the signed quotient to gd, truncated toward zero; division never traps. -/
def execDiv (d : GReg) (a : GReg) (b : GReg) (s : State) : Host.Outcome State Fault Refusal :=
  perform (.div d a b) (gOp2 d a b fun x y => divS x y) s

/-- DIVN (R205): Writes the unsigned quotient to gd; division by zero gives all ones. -/
def execDivn (d : GReg) (a : GReg) (b : GReg) (s : State) : Host.Outcome State Fault Refusal :=
  perform (.divn d a b) (gOp2 d a b fun x y => divU x y) s

/-- REM (R205): Writes the signed remainder to gd, with the sign of ga. -/
def execRem (d : GReg) (a : GReg) (b : GReg) (s : State) : Host.Outcome State Fault Refusal :=
  perform (.rem d a b) (gOp2 d a b fun x y => remS x y) s

/-- REMN (R205): Writes the unsigned remainder to gd. -/
def execRemn (d : GReg) (a : GReg) (b : GReg) (s : State) : Host.Outcome State Fault Refusal :=
  perform (.remn d a b) (gOp2 d a b fun x y => remU x y) s

/-- AND (R204): Writes the bitwise AND of ga and gb to gd. -/
def execAnd (d : GReg) (a : GReg) (b : GReg) (s : State) : Host.Outcome State Fault Refusal :=
  perform (.and d a b) (gOp2 d a b fun x y => x &&& y) s

/-- OR (R204): Writes the bitwise OR of ga and gb to gd. -/
def execOr (d : GReg) (a : GReg) (b : GReg) (s : State) : Host.Outcome State Fault Refusal :=
  perform (.or d a b) (gOp2 d a b fun x y => x ||| y) s

/-- XOR (R204): Writes the bitwise XOR of ga and gb to gd. -/
def execXor (d : GReg) (a : GReg) (b : GReg) (s : State) : Host.Outcome State Fault Refusal :=
  perform (.xor d a b) (gOp2 d a b fun x y => x ^^^ y) s

/-- SHL (R204): Shifts ga left by gb[5:0]. -/
def execShl (d : GReg) (a : GReg) (b : GReg) (s : State) : Host.Outcome State Fault Refusal :=
  perform (.shl d a b) (gOp2 d a b fun x y => x <<< (y.toNat % 64)) s

/-- SHR (R204): Shifts ga right logically by gb[5:0]. -/
def execShr (d : GReg) (a : GReg) (b : GReg) (s : State) : Host.Outcome State Fault Refusal :=
  perform (.shr d a b) (gOp2 d a b fun x y => x >>> (y.toNat % 64)) s

/-- SRA (R204): Shifts ga right arithmetically by gb[5:0]. -/
def execSra (d : GReg) (a : GReg) (b : GReg) (s : State) : Host.Outcome State Fault Refusal :=
  perform (.sra d a b) (gOp2 d a b fun x y => x.sshiftRight (y.toNat % 64)) s

/-- SLT (R204): Writes 1 to gd if ga is less than gb as signed values, else 0. -/
def execSlt (d : GReg) (a : GReg) (b : GReg) (s : State) : Host.Outcome State Fault Refusal :=
  perform (.slt d a b) (gOp2 d a b fun x y => boolWord (x.slt y)) s

/-- SLTN (R204): Writes 1 to gd if ga is less than gb as unsigned values, else 0. -/
def execSltn (d : GReg) (a : GReg) (b : GReg) (s : State) : Host.Outcome State Fault Refusal :=
  perform (.sltn d a b) (gOp2 d a b fun x y => boolWord (x.ult y)) s

/-- MIN (R204): Writes the signed minimum of ga and gb to gd. -/
def execMin (d : GReg) (a : GReg) (b : GReg) (s : State) : Host.Outcome State Fault Refusal :=
  perform (.min d a b) (gOp2 d a b fun x y => if x.slt y then x else y) s

/-- MAX (R204): Writes the signed maximum of ga and gb to gd. -/
def execMax (d : GReg) (a : GReg) (b : GReg) (s : State) : Host.Outcome State Fault Refusal :=
  perform (.max d a b) (gOp2 d a b fun x y => if x.slt y then y else x) s

/-- CLZ (R204): Writes the number of leading zeros of ga to gd. -/
def execClz (d : GReg) (a : GReg) (s : State) : Host.Outcome State Fault Refusal :=
  perform (.clz d a) (gOp1 d a clz64) s

/-- CTZ (R204): Writes the number of trailing zeros of ga to gd. -/
def execCtz (d : GReg) (a : GReg) (s : State) : Host.Outcome State Fault Refusal :=
  perform (.ctz d a) (gOp1 d a ctz64) s

/-- POPC (R204): Writes the number of set bits of ga to gd. -/
def execPopc (d : GReg) (a : GReg) (s : State) : Host.Outcome State Fault Refusal :=
  perform (.popc d a) (gOp1 d a (fun x => BitVec.ofNat 64 (popCount x.toNat 64))) s

/-- LDL (R211): Loads the 8-byte word at ga and sets the strand's reservation on it. -/
def execLdl (d : GReg) (a : GReg) (s : State) : Host.Outcome State Fault Refusal :=
  perform (.ldl d a) (ldlM d a) s

/-- STC (R211): Stores gb at ga if the reservation is still valid, writes the outcome to gd and clears the reservation. -/
def execStc (d : GReg) (a : GReg) (b : GReg) (s : State) : Host.Outcome State Fault Refusal :=
  perform (.stc d a b) (stcM d a b) s

/-- ADDI (R206): Adds the sign-extended immediate to ga. -/
def execAddi (d : GReg) (a : GReg) (imm : BitVec 15) (s : State) : Host.Outcome State Fault Refusal :=
  perform (.addi d a imm) (gOp1 d a fun x => x + simm imm) s

/-- ANDI (R206): Takes the bitwise AND of ga and the zero-extended immediate. -/
def execAndi (d : GReg) (a : GReg) (imm : BitVec 15) (s : State) : Host.Outcome State Fault Refusal :=
  perform (.andi d a imm) (gOp1 d a fun x => x &&& zimm imm) s

/-- ORI (R206): Takes the bitwise OR of ga and the zero-extended immediate. -/
def execOri (d : GReg) (a : GReg) (imm : BitVec 15) (s : State) : Host.Outcome State Fault Refusal :=
  perform (.ori d a imm) (gOp1 d a fun x => x ||| zimm imm) s

/-- XORI (R206): Takes the bitwise XOR of ga and the zero-extended immediate. -/
def execXori (d : GReg) (a : GReg) (imm : BitVec 15) (s : State) : Host.Outcome State Fault Refusal :=
  perform (.xori d a imm) (gOp1 d a fun x => x ^^^ zimm imm) s

/-- SHLI (R206): Shifts ga left by imm[5:0]. -/
def execShli (d : GReg) (a : GReg) (imm : BitVec 6) (s : State) : Host.Outcome State Fault Refusal :=
  perform (.shli d a imm) (gOp1 d a fun x => x <<< imm.toNat) s

/-- SHRI (R206): Shifts ga right logically by imm[5:0]. -/
def execShri (d : GReg) (a : GReg) (imm : BitVec 6) (s : State) : Host.Outcome State Fault Refusal :=
  perform (.shri d a imm) (gOp1 d a fun x => x >>> imm.toNat) s

/-- SRAI (R206): Shifts ga right arithmetically by imm[5:0]. -/
def execSrai (d : GReg) (a : GReg) (imm : BitVec 6) (s : State) : Host.Outcome State Fault Refusal :=
  perform (.srai d a imm) (gOp1 d a fun x => x.sshiftRight imm.toNat) s

/-- SLTI (R206): Writes 1 to gd if ga is less than the immediate as signed values, else 0. -/
def execSlti (d : GReg) (a : GReg) (imm : BitVec 15) (s : State) : Host.Outcome State Fault Refusal :=
  perform (.slti d a imm) (gOp1 d a fun x => boolWord (x.slt (simm imm))) s

/-- LUI (R206): Writes the sign-extended immediate times 2^15 to gd. -/
def execLui (d : GReg) (imm : BitVec 15) (s : State) : Host.Outcome State Fault Refusal :=
  perform (.lui d imm) (do gW d (simm imm <<< 15); advance) s

/-- ADDPC (R206): Writes its own address plus the immediate times 2^15 to gd. -/
def execAddpc (d : GReg) (imm : BitVec 15) (s : State) : Host.Outcome State Fault Refusal :=
  perform (.addpc d imm) (do gW d ((← pcR) + (simm imm <<< 15)); advance) s

/-- LD_B (R208): Loads 1 byte into gd, sign-extended. -/
def execLdB (d : GReg) (a : GReg) (imm : BitVec 15) (s : State) : Host.Outcome State Fault Refusal :=
  perform (.ldB d a imm) (loadTo d a imm 1 (sextNat 8)) s

/-- LD_H (R208): Loads 2 bytes into gd, sign-extended. -/
def execLdH (d : GReg) (a : GReg) (imm : BitVec 15) (s : State) : Host.Outcome State Fault Refusal :=
  perform (.ldH d a imm) (loadTo d a imm 2 (sextNat 16)) s

/-- LD_W (R208): Loads 4 bytes into gd, sign-extended. -/
def execLdW (d : GReg) (a : GReg) (imm : BitVec 15) (s : State) : Host.Outcome State Fault Refusal :=
  perform (.ldW d a imm) (loadTo d a imm 4 (sextNat 32)) s

/-- LD_D (R208): Loads 8 bytes into gd. -/
def execLdD (d : GReg) (a : GReg) (imm : BitVec 15) (s : State) : Host.Outcome State Fault Refusal :=
  perform (.ldD d a imm) (loadTo d a imm 8 (sextNat 64)) s

/-- LD_B_N (R208): Loads 1 byte into gd, zero-extended. -/
def execLdBN (d : GReg) (a : GReg) (imm : BitVec 15) (s : State) : Host.Outcome State Fault Refusal :=
  perform (.ldBN d a imm) (loadTo d a imm 1 zextWord) s

/-- LD_H_N (R208): Loads 2 bytes into gd, zero-extended. -/
def execLdHN (d : GReg) (a : GReg) (imm : BitVec 15) (s : State) : Host.Outcome State Fault Refusal :=
  perform (.ldHN d a imm) (loadTo d a imm 2 zextWord) s

/-- LD_W_N (R208): Loads 4 bytes into gd, zero-extended. -/
def execLdWN (d : GReg) (a : GReg) (imm : BitVec 15) (s : State) : Host.Outcome State Fault Refusal :=
  perform (.ldWN d a imm) (loadTo d a imm 4 zextWord) s

/-- ST_B (R208): Stores the low byte of gd. -/
def execStB (d : GReg) (a : GReg) (imm : BitVec 15) (s : State) : Host.Outcome State Fault Refusal :=
  perform (.stB d a imm) (storeFrom d a imm 1) s

/-- ST_H (R208): Stores the low 2 bytes of gd. -/
def execStH (d : GReg) (a : GReg) (imm : BitVec 15) (s : State) : Host.Outcome State Fault Refusal :=
  perform (.stH d a imm) (storeFrom d a imm 2) s

/-- ST_W (R208): Stores the low 4 bytes of gd. -/
def execStW (d : GReg) (a : GReg) (imm : BitVec 15) (s : State) : Host.Outcome State Fault Refusal :=
  perform (.stW d a imm) (storeFrom d a imm 4) s

/-- ST_D (R208): Stores all 8 bytes of gd. -/
def execStD (d : GReg) (a : GReg) (imm : BitVec 15) (s : State) : Host.Outcome State Fault Refusal :=
  perform (.stD d a imm) (storeFrom d a imm 8) s

end Sys2Proof.Machine

end
end

