-- ==== Sys2Proof/Machine/ScalarFp.lean ====
section
/-! DEFINITION. Scalar floating point (09 R214-R219). -/

noncomputable section

namespace Sys2Proof.Machine

/-- The type of fn[2:0] (R214). -/
def scalarFmt (t : Fin 8) : FFmt :=
  match t.val with
  | 0 => fp64
  | 1 => fp32
  | 2 => fp16
  | _ => bf16

/-- The rounding mode of fn[9:7]; SR and the reserved codes are ill-formed (R214). -/
def scalarMode (r : Fin 8) : RMode := (rmodeOf r.val 0).getD .rne

/-- Raising flags from the access side; a flag whose enable is set takes the arithmetic trap (R219). -/
def raiseScalar (fl : FlagSet) : M Unit := do
  modHart fun h => { h with status := h.status ||| fl.zeroExtend 64 }
  let h ← hart
  if fieldOf h.status 12 8 &&& fl.toNat = 0 then pure () else trap cArithmetic 0

/-- A scalar floating-point result: flags, the trap they may take, then gd (R215, R219). -/
def fpResult (d : GReg) (r : Res) : M Unit := do
  raiseScalar r.flags
  gW d (BitVec.ofNat 64 r.bits)
  advance

/-- A register's code of a format: the low bits (R215). -/
def gCode (f : FFmt) (a : GReg) : M Nat := do return (← gR a).toNat % 2 ^ f.width

/-- A two-operand form (R216). -/
def fpOp2 (d a b : GReg) (t : Fin 8) (op : FFmt → Nat → Nat → Res) : M Unit := do
  let f := scalarFmt t
  let x ← gCode f a
  let y ← gCode f b
  fpResult d (op f x y)

/-- FFMA (R216). -/
def ffmaM (d a b : GReg) (r t : Fin 8) : M Unit := do
  let f := scalarFmt t
  let x ← gCode f a
  let y ← gCode f b
  let z ← gCode f d
  fpResult d (f.fma (scalarMode r) (f.decode x) (f.decode y) (f.decode z))

/-- FSQRT (R216). -/
def fsqrtM (d a : GReg) (r t : Fin 8) : M Unit := do
  let f := scalarFmt t
  let x ← gCode f a
  fpResult d (f.sqrt (scalarMode r) x)

/-- The 4-bit relation of FCMP (R217). -/
def relation (x y : Num) : Nat :=
  if x.isNan || y.isNan then 8
  else
    match numCmp x y with
    | .lt => 1
    | .eq => 2
    | .gt => 4

/-- FCMP (R217): NV for a signalling NaN only. -/
def fcmpM (d a b : GReg) (t : Fin 8) : M Unit := do
  let f := scalarFmt t
  let x := f.decode (← gCode f a)
  let y := f.decode (← gCode f b)
  fpResult d ⟨relation x y, if x.isSnan || y.isSnan then flagNV else 0, false⟩

/-- The types of FCVT (R218, Table 5). -/
def cvtTy (c : Fin 8) : ElemTy :=
  match c.val with
  | 4 => .int true 64
  | 5 => .int false 64
  | 6 => .int true 32
  | 7 => .int false 32
  | _ => .flt (scalarFmt c)

/-- A converted code as gd holds it: INT32 sign-extended, everything else zero-extended (R218). -/
def cvtWord (c : Fin 8) (v : Nat) : Word := if c.val = 6 then sextNat 32 v else BitVec.ofNat 64 v

/-- FCVT (R218). -/
def fcvtM (d a : GReg) (src r t : Fin 8) : M Unit := do
  let x ← gR a
  let res := (cvtTy t).round (scalarMode r) ((cvtTy src).num x.toNat)
  raiseScalar res.flags
  gW d (cvtWord t res.bits)
  advance

/-- FADD (R216): Adds two scalar floating-point values of type T. -/
def execFadd (d : GReg) (a : GReg) (b : GReg) (r : Fin 8) (t : Fin 8) (s : State) : Host.Outcome State Fault Refusal :=
  perform (.fadd d a b r t) (fpOp2 d a b t fun f => f.add (scalarMode r)) s

/-- FSUB (R216): Subtracts two scalar floating-point values. -/
def execFsub (d : GReg) (a : GReg) (b : GReg) (r : Fin 8) (t : Fin 8) (s : State) : Host.Outcome State Fault Refusal :=
  perform (.fsub d a b r t) (fpOp2 d a b t fun f => f.sub (scalarMode r)) s

/-- FMUL (R216): Multiplies two scalar floating-point values. -/
def execFmul (d : GReg) (a : GReg) (b : GReg) (r : Fin 8) (t : Fin 8) (s : State) : Host.Outcome State Fault Refusal :=
  perform (.fmul d a b r t) (fpOp2 d a b t fun f => f.mul (scalarMode r)) s

/-- FFMA (R216): Computes ga×gb+gd with one rounding. -/
def execFfma (d : GReg) (a : GReg) (b : GReg) (r : Fin 8) (t : Fin 8) (s : State) : Host.Outcome State Fault Refusal :=
  perform (.ffma d a b r t) (ffmaM d a b r t) s

/-- FDIV (R216): Divides two scalar floating-point values. -/
def execFdiv (d : GReg) (a : GReg) (b : GReg) (r : Fin 8) (t : Fin 8) (s : State) : Host.Outcome State Fault Refusal :=
  perform (.fdiv d a b r t) (fpOp2 d a b t fun f => f.div (scalarMode r)) s

/-- FSQRT (R216): Takes the scalar square root. -/
def execFsqrt (d : GReg) (a : GReg) (r : Fin 8) (t : Fin 8) (s : State) : Host.Outcome State Fault Refusal :=
  perform (.fsqrt d a r t) (fsqrtM d a r t) s

/-- FCMP (R217): Writes the 4-bit relation of two scalar floating-point values. -/
def execFcmp (d : GReg) (a : GReg) (b : GReg) (t : Fin 8) (s : State) : Host.Outcome State Fault Refusal :=
  perform (.fcmp d a b t) (fcmpM d a b t) s

/-- FCVT (R218): Converts a scalar between floating-point and integer types. -/
def execFcvt (d : GReg) (a : GReg) (r0 : Fin 8) (r : Fin 8) (t : Fin 8) (s : State) : Host.Outcome State Fault Refusal :=
  perform (.fcvt d a r0 r t) (fcvtM d a r0 r t) s

end Sys2Proof.Machine

end
end

