-- ==== Sys2Proof/Machine/VecPerm.lean ====
section
/-! DEFINITION. Permutes, scans, reductions, canonical folds and VCONFLICT (10 R267-R272). -/

noncomputable section

namespace Sys2Proof.Machine

/-- A permute by a scalar: selected element i takes source element `f i`, zero where it is none or lies at or beyond n, and
stays where `f` keeps it (R267). -/
def slideM (i : Instr) (d a : VReg) (b : GReg) (mk : MReg) (me : Bool) (up : Bool) : M Unit := do
  let m := modsOf mk me
  let v ← vecPre i classXCode false true (fun v => some (v.span d)) (fun v => unlessQueue m.qa (v.span a))
  let x ← source v m.qa (v.span a) v.w
  let s := (← scalarSource m.qs b).toNat
  let sel := (← strand).selected v m
  let vals := if up then (sel.filter fun k => decide (s ≤ k)).map fun k => (k, x (k - s))
    else sel.map fun k => (k, if k + s < v.n then x (k + s) else 0)
  popUsed m
  writeVec v (v.span d) v.w vals
  advance

/-- VSHUF (R267). -/
def vshufM (i : Instr) (d a b : VReg) (mk : MReg) (me : Bool) : M Unit := do
  let m := modsOf mk me
  let v ← vecPre i classXCode false true (fun v => some (v.span d))
    (fun v => unlessQueue m.qa (v.span a) ++ unlessQueue m.qb (v.span b))
  let x ← source v m.qa (v.span a) v.w
  let y ← source v m.qb (v.span b) v.w
  let sel := (← strand).selected v m
  popUsed m
  writeVec v (v.span d) v.w (sel.map fun k => (k, if y k < v.n then x (y k) else 0))
  advance

/-- VREV (R267). -/
def vrevM (i : Instr) (d a : VReg) (mk : MReg) (me : Bool) : M Unit := do
  let m := modsOf mk me
  let v ← vecPre i classXCode false true (fun v => some (v.span d)) (fun v => unlessQueue m.qa (v.span a))
  let x ← source v m.qa (v.span a) v.w
  let sel := (← strand).selected v m
  popUsed m
  writeVec v (v.span d) v.w (sel.map fun k => (k, x (v.n - 1 - k)))
  advance

/-- Where an instruction of KIND 2 goes on: mask elements examined, elements moved (R246, R268). -/
def Strand.kind2 (t : Strand) : Nat × Nat :=
  if t.stoppedAt 2 then (fieldOf t.vprog 15 0, fieldOf t.vprog 31 16) else (0, 0)

/-- VCOMPRESS: VL becomes the number of selected elements (R268); at VL = 0 it stays (R273). -/
def vcompressM (i : Instr) (d a : VReg) (mk : MReg) : M Unit := do
  let v ← vecPre i classXCode false true (fun v => some (v.span d)) (fun v => [v.span a])
  let x ← source v none (v.span a) v.w
  let t ← strand
  let (seen, moved) := t.kind2
  let sel := (t.selected v (modsOf mk true)).filter fun k => decide (seen ≤ k)
  let c := moved + sel.length
  modStrand fun t =>
    let img := sel.zipIdx.foldl (fun g e => setElem v.w g (moved + e.2) (x e.1)) (t.image v.regBits (v.span d))
    let t := t.setImage v.regBits (v.span d) img
    if v.vl = 0 then t else { t with vl := BitVec.ofNat 64 (c * 2 ^ 32 + c), vpad := 0 }
  clearProgress 2
  advance

/-- VEXPAND (R268). -/
def vexpandM (i : Instr) (d a : VReg) (mk : MReg) : M Unit := do
  let v ← vecPre i classXCode false true (fun v => some (v.span d)) (fun v => [v.span a])
  let x ← source v none (v.span a) v.w
  let t ← strand
  let (seen, moved) := t.kind2
  let sel := (t.selected v (modsOf mk true)).filter fun k => decide (seen ≤ k)
  writeVec v (v.span d) v.w (sel.zipIdx.map fun e => (e.1, x (moved + e.2)))
  clearProgress 2
  advance

/-- The running values of an inclusive scan over the selected elements (R269).  The first is a copy: the bits of a NaN stay as they are,
and a signalling one raises nothing (log 91). -/
def scanGo (op : ElemOp) (v : VView) (x : Nat → Nat) : List Nat → Option Nat → List (Nat × Res)
  | [], _ => []
  | k :: r, none => (k, quiet (x k)) :: scanGo op v x r (some (x k))
  | k :: r, some y =>
    let z := op v.ty (v.mode k) y (x k)
    (k, z) :: scanGo op v x r (some z.bits)

/-- VSCAN (R269). -/
def vscanM (i : Instr) (rounds : Bool) (op : ElemOp) (d a : VReg) (mk : MReg) (me : Bool) : M Unit := do
  let m := modsOf mk me
  let v ← vecPre i classFI rounds true (fun v => some (v.span d)) (fun v => unlessQueue m.qa (v.span a))
  let x ← source v m.qa (v.span a) v.w
  vecFinish v m (v.span d) v.w (scanGo op v x ((← strand).selected v m) none)

/-- The precision at which a sum of an element type is formed (R270). -/
def VView.sumFmt (v : VView) : FFmt := if v.et = 1 then fp64 else fp32

/-- A float code of the element type at that precision. -/
def VView.widen (v : VView) (x : Nat) : Res := v.sumFmt.round .rne (v.ty.num x)

/-- The start value and the elements of a reduction: masked-off elements of a sum read as +0 (R94, R270). -/
structure RedIn where
  s : Nat
  xs : List Nat
  selected : List Nat
deriving DecidableEq, Repr

/-- VREDSUM's result (R270). -/
def redSum (v : VView) (r : RedIn) : Res :=
  match v.ty with
  | .int _ w => quiet ((r.s + r.selected.foldl (· + ·) 0) % 2 ^ w)
  | .flt f =>
    let ws := r.xs.map v.widen
    let (t, fl) := c64Sum v.sumFmt (ws.map (·.bits))
    let s := v.widen r.s
    let u := v.sumFmt.add .rne s.bits t
    let z := f.round .rne (v.sumFmt.decode u.bits)
    { z with flags := z.flags ||| u.flags ||| s.flags ||| fl ||| ws.foldl (fun a x => a ||| x.flags) 0 }

/-- Adding codes two at a time in the order of the picks (R270); `n` bounds the additions, `k` counts the picks. -/
def pickSum (f : FFmt) : Nat → Nat → List Nat → FlagSet → Nat × FlagSet
  | 0, _, l, fl => (l.headD 0, fl)
  | n + 1, k, l, fl =>
    let i := Config.sumPick k % l.length
    let rest := l.eraseIdx i
    if rest.isEmpty then (l.headD 0, fl)
    else
      let j := Config.sumPick (k + 1) % rest.length
      let z := f.add .rne (l.getD i 0) (rest.getD j 0)
      pickSum f n (k + 2) (z.bits :: rest.eraseIdx j) (fl ||| z.flags)

/-- VREDSUM.F's result (R270), the order taken from free values from number k on. -/
def redSumFree (k : Nat) (v : VView) (r : RedIn) : Res :=
  match v.ty with
  | .int _ _ => redSum v r
  | .flt f =>
    let ws := (r.s :: r.xs).map v.widen
    let (u, fl) := pickSum v.sumFmt ws.length k (ws.map (·.bits)) (ws.foldl (fun a x => a ||| x.flags) 0)
    let z := f.round .rne (v.sumFmt.decode u)
    { z with flags := z.flags ||| fl }

/-- VREDMAX's and VREDMIN's result (R270); a result taken from one input alone is a copy, NaN bits included (log 91). -/
def redMinMax (greatest : Bool) (v : VView) (r : RedIn) : Res :=
  r.selected.foldl (fun a x =>
    let z := elemMinMax greatest v.ty .rne a.bits x
    { z with flags := z.flags ||| a.flags }) (quiet r.s)

/-- What a reduction reads, and its checks (R238, R270). -/
def redRead (i : Instr) (dst : VView → Option Span) (a b : VReg) (mk : MReg) (me : Bool) : M (VView × RedIn) := do
  let m := modsOf mk me
  let v ← vecPre i classFI false false dst (fun v => unlessQueue m.qa (v.span a) ++ unlessQueue m.qb (v.span b))
  let x ← source v m.qa (v.span a) v.w
  let y ← source v m.qb (v.span b) v.w
  let t ← strand
  return (v, { s := y 0, xs := (List.range v.n).map fun k => if t.selects m k then x k else 0, selected := (t.selected v m).map x })

/-- The result of a reduction, counted as element 0: flags, SATM, an enabled trap (R270). -/
def redSettle (v : VView) (r : RedIn) (f : VView → RedIn → Res) : M Nat := do
  if v.n = 0 then return r.s
  else
    let vals ← settle v false [(0, f v r)]
    return vals.foldl (fun _ x => x.2) 0

/-- The refusal of an arrival-order sum in Reproducible mode (R21, R270). -/
def refuseRepro (i : Instr) (free : Bool) : M Unit := do
  require (!(free && (← strand).hart.repro)) cIllegal (wordOf i)

/-- Writing element 0 of a vector group; every other element is unchanged (R270). -/
def writeFirst (v : VView) (d : Span) (x : Nat) : M Unit :=
  modStrand fun t => t.setImage v.regBits d (setElem v.w (t.image v.regBits d) 0 x)

/-- A reduction to a vector register; `free` for VREDSUM.F, with the free values it draws. -/
def redM (i : Instr) (free : Bool) (f : Nat → VView → RedIn → Res) (d a b : VReg) (mk : MReg) (me : Bool) : M Unit := do
  refuseRepro i free
  let (v, r) ← redRead i (fun v => some (v.span d)) a b mk me
  let k := (← get).fresh
  let x ← redSettle v r (f k)
  if free then modify fun s => { s with fresh := s.fresh + 2 * v.n + 2 } else pure ()
  popUsed (modsOf mk me)
  writeFirst v (v.span d) x
  advance

/-- A reduction to q6 or q7. -/
def redQM (i : Instr) (free : Bool) (f : Nat → VView → RedIn → Res) (q : Fin 2) (a b : VReg) (mk : MReg) (me : Bool) :
    M Unit := do
  refuseRepro i free
  let (v, r) ← redRead i (fun _ => none) a b mk me
  needRoom q
  let k := (← get).fresh
  let x ← redSettle v r (f k)
  if free then modify fun s => { s with fresh := s.fresh + 2 * v.n + 2 } else pure ()
  popUsed (modsOf mk me)
  pushResult q (BitVec.ofNat 64 x)
  advance

/-- The precision of a k register. -/
def KState.fmt (k : KState) : FFmt := if k.prec then fp64 else fp32

/-- The state of a k register as C64 computes on it (R92). -/
def KState.toC64 (k : KState) : C64 :=
  { slot := k.slot.toList.map (·.toNat), nch := k.nch.toNat, cidx := k.cidx.toNat, part := k.part.toNat, fl := 0 }

/-- A k register from a C64 state. -/
def KState.ofC64 (prec : Bool) (c : C64) : KState :=
  { slot := Vector.ofFn fun j => BitVec.ofNat 64 (c.slot.getD j.val 0), nch := BitVec.ofNat 32 c.nch, prec := prec,
    cidx := BitVec.ofNat 6 c.cidx, part := BitVec.ofNat 64 c.part }

/-- Whether a k register is empty (R92). -/
def KState.isEmpty (k : KState) : Bool := k.nch == 0 && k.cidx == 0

/-- The shape trap of a k register (R93). -/
def kTrap {α : Type} (k : KReg) : M α := trap cShape (BitVec.ofNat 64 k.val)

/-- The pushes of VFOLD, in element order; each keeps the flags it raised (R93, R271). -/
def foldPushes (f : FFmt) : List (Nat × Res) → C64 → Option (C64 × List (Nat × Res))
  | [], c => some (c, [])
  | (i, x) :: r, c =>
    match C64.push f { c with fl := 0 } x.bits with
    | none => none
    | some c' =>
      match foldPushes f r c' with
      | none => none
      | some (e, l) => some (e, (i, { x with flags := x.flags ||| c'.fl }) :: l)

/-- VFOLD (R271): at VL = 0 nothing is pushed and nothing changes (R273). -/
def vfoldM (i : Instr) (j : KReg) (a : VReg) (mk : MReg) (me : Bool) : M Unit := do
  let m := modsOf mk me
  let v ← vecPre i classF false false (fun _ => none) (fun v => unlessQueue m.qa (v.span a))
  let x ← source v m.qa (v.span a) v.w
  let t ← strand
  let prec := v.et == 1
  let k := t.k[j]
  if v.n = 0 then
    popUsed m
    advance
  else
    if !k.isEmpty && k.prec != prec then kTrap j else pure ()
    let xs := (List.range v.n).map fun e => (e, if t.selects m e then v.widen (x e) else quiet 0)
    match foldPushes v.sumFmt xs k.toC64 with
    | none => kTrap j
    | some (c, rs) =>
      let _ ← settle v false (rs.map fun r => (r.1, { r.2 with sat := false }))
      modStrand fun t => { t with k := t.k.set j.val (KState.ofC64 prec c) }
      popUsed m
      advance

/-- C64Final of a k register with its flags, or the shape trap (R93). -/
def kFinal (j : KReg) : M Res := do
  let k := (← strand).k[j]
  match k.toC64.final k.fmt with
  | some (x, fl) => return ⟨x, fl, false⟩
  | none => kTrap j

/-- VFOLD.FIN (R271). -/
def vfoldFinM (i : Instr) (d : VReg) (j : KReg) : M Unit := do
  let v ← vecPre i classF false false (fun v => some (v.span d)) (fun _ => [])
  let k := (← strand).k[j]
  let r ← kFinal j
  let z := v.ty.round .rne (k.fmt.decode r.bits)
  let vals ← settle v false [(0, { z with flags := z.flags ||| r.flags })]
  writeFirst v (v.span d) (vals.foldl (fun _ x => x.2) 0)
  advance

/-- VFOLD.CLR (R271). -/
def vfoldClrM (j : KReg) : M Unit := do
  modStrand fun t => { t with k := t.k.set j.val KState.empty }
  advance

/-- VFOLD.FIN.Q (R271). -/
def vfoldFinQM (q : Fin 2) (j : KReg) : M Unit := do
  let v ← view
  needRoom q
  let r ← kFinal j
  let _ ← settle v false [(0, r)]
  pushResult q (BitVec.ofNat 64 r.bits)
  advance

/-- VCONFLICT (R272). -/
def vconflictM (i : Instr) (d a : VReg) (mk : MReg) (me : Bool) : M Unit := do
  let m := modsOf mk me
  let v ← vecPre i classI false false (fun v => some (v.span d)) (fun v => unlessQueue m.qa (v.span a))
  let x ← source v m.qa (v.span a) v.w
  let sel := (← strand).selected v m
  let last := fun (k : Nat) => (sel.filter fun j => decide (j < k) && x j == x k).getLast?
  popUsed m
  writeVec v (v.span d) v.w (sel.map fun k => (k, match last k with
    | some j => j % 2 ^ v.w
    | none => 2 ^ v.w - 1))
  advance

/-- VSLIDEUP (R267): Slides elements up by gb. -/
def execVslideup (d : VReg) (a : VReg) (b : GReg) (mk : MReg) (me : Bool) (s : State) : Host.Outcome State Fault Refusal :=
  perform (.vslideup d a b mk me) (slideM (.vslideup d a b mk me) d a b mk me true) s

/-- VSLIDEDN (R267): Slides elements down by gb. -/
def execVslidedn (d : VReg) (a : VReg) (b : GReg) (mk : MReg) (me : Bool) (s : State) : Host.Outcome State Fault Refusal :=
  perform (.vslidedn d a b mk me) (slideM (.vslidedn d a b mk me) d a b mk me false) s

/-- VSHUF (R267): Permutes elements by an index vector. -/
def execVshuf (d : VReg) (a : VReg) (b : VReg) (mk : MReg) (me : Bool) (s : State) : Host.Outcome State Fault Refusal :=
  perform (.vshuf d a b mk me) (vshufM (.vshuf d a b mk me) d a b mk me) s

/-- VREV (R267): Reverses the elements below n. -/
def execVrev (d : VReg) (a : VReg) (mk : MReg) (me : Bool) (s : State) : Host.Outcome State Fault Refusal :=
  perform (.vrev d a mk me) (vrevM (.vrev d a mk me) d a mk me) s

/-- VCOMPRESS (R268): Packs the selected elements to the front and sets VL, resynchronising the sides. -/
def execVcompress (d : VReg) (a : VReg) (mk : MReg) (s : State) : Host.Outcome State Fault Refusal :=
  perform (.vcompress d a mk) (vcompressM (.vcompress d a mk) d a mk) s

/-- VEXPAND (R268): Spreads consecutive source elements into the selected positions. -/
def execVexpand (d : VReg) (a : VReg) (mk : MReg) (s : State) : Host.Outcome State Fault Refusal :=
  perform (.vexpand d a mk) (vexpandM (.vexpand d a mk) d a mk) s

/-- VSCAN (R269): Computes an inclusive add scan over the selected elements. -/
def execVscan (d : VReg) (a : VReg) (mk : MReg) (me : Bool) (s : State) : Host.Outcome State Fault Refusal :=
  perform (.vscan d a mk me) (vscanM (.vscan d a mk me) true elemAdd d a mk me) s

/-- VSCAN_MIN (R269): Computes an inclusive minimum scan. -/
def execVscanMin (d : VReg) (a : VReg) (mk : MReg) (me : Bool) (s : State) : Host.Outcome State Fault Refusal :=
  perform (.vscanMin d a mk me) (vscanM (.vscanMin d a mk me) false (elemMinMax false) d a mk me) s

/-- VSCAN_MAX (R269): Computes an inclusive maximum scan. -/
def execVscanMax (d : VReg) (a : VReg) (mk : MReg) (me : Bool) (s : State) : Host.Outcome State Fault Refusal :=
  perform (.vscanMax d a mk me) (vscanM (.vscanMax d a mk me) false (elemMinMax true) d a mk me) s

/-- VREDSUM (R270): Sums the elements in C64 order, with a start value, into element 0. -/
def execVredsum (d : VReg) (a : VReg) (b : VReg) (mk : MReg) (me : Bool) (s : State) : Host.Outcome State Fault Refusal :=
  perform (.vredsum d a b mk me) (redM (.vredsum d a b mk me) false (fun _ => redSum) d a b mk me) s

/-- VREDSUM_Q (R270): Sums in C64 order and appends the result to q6 or q7. -/
def execVredsumQ (q : Fin 2) (a : VReg) (b : VReg) (mk : MReg) (me : Bool) (s : State) : Host.Outcome State Fault Refusal :=
  perform (.vredsumQ q a b mk me) (redQM (.vredsumQ q a b mk me) false (fun _ => redSum) q a b mk me) s

/-- VREDSUM_F (R270): Sums the elements in a hardware-chosen order; refused in Reproducible mode. -/
def execVredsumF (d : VReg) (a : VReg) (b : VReg) (mk : MReg) (me : Bool) (s : State) : Host.Outcome State Fault Refusal :=
  perform (.vredsumF d a b mk me) (redM (.vredsumF d a b mk me) true redSumFree d a b mk me) s

/-- VREDSUM_F_Q (R270): Sums in a hardware-chosen order and appends the result to q6 or q7. -/
def execVredsumFQ (q : Fin 2) (a : VReg) (b : VReg) (mk : MReg) (me : Bool) (s : State) : Host.Outcome State Fault Refusal :=
  perform (.vredsumFQ q a b mk me) (redQM (.vredsumFQ q a b mk me) true redSumFree q a b mk me) s

/-- VREDMAX (R270): Reduces to the maximum. -/
def execVredmax (d : VReg) (a : VReg) (b : VReg) (mk : MReg) (me : Bool) (s : State) : Host.Outcome State Fault Refusal :=
  perform (.vredmax d a b mk me) (redM (.vredmax d a b mk me) false (fun _ => redMinMax true) d a b mk me) s

/-- VREDMAX_Q (R270): Reduces to the maximum and appends it to q6 or q7. -/
def execVredmaxQ (q : Fin 2) (a : VReg) (b : VReg) (mk : MReg) (me : Bool) (s : State) : Host.Outcome State Fault Refusal :=
  perform (.vredmaxQ q a b mk me) (redQM (.vredmaxQ q a b mk me) false (fun _ => redMinMax true) q a b mk me) s

/-- VREDMIN (R270): Reduces to the minimum. -/
def execVredmin (d : VReg) (a : VReg) (b : VReg) (mk : MReg) (me : Bool) (s : State) : Host.Outcome State Fault Refusal :=
  perform (.vredmin d a b mk me) (redM (.vredmin d a b mk me) false (fun _ => redMinMax false) d a b mk me) s

/-- VREDMIN_Q (R270): Reduces to the minimum and appends it to q6 or q7. -/
def execVredminQ (q : Fin 2) (a : VReg) (b : VReg) (mk : MReg) (me : Bool) (s : State) : Host.Outcome State Fault Refusal :=
  perform (.vredminQ q a b mk me) (redQM (.vredminQ q a b mk me) false (fun _ => redMinMax false) q a b mk me) s

/-- VFOLD (R271): Pushes the elements into a k register in C64 order. -/
def execVfold (k : KReg) (a : VReg) (mk : MReg) (me : Bool) (s : State) : Host.Outcome State Fault Refusal :=
  perform (.vfold k a mk me) (vfoldM (.vfold k a mk me) k a mk me) s

/-- VFOLD_FIN (R271): Writes the C64 result of a k register to element 0. -/
def execVfoldFin (d : VReg) (k : KReg) (s : State) : Host.Outcome State Fault Refusal :=
  perform (.vfoldFin d k) (vfoldFinM (.vfoldFin d k) d k) s

/-- VFOLD_CLR (R271): Clears a k register. -/
def execVfoldClr (k : KReg) (s : State) : Host.Outcome State Fault Refusal :=
  perform (.vfoldClr k) (vfoldClrM k) s

/-- VFOLD_FIN_Q (R271): Appends the C64 result of a k register to q6 or q7. -/
def execVfoldFinQ (q : Fin 2) (k : KReg) (s : State) : Host.Outcome State Fault Refusal :=
  perform (.vfoldFinQ q k) (vfoldFinQM q k) s

/-- VCONFLICT (R272): Writes, for each element, the index of the nearest lower element with an equal value. -/
def execVconflict (d : VReg) (a : VReg) (mk : MReg) (me : Bool) (s : State) : Host.Outcome State Fault Refusal :=
  perform (.vconflict d a mk me) (vconflictM (.vconflict d a mk me) d a mk me) s

end Sys2Proof.Machine

end
end

