-- ==== Sys2Proof/Machine/Sirmal.lean ====
section
/-! DEFINITION. Sirmal blocks (07 R177-R179, 08 R195, 16 R407). -/

noncomputable section

namespace Sys2Proof.Machine

/-- A stream of a block (R177, R195): base address, element type and its ET code, direction, extents and strides. -/
structure BlockStream where
  base : Word
  et : Nat
  out : Bool
  extents : List Nat
  strides : List Word
deriving DecidableEq, Repr

/-- The element type of a stream. -/
def BlockStream.ty (s : BlockStream) : ElemTy := (elemTyOf s.et).getD (.int false 8)

/-- The second operand of a body instruction: a vector, a general register, the element's index, a mask, or none. -/
inductive BodySrc where
  | vec (r : VReg)
  | scal (r : GReg)
  | index
  | mask (m : MReg)
  | none
deriving DecidableEq, Repr

/-- An element-wise instruction of a body: the types it accepts, its operands with their types, and its result on one element. -/
structure BodyElem where
  accept : Nat → Bool
  /-- whether it rounds under VTYPE.RM, by element type -/
  rounds : Nat → Bool
  d : Option VReg
  wideD : Bool
  /-- its destination is a source too -/
  readsD : Bool
  a : Option VReg
  aTy : ElemTy → ElemTy
  b : BodySrc
  f : ElemTy → RMode → Nat → Nat → Nat → Res
  mask : MReg
  masked : Bool

/-- What a word of a body does at a point (R195). -/
inductive BodyOp where
  | elem (e : BodyElem)
  /-- VMERGE, after the FM test -/
  | merge (e : BodyElem)
  | sel (d a b : VReg) (mk : MReg)
  | cmp (d : MReg) (a : VReg) (b : BodySrc) (mk : MReg) (me : Bool) (c : Nat)
  /-- VMOV.Q -/
  | push (q : Fin 2) (a : VReg) (b : GReg)
  /-- VQNT, VDQNT: never a whole block at a point -/
  | blocks (d a : VReg) (mk : MReg)
  | mask (d : MReg) (srcs : List MReg) (f : (MReg → Bool) → Bool → Bool)
  | fromFm (d : MReg)
  /-- MCNT, MANY, MFIRST -/
  | count (d : GReg) (a : MReg) (f : List Nat → Word)
  | fold (k : KReg) (a : VReg) (mk : MReg) (me : Bool)

/-- The instructions that a body may hold (R195). -/
def bodyOf (i : Instr) : Option BodyOp :=
  match i with
  | .vadd d a b mk me =>
    some (.elem { accept := classFI, rounds := classF, d := some d, wideD := false, readsD := false, a := some a, aTy := fun t => t, b := .vec b, f := fun t m x y _ => elemAdd t m x y, mask := mk, masked := me })
  | .vaddS d a b mk me =>
    some (.elem { accept := classFI, rounds := classF, d := some d, wideD := false, readsD := false, a := some a, aTy := fun t => t, b := .scal b, f := fun t m x y _ => elemAdd t m x y, mask := mk, masked := me })
  | .vsub d a b mk me =>
    some (.elem { accept := classFI, rounds := classF, d := some d, wideD := false, readsD := false, a := some a, aTy := fun t => t, b := .vec b, f := fun t m x y _ => elemSub t m x y, mask := mk, masked := me })
  | .vsubS d a b mk me =>
    some (.elem { accept := classFI, rounds := classF, d := some d, wideD := false, readsD := false, a := some a, aTy := fun t => t, b := .scal b, f := fun t m x y _ => elemSub t m x y, mask := mk, masked := me })
  | .vmul d a b mk me =>
    some (.elem { accept := classFI, rounds := classF, d := some d, wideD := false, readsD := false, a := some a, aTy := fun t => t, b := .vec b, f := fun t m x y _ => elemMul t m x y, mask := mk, masked := me })
  | .vmulS d a b mk me =>
    some (.elem { accept := classFI, rounds := classF, d := some d, wideD := false, readsD := false, a := some a, aTy := fun t => t, b := .scal b, f := fun t m x y _ => elemMul t m x y, mask := mk, masked := me })
  | .vdiv d a b mk me =>
    some (.elem { accept := classFI, rounds := classF, d := some d, wideD := false, readsD := false, a := some a, aTy := fun t => t, b := .vec b, f := fun t m x y _ => elemDiv t m x y, mask := mk, masked := me })
  | .vdivS d a b mk me =>
    some (.elem { accept := classFI, rounds := classF, d := some d, wideD := false, readsD := false, a := some a, aTy := fun t => t, b := .scal b, f := fun t m x y _ => elemDiv t m x y, mask := mk, masked := me })
  | .vmin d a b mk me =>
    some (.elem { accept := classFI, rounds := fun _ => false, d := some d, wideD := false, readsD := false, a := some a, aTy := fun t => t, b := .vec b, f := fun t m x y _ => elemMinMax false t m x y, mask := mk, masked := me })
  | .vminS d a b mk me =>
    some (.elem { accept := classFI, rounds := fun _ => false, d := some d, wideD := false, readsD := false, a := some a, aTy := fun t => t, b := .scal b, f := fun t m x y _ => elemMinMax false t m x y, mask := mk, masked := me })
  | .vmax d a b mk me =>
    some (.elem { accept := classFI, rounds := fun _ => false, d := some d, wideD := false, readsD := false, a := some a, aTy := fun t => t, b := .vec b, f := fun t m x y _ => elemMinMax true t m x y, mask := mk, masked := me })
  | .vmaxS d a b mk me =>
    some (.elem { accept := classFI, rounds := fun _ => false, d := some d, wideD := false, readsD := false, a := some a, aTy := fun t => t, b := .scal b, f := fun t m x y _ => elemMinMax true t m x y, mask := mk, masked := me })
  | .vand d a b mk me =>
    some (.elem { accept := classXCode, rounds := fun _ => false, d := some d, wideD := false, readsD := false, a := some a, aTy := fun t => t, b := .vec b, f := fun t m x y _ => elemBits Nat.land t m x y, mask := mk, masked := me })
  | .vandS d a b mk me =>
    some (.elem { accept := classXCode, rounds := fun _ => false, d := some d, wideD := false, readsD := false, a := some a, aTy := fun t => t, b := .scal b, f := fun t m x y _ => elemBits Nat.land t m x y, mask := mk, masked := me })
  | .vor d a b mk me =>
    some (.elem { accept := classXCode, rounds := fun _ => false, d := some d, wideD := false, readsD := false, a := some a, aTy := fun t => t, b := .vec b, f := fun t m x y _ => elemBits Nat.lor t m x y, mask := mk, masked := me })
  | .vorS d a b mk me =>
    some (.elem { accept := classXCode, rounds := fun _ => false, d := some d, wideD := false, readsD := false, a := some a, aTy := fun t => t, b := .scal b, f := fun t m x y _ => elemBits Nat.lor t m x y, mask := mk, masked := me })
  | .vxor d a b mk me =>
    some (.elem { accept := classXCode, rounds := fun _ => false, d := some d, wideD := false, readsD := false, a := some a, aTy := fun t => t, b := .vec b, f := fun t m x y _ => elemBits Nat.xor t m x y, mask := mk, masked := me })
  | .vxorS d a b mk me =>
    some (.elem { accept := classXCode, rounds := fun _ => false, d := some d, wideD := false, readsD := false, a := some a, aTy := fun t => t, b := .scal b, f := fun t m x y _ => elemBits Nat.xor t m x y, mask := mk, masked := me })
  | .vshl d a b mk me =>
    some (.elem { accept := classI, rounds := fun _ => false, d := some d, wideD := false, readsD := false, a := some a, aTy := fun t => t, b := .vec b, f := fun t m x y _ => elemShl t m x y, mask := mk, masked := me })
  | .vshlS d a b mk me =>
    some (.elem { accept := classI, rounds := fun _ => false, d := some d, wideD := false, readsD := false, a := some a, aTy := fun t => t, b := .scal b, f := fun t m x y _ => elemShl t m x y, mask := mk, masked := me })
  | .vshr d a b mk me =>
    some (.elem { accept := classI, rounds := fun _ => false, d := some d, wideD := false, readsD := false, a := some a, aTy := fun t => t, b := .vec b, f := fun t m x y _ => elemShr t m x y, mask := mk, masked := me })
  | .vshrS d a b mk me =>
    some (.elem { accept := classI, rounds := fun _ => false, d := some d, wideD := false, readsD := false, a := some a, aTy := fun t => t, b := .scal b, f := fun t m x y _ => elemShr t m x y, mask := mk, masked := me })
  | .vsra d a b mk me =>
    some (.elem { accept := classI, rounds := fun _ => false, d := some d, wideD := false, readsD := false, a := some a, aTy := fun t => t, b := .vec b, f := fun t m x y _ => elemSra t m x y, mask := mk, masked := me })
  | .vsraS d a b mk me =>
    some (.elem { accept := classI, rounds := fun _ => false, d := some d, wideD := false, readsD := false, a := some a, aTy := fun t => t, b := .scal b, f := fun t m x y _ => elemSra t m x y, mask := mk, masked := me })
  | .vwmul d a b mk me =>
    some (.elem { accept := hasWide, rounds := classF, d := some d, wideD := true, readsD := false, a := some a, aTy := fun t => t, b := .vec b, f := fun t m x y _ => elemWmul t m x y, mask := mk, masked := me })
  | .vwmulS d a b mk me =>
    some (.elem { accept := hasWide, rounds := classF, d := some d, wideD := true, readsD := false, a := some a, aTy := fun t => t, b := .scal b, f := fun t m x y _ => elemWmul t m x y, mask := mk, masked := me })
  | .vwadd d a b mk me =>
    some (.elem { accept := hasWide, rounds := classF, d := some d, wideD := true, readsD := false, a := some a, aTy := fun t => t, b := .vec b, f := fun t m x y _ => elemWadd t m x y, mask := mk, masked := me })
  | .vwaddS d a b mk me =>
    some (.elem { accept := hasWide, rounds := classF, d := some d, wideD := true, readsD := false, a := some a, aTy := fun t => t, b := .scal b, f := fun t m x y _ => elemWadd t m x y, mask := mk, masked := me })
  | .vfma d a b mk me =>
    some (.elem { accept := classFI, rounds := classF, d := some d, wideD := false, readsD := true, a := some a, aTy := fun t => t, b := .vec b, f := elemFma false false, mask := mk, masked := me })
  | .vfmaS d a b mk me =>
    some (.elem { accept := classFI, rounds := classF, d := some d, wideD := false, readsD := true, a := some a, aTy := fun t => t, b := .scal b, f := elemFma false false, mask := mk, masked := me })
  | .vfms d a b mk me =>
    some (.elem { accept := classFI, rounds := classF, d := some d, wideD := false, readsD := true, a := some a, aTy := fun t => t, b := .vec b, f := elemFma false true, mask := mk, masked := me })
  | .vfmsS d a b mk me =>
    some (.elem { accept := classFI, rounds := classF, d := some d, wideD := false, readsD := true, a := some a, aTy := fun t => t, b := .scal b, f := elemFma false true, mask := mk, masked := me })
  | .vfnma d a b mk me =>
    some (.elem { accept := classFI, rounds := classF, d := some d, wideD := false, readsD := true, a := some a, aTy := fun t => t, b := .vec b, f := elemFma true false, mask := mk, masked := me })
  | .vfnmaS d a b mk me =>
    some (.elem { accept := classFI, rounds := classF, d := some d, wideD := false, readsD := true, a := some a, aTy := fun t => t, b := .scal b, f := elemFma true false, mask := mk, masked := me })
  | .vsqrt d a mk me =>
    some (.elem { accept := classF, rounds := classF, d := some d, wideD := false, readsD := false, a := some a, aTy := fun t => t, b := .none, f := fun t m x _ _ => elemSqrt t m x, mask := mk, masked := me })
  | .vrcp d a mk me =>
    some (.elem { accept := classF, rounds := classF, d := some d, wideD := false, readsD := false, a := some a, aTy := fun t => t, b := .none, f := fun t m x _ _ => elemRcp t m x, mask := mk, masked := me })
  | .vabs d a mk me =>
    some (.elem { accept := classFI, rounds := fun _ => false, d := some d, wideD := false, readsD := false, a := some a, aTy := fun t => t, b := .none, f := fun t m x _ _ => elemAbs t m x, mask := mk, masked := me })
  | .vneg d a mk me =>
    some (.elem { accept := classFI, rounds := fun _ => false, d := some d, wideD := false, readsD := false, a := some a, aTy := fun t => t, b := .none, f := fun t m x _ _ => elemNeg t m x, mask := mk, masked := me })
  | .vclass d a mk me =>
    some (.elem { accept := (fun et => decide (et ≤ 2)), rounds := fun _ => false, d := some d, wideD := false, readsD := false, a := some a, aTy := fun t => t, b := .none, f := fun t m x _ _ => elemClass t m x, mask := mk, masked := me })
  | .vmov d a mk me =>
    some (.elem { accept := classXCode, rounds := fun _ => false, d := some d, wideD := false, readsD := false, a := some a, aTy := fun t => t, b := .none, f := fun _ _ x _ _ => quiet x, mask := mk, masked := me })
  | .viota d mk me =>
    some (.elem { accept := classI, rounds := fun _ => false, d := some d, wideD := false, readsD := false, a := none, aTy := fun t => t, b := .index, f := fun _ _ _ y _ => quiet y, mask := mk, masked := me })
  | .vsplat d b mk me =>
    some (.elem { accept := classXCode, rounds := fun _ => false, d := some d, wideD := false, readsD := false, a := none, aTy := fun t => t, b := .scal b, f := fun _ _ _ y _ => quiet y, mask := mk, masked := me })
  | .vnarrow d a mk me =>
    some (.elem { accept := hasWide, rounds := classF, d := some d, wideD := false, readsD := false, a := some a, aTy := wideTy, b := .none, f := fun t m x _ _ => t.round m ((wideTy t).num x), mask := mk, masked := me })
  | .vcvt d a t mk me =>
    some (.elem { accept := classXCode, rounds := fun et => convRounds t.val et, d := some d, wideD := false, readsD := false, a := some a, aTy := (fun _ => litTy t), b := .none, f := fun ty m x _ _ => ty.round m ((litTy t).num x), mask := mk, masked := me })
  | .vsat d a t mk me =>
    some (.elem { accept := classXCode, rounds := fun _ => false, d := some d, wideD := false, readsD := false, a := some a, aTy := fun t => t, b := .none, f := fun ty _ x _ _ => elemSat (litTy t) ty x, mask := mk, masked := me })
  | .vmerge d a mk =>
    some (.merge { accept := classXCode, rounds := fun _ => false, d := some d, wideD := false, readsD := false, a := some a, aTy := fun t => t, b := .none, f := fun _ _ x _ _ => quiet x, mask := mk, masked := true })
  | .vsel d a b mk => some (.sel d a b mk)
  | .vcmp d a b mk me c => some (.cmp d a (.vec b) mk me c.val)
  | .vcmpS d a b mk me c => some (.cmp d a (.scal b) mk me c.val)
  | .vmovQ q a b => some (.push q a b)
  | .vqnt d a _ mk => some (.blocks d a mk)
  | .vdqnt d a _ mk => some (.blocks d a mk)
  | .mpopv d a mk me =>
    some (.elem { accept := classI, rounds := fun _ => false, d := some d, wideD := false, readsD := false, a := none, aTy := fun t => t, b := .mask a, f := fun _ _ _ _ _ => quiet 0, mask := mk, masked := me })
  | .mand d a b => some (.mask d [a, b] fun m _ => m a && m b)
  | .mor d a b => some (.mask d [a, b] fun m _ => m a || m b)
  | .mxor d a b => some (.mask d [a, b] fun m _ => m a != m b)
  | .mnot d a => some (.mask d [a] fun m _ => !m a)
  | .mset d => some (.mask d [] fun _ _ => true)
  | .mclr d => some (.mask d [] fun _ _ => false)
  | .mfromfm d => some (.fromFm d)
  | .mcnt d a => some (.count d a fun l => BitVec.ofNat 64 l.length)
  | .many d a => some (.count d a fun l => if l.isEmpty then 0 else 1)
  | .mfirst d a => some (.count d a (fun l => match l with
    | k :: _ => BitVec.ofNat 64 k
    | [] => 0xFFFFFFFFFFFFFFFF))
  | .vfold k a mk me => some (.fold k a mk me)
  | _ => none

/-- The vector registers that an operation reads. -/
def BodyOp.sources : BodyOp → List VReg
  | .elem e => srcsOf e
  | .merge e => srcsOf e
  | .sel _ a b _ => [a, b]
  | .cmp _ a b _ _ _ => a :: (match b with | .vec r => [r] | _ => [])
  | .push _ a _ => [a]
  | .blocks _ a _ => [a]
  | .fold _ a _ _ => [a]
  | _ => []
where
  srcsOf (e : BodyElem) : List VReg :=
    e.a.toList ++ (match e.b with | .vec r => [r] | _ => []) ++ (if e.readsD then e.d.toList else [])

/-- The vector register that an operation writes. -/
def BodyOp.dest : BodyOp → Option VReg
  | .elem e => e.d
  | .merge e => e.d
  | .sel d _ _ _ => some d
  | .blocks d _ _ => some d
  | _ => none

/-- The masks that an operation names. -/
def BodyOp.masks : BodyOp → List MReg
  | .elem e => (if e.masked then [e.mask] else []) ++ (match e.b with | .mask m => [m] | _ => [])
  | .merge e => [e.mask]
  | .sel _ _ _ mk => [mk]
  | .cmp d _ _ mk me _ => d :: (if me then [mk] else [])
  | .mask d srcs _ => d :: srcs
  | .fromFm d => [d]
  | .count _ a _ => [a]
  | .fold _ _ mk me => if me then [mk] else []
  | _ => []

/-- Whether the modifier is 0x0 where there is no mask. -/
def BodyOp.plainModifier : BodyOp → Bool
  | .elem e => e.masked || e.mask == 0
  | .cmp _ _ _ mk me _ => me || mk == 0
  | .blocks _ _ mk => mk == 0
  | .fold _ _ mk me => me || mk == 0
  | _ => true

/-- Whether the element type is one that an operation accepts (R189 row 5). -/
def BodyOp.accepts (o : BodyOp) (et : Nat) : Bool :=
  match o with
  | .elem e => e.accept et
  | .merge e => e.accept et
  | .sel .. => classXCode et
  | .cmp .. => classXCode et
  | .push .. => classXCode et
  | .blocks .. => classQ et
  | .fold .. => classF et
  | _ => true

/-- Whether an operation rounds under VTYPE.RM (R81). -/
def BodyOp.rounds (o : BodyOp) (et : Nat) : Bool :=
  match o with
  | .elem e => e.rounds et
  | .blocks .. => true
  | _ => false

/-- The rules of a body word (R195); that its element type is one it accepts is checked with them, word by word (log 87). -/
def bodyWordOk (streams : List BlockStream) (et w : Nat) : Bool :=
  match decodeBody w with
  | some i =>
    i.wf &&
      (match bodyOf i with
        | some o =>
          let named := fun (out : Bool) (r : VReg) => decide (16 ≤ r.val) || (match streams[r.val]? with
            | some s => s.out == out
            | none => false)
          o.plainModifier && o.accepts et && o.sources.all (named false) && o.dest.toList.all (named true) &&
            o.masks.all fun m => decide (8 ≤ m.val)
        | none => false)
  | none => false

/-- A header word and its dimension words, as the words give them: base register, ET, direction, and for each dimension the
registers of extent and stride (R195, Tables 11 and 12). -/
structure StreamWords where
  base : GReg
  et : Nat
  out : Bool
  dims : List (GReg × GReg)
deriving DecidableEq, Repr

/-- Reading a header and its dimensions at an address: the words, and where the next header stands. -/
def streamWords (va : Word) : M (StreamWords × Word) := do
  let w ← codeWord va
  require (w % 2 ^ 19 == 0 && (elemTyOf (bitsOf w 23 19)).isSome) cIllegal (BitVec.ofNat 64 w)
  let n := bitsOf w 26 25 + 1
  let dims ← (List.range n).mapM fun d => do
    let x ← codeWord (va + BitVec.ofNat 64 (4 + 4 * d))
    require (x % 2 ^ 22 == 0) cIllegal (BitVec.ofNat 64 x)
    return ((Fin.ofNat 32 (bitsOf x 31 27) : GReg), (Fin.ofNat 32 (bitsOf x 26 22) : GReg))
  return (⟨Fin.ofNat 32 (bitsOf w 31 27), bitsOf w 23 19, bitsOf w 24 24 == 1, dims⟩, va + BitVec.ofNat 64 (4 + 4 * n))

/-- The headers of a block, one after the other. -/
def allStreams (va : Word) : Nat → M (List StreamWords × Word)
  | 0 => return ([], va)
  | n + 1 => do
    let (s, va) ← streamWords va
    let (r, va) ← allStreams va n
    return (s :: r, va)

/-- The values of a stream's registers, read when the SBLK issues (R195). -/
def StreamWords.values (s : StreamWords) : M BlockStream := do
  return { base := ← gR s.base, et := s.et, out := s.out, extents := ← s.dims.mapM fun d => do return (← gR d.1).toNat,
           strides := ← s.dims.mapM fun d => gR d.2 }

/-- The coordinates of a point in linear order, dimension 0 fastest (R178). -/
def pointCoords : List Nat → Nat → List Nat
  | [], _ => []
  | n :: r, t => t % n :: pointCoords r (t / n)

/-- The number of a point. -/
def pointNumber : List Nat → List Nat → Nat
  | n :: r, x :: y => x + n * pointNumber r y
  | _, _ => 0

/-- The address of a stream's element at a point (R177). -/
def BlockStream.va (s : BlockStream) (xs : List Nat) : Word :=
  s.base + (xs.zip s.strides).foldl (fun (a : Word) x => a + BitVec.ofNat 64 x.1 * x.2) 0

/-- What the body has at a point: temporaries v16-v31, masks m8-m15 and the general registers. -/
structure PointEnv where
  temps : List (Nat × Nat)
  masks : List (Nat × Bool)
  g : Vector Word 32
deriving DecidableEq, Repr

/-- A point before its first operation: a temporary that the body has not written there is a free value. -/
def PointEnv.start (k : Nat) (g : Vector Word 32) : PointEnv :=
  { temps := (List.range 16).map fun r => (16 + r, Config.blockTemp (32 * k + 16 + r))
    masks := (List.range 8).map fun r => (8 + r, Config.blockTemp (32 * k + r) % 2 == 1)
    g := g }

def PointEnv.mask (e : PointEnv) (m : MReg) : Bool := mapGetD e.masks m.val false
def PointEnv.setMask (e : PointEnv) (m : MReg) (b : Bool) : PointEnv := { e with masks := mapSet e.masks m.val b }
def PointEnv.scalar (e : PointEnv) (r : GReg) : Word := if r.val = 0 then 0 else e.g[r.val]

/-- Whether a word is selected by mask or has none. -/
def PointEnv.selects (e : PointEnv) (mk : MReg) (me : Bool) : Bool := !me || e.mask mk

/-- A block as its points see it. -/
structure BlockEnv where
  v : VView
  streams : List BlockStream
  body : List BodyOp

/-- A value that an element settles to: flags, SATM and the arithmetic trap, with the point's number as the element (R178,
R240). -/
def settleOne (v : VView) (t : Nat) (r : Res) : M Nat := do
  match ← settle v false [(t, r)] with
  | [x] => return x.2
  | _ => return r.bits

/-- The unit of a stream's element. -/
def BlockStream.unit (s : BlockStream) (t : Nat) (xs : List Nat) : MUnit :=
  let n := (s.ty.width + 7) / 8
  { lo := t, cnt := 1, va := s.va xs, len := n, align := n, sub := 0 }

/-- A source of a body operation, as a code of a type (R178). -/
def BlockEnv.read (b : BlockEnv) (t : Nat) (xs : List Nat) (e : PointEnv) (r : VReg) (ty : ElemTy) : M Nat := do
  if 16 ≤ r.val then return mapGetD e.temps r.val 0 % 2 ^ ty.width
  else
    match b.streams[r.val]? with
    | none => return 0
    | some s =>
      let p ← enumPiece { acc := .load } [s.unit t xs]
      match p.good with
      | (u, ps) :: _ =>
        let raw := (← readParts ps u.va.toNat .bypass false .ordinary (.element t b.v.w)) % 2 ^ s.ty.width
        if s.ty = ty then return raw else settleOne b.v t (ty.round (b.v.mode t) (s.ty.num raw))
      | [] => return 0

/-- A result of a body operation written to its destination (R178). -/
def BlockEnv.write (b : BlockEnv) (t : Nat) (xs : List Nat) (e : PointEnv) (r : VReg) (ty : ElemTy) (code : Nat) : M PointEnv := do
  if 16 ≤ r.val then
    let old := mapGetD e.temps r.val 0
    return { e with temps := mapSet e.temps r.val (old / 2 ^ ty.width * 2 ^ ty.width + code % 2 ^ ty.width) }
  else
    match b.streams[r.val]? with
    | none => return e
    | some s =>
      let x ← if s.ty = ty then pure code else settleOne b.v t (s.ty.round (b.v.mode t) (ty.num code))
      let p ← enumPiece { acc := .store } [s.unit t xs]
      match p.good with
      | (u, ps) :: _ =>
        let who := Consumer.element t b.v.w
        if s.ty.width = 4 then
          match ps with
          | (p, va, _) :: _ =>
            let old ← halfByte p va who
            writeParts ps u.va.toNat (setElem 4 old 0 x) .ordinary who
          | [] => pure ()
        else writeParts ps u.va.toNat x .ordinary who
      | [] => pure ()
      return e

/-- An element-wise operation at a point. -/
def BlockEnv.elem (b : BlockEnv) (t : Nat) (xs : List Nat) (e : PointEnv) (o : BodyElem) : M PointEnv := do
  if !e.selects o.mask o.masked then return e
  else
    let ty := b.v.ty
    let x ← match o.a with
      | some r => b.read t xs e r (o.aTy ty)
      | none => pure 0
    let y ← match o.b with
      | .vec r => b.read t xs e r ty
      | .scal r => pure ((e.scalar r).toNat % 2 ^ b.v.w)
      | .index => pure (t % 2 ^ b.v.w)
      | _ => pure 0
    match o.d with
    | none => return e
    | some d =>
      let z ← if o.readsD then b.read t xs e d ty else pure 0
      let code ← settleOne b.v t (o.f ty (b.v.mode t) x y z)
      b.write t xs e d (if o.wideD then wideTy ty else ty) code

/-- One operation of the body at a point. -/
def BlockEnv.perform (b : BlockEnv) (t : Nat) (xs : List Nat) (e : PointEnv) (o : BodyOp) : M PointEnv := do
  let ty := b.v.ty
  match o with
  | .elem x => b.elem t xs e x
  | .merge x =>
    require (!(e.mask x.mask && (← strand).fm.getLsbD t)) cSpeculative (BitVec.ofNat 64 t)
    b.elem t xs e x
  | .sel d p q sel =>
    let x ← b.read t xs e (if e.mask sel then p else q) ty
    b.write t xs e d ty x
  | .cmp d p q sel on c =>
    if !e.selects sel on then return e
    else
      let x ← b.read t xs e p ty
      let y ← match q with
        | .vec r => b.read t xs e r ty
        | .scal r => pure ((e.scalar r).toNat % 2 ^ b.v.w)
        | _ => pure 0
      let r ← settleOne b.v t (elemCmp c ty .rne x y)
      return e.setMask d (r == 1)
  | .push q p r =>
    needRoom q
    let x ← b.read t xs e p ty
    pushResult q (if (e.scalar r).toNat % 2 ^ 32 = t then BitVec.ofNat 64 x else 0)
    return e
  | .blocks _ _ _ => trapOpen cShape
  | .mask d _ f => return e.setMask d (f e.mask false)
  | .fromFm d => return e.setMask d ((← strand).fm.getLsbD t)
  | .count d a f => return if d.val = 0 then e else { e with g := e.g.set d.val (f (if e.mask a then [t] else [])) }
  | .fold k a sel on =>
    let x ← if e.selects sel on then do pure (b.v.widen (← b.read t xs e a ty)) else pure (quiet 0)
    let reg := (← strand).k[k]
    let prec := b.v.et == 1
    if !reg.isEmpty && reg.prec != prec then kTrap k else pure ()
    match foldPushes b.v.sumFmt [(t, x)] reg.toC64 with
    | none => kTrap k
    | some (c, rs) =>
      let _ ← settle b.v false (rs.map fun r => (t, { r.2 with sat := false }))
      modStrand fun s => { s with k := s.k.set k.val (KState.ofC64 prec c) }
      return e

/-- The temporaries as a block leaves them (R179). -/
def Strand.dropTemps (t : Strand) : Strand :=
  { t with
    v := (List.range 16).foldl (fun v j => v.set! (16 + j) 0) t.v
    m := (List.range 8).foldl (fun m j => m.set! (8 + j) 0) t.m }

/-- Points from t on (R178, R407): a stop at a point leaves what the points below it did, with the flags and the SATM bits that
the stopping instruction raised (R240). -/
def BlockEnv.run (b : BlockEnv) (extents : List Nat) : Nat → Nat → M Unit
  | 0, _ => pure ()
  | left + 1, t => do
    let k ← freshNum
    let s0 ← get
    let xs := pointCoords extents t
    match ← caught (b.body.foldlM (fun e o => b.perform t xs e o) (PointEnv.start k (← hart).g)) with
    | .ok _ => b.run extents left (t + 1)
    | .error e =>
      let now ← strand
      set s0
      let point := (xs ++ [0, 0, 0, 0]).take 4
      modStrand fun s => { s with hart := { s.hart with status := now.hart.status }, m := now.m, blkpt := some point }.dropTemps
      match e with
      | .trap r => throw (.trap { r with blk := some point })
      | e => throw e

/-- The tag of an expansion (R122) and the words it stands for. -/
def expansionOf (pc : Word) (v : VView) (words : List Nat) : M Expansion := do
  let t ← strand
  return { handle := t.handle, va := pc.toNat, vlmax := vlmaxOf v.groups v.et v.grp, vclass := (v.et, v.rm, v.mfmt), words := words }

/-- Micro-operations of expansions kept while they fit in a room (R122): an expansion is held whole or not at all. -/
def keepExpansions : Nat → List Expansion → List Expansion
  | _, [] => []
  | room, e :: r => if e.words.length ≤ room then e :: keepExpansions (room - e.words.length) r else []

/-- Keeping the expansion of a block in the decoded-operation cache of its core, one micro-operation for each word of the body (R122,
log 85).  Nothing reads it back: a hit and a fresh expansion behave identically. -/
def holdExpansion (e : Expansion) : M Unit := do
  modCore (coreNum (← ctx)) fun k =>
    { k with expansions := keepExpansions 2048 (e :: k.expansions.filter fun x =>
        !(x.handle == e.handle && x.va == e.va && x.vlmax == e.vlmax && x.vclass == e.vclass)) }

/-- SBLK (R177-R179, R195, R407).  A block that rounds stochastically unseeded is refused whole before its first point, with TVAL the
SBLK word (R21, log 86); the element type that a body word does not accept is checked with that word's other rules (log 87). -/
def sblkM (i : Instr) (count len : Fin 32) : M Unit := do
  let pc ← pcR
  let (hs, bodyAt) ← allStreams (pc + 4) count.val
  let v ← view
  let shapes : List BlockStream := hs.map fun h => { base := 0, et := h.et, out := h.out, extents := [], strides := [] }
  let words ← (List.range (len.val + 1)).mapM fun n => do
    let w ← codeWord (bodyAt + BitVec.ofNat 64 (4 * n))
    require (bodyWordOk shapes v.et w) cIllegal (BitVec.ofNat 64 w)
    return w
  let ops := words.filterMap fun w => (decodeBody w).bind bodyOf
  checkRounding i v (ops.any (fun o => o.rounds v.et) || shapes.any fun s => s.et != v.et && convRounds s.et v.et)
  let streams ← hs.mapM StreamWords.values
  let extents := (streams.head?.map (·.extents)).getD []
  if streams.any (fun s => s.extents != extents) || extents.any (fun n => n == 0 || decide (2 ^ 32 < n)) then trapOpen cShape
  else
    let t0 := match (← strand).blkpt with
      | some xs => pointNumber extents xs
      | none => 0
    holdExpansion (← expansionOf pc v words)
    let total := extents.foldl (· * ·) 1
    (BlockEnv.mk v streams ops).run extents (total - t0) t0
    modStrand fun t => { t with blkpt := none }.dropTemps
    goto (bodyAt + BitVec.ofNat 64 (4 * (len.val + 1)))

/-- SBLK (R177): Runs a Sirmal block over its streams in linear iteration order. -/
def execSblk (count : Fin 32) (len : Fin 32) (s : State) : Host.Outcome State Fault Refusal :=
  perform (.sblk count len) (sblkM (.sblk count len) count len) s

end Sys2Proof.Machine

end
end

