-- ==== Sys2Proof/Machine/Solver.lean ====
section
/-! DEFINITION. The solvers of the matrix unit, in FP64 (12 R316-R323). -/

noncomputable section

namespace Sys2Proof.Machine

/-- A computation of a solver, which collects the flags of its steps (R299, R317). -/
abbrev Steps := StateM FlagSet

/-- One rounded step: its code. -/
def step64 (r : Res) : Steps Nat := do
  modify fun f => f ||| r.flags
  return r.bits

/-- a - b * c, rounded once (R317). -/
def fusedSub (a b c : Nat) : Steps Nat := step64 (fp64.fma .rne (fp64.decode b).neg (fp64.decode c) (fp64.decode a))

/-- a / b, rounded once. -/
def quot64 (a b : Nat) : Steps Nat := step64 (fp64.div .rne a b)

/-- A matrix with element (i, j) replaced. -/
def matSet (m : List (List Nat)) (i j x : Nat) : List (List Nat) := m.set i ((m.getD i []).set j x)

/-- A matrix with two rows exchanged. -/
def swapRows (m : List (List Nat)) (i j : Nat) : List (List Nat) := (m.set i (m.getD j [])).set j (m.getD i [])

/-- The magnitude of a code, as a number that orders magnitudes; every NaN counts greatest (R319). -/
def magKey (x : Nat) : Nat := if (fp64.decode x).isNan then 2 ^ 63 else x % 2 ^ 63

/-- Whether a code is an infinity or a NaN. -/
def nonFinite (x : Nat) : Bool := (fp64.decode x).isNan || (fp64.decode x).isInf

/-- Whether the magnitude of a code is below PIVFLOOR; a NaN is not. -/
def belowFloor (x f : Nat) : Bool := !(fp64.decode x).isNan && decide (x % 2 ^ 63 < f)

/-- What a factorisation has come to. -/
structure Factor where
  a : List (List Nat)
  piv : List Nat
  code : Nat
deriving DecidableEq, Repr

/-- The pivot row of step s: the lowest with the greatest magnitude (R319). -/
def pivotRow (a : List (List Nat)) (n s : Nat) : Nat :=
  ((List.range (n - s)).map (s + ·)).foldl (fun p x => if magKey (matGet a p s) < magKey (matGet a x s) then x else p) s

/-- Elimination below the pivot of step s (R319). -/
def eliminate (a : List (List Nat)) (n s : Nat) : Steps (List (List Nat)) :=
  ((List.range (n - s - 1)).map (s + 1 + ·)).foldlM (fun a x => do
    let m ← quot64 (matGet a x s) (matGet a s s)
    ((List.range (n - s - 1)).map (s + 1 + ·)).foldlM (fun a c => do
      return matSet a x c (← fusedSub (matGet a x c) m (matGet a s c))) (matSet a x s m)) a

/-- TLUF from step s on, `left` steps (R319). -/
def lufGo (n f : Nat) : Nat → Nat → Factor → Steps Factor
  | 0, _, k => return k
  | left + 1, s, k => do
    let p := pivotRow k.a n s
    if matGet k.a p s % 2 ^ 63 = 0 ∧ f = 0 then
      return { k with piv := k.piv ++ List.replicate (n - s) 0xFFFFFFFF, code := Nat.max k.code 4 }
    else
      let a := swapRows k.a s p
      let d := matGet a s s
      let low := belowFloor d f
      let a := if low then matSet a s s (d / 2 ^ 63 * 2 ^ 63 + f) else a
      lufGo n f left (s + 1) { a := ← eliminate a n s, piv := k.piv ++ [p], code := if low then Nat.max k.code 1 else k.code }

/-- TCHOL from column s on, `left` columns (R320). -/
def cholGo (n f : Nat) : Nat → Nat → Factor → Steps Factor
  | 0, _, k => return k
  | left + 1, s, k => do
    let d ← (List.range s).foldlM (fun d t => fusedSub d (matGet k.a s t) (matGet k.a s t)) (matGet k.a s s)
    if (fp64.decode d).isNan || decide (2 ^ 63 ≤ d) || d == 0 then return { k with code := Nat.max k.code 5 }
    else
      let l ← step64 (fp64.sqrt .rne d)
      let low := belowFloor l f
      let l := if low then f else l
      let a ← ((List.range (n - s - 1)).map (s + 1 + ·)).foldlM (fun a x => do
        let y ← (List.range s).foldlM (fun y t => fusedSub y (matGet a x t) (matGet a s t)) (matGet a x s)
        return matSet a x s (← quot64 y l)) (matSet k.a s s l)
      cholGo n f left (s + 1) { k with a := a, code := if low then Nat.max k.code 1 else k.code }

/-- TTRS: the triangular solution of each column of B (R321). -/
def triangular (upper unit : Bool) (t : List (List Nat)) (n r : Nat) (b : List (List Nat)) : Steps (List (List Nat)) :=
  (List.range r).foldlM (fun b j =>
    (if upper then (List.range n).reverse else List.range n).foldlM (fun b i => do
      let solved := if upper then (List.range (n - i - 1)).map (i + 1 + ·) else List.range i
      let y ← solved.foldlM (fun y k => fusedSub y (matGet t i k) (matGet b k j)) (matGet b i j)
      let y ← if unit then pure y else quot64 y (matGet t i i)
      return matSet b i j y) b) b

/-- The row interchanges of a pivot vector, in ascending order (R321). -/
def interchange (piv : List Nat) (b : List (List Nat)) : List (List Nat) :=
  piv.zipIdx.foldl (fun b p => swapRows b p.2 p.1) b

/-- B - A * X, each group of 16 exact and rounded once (R322). -/
def residual (n r : Nat) (a x b : List (List Nat)) : Steps (List (List Nat)) :=
  (List.range n).mapM fun i => (List.range r).mapM fun j =>
    (List.range (ceilDiv n 16)).foldlM (fun y g =>
      let ks := (List.range 16).filterMap fun k => if 16 * g + k < n then some (16 * g + k) else none
      step64 (groupStep fp64 true y (ks.map fun k => (fp64.decode (matGet a i k), fp64.decode (matGet x k j))))) (matGet b i j)

/-- The infinity norm of a residual: row sums of magnitudes in C64 order (R322). -/
def normOf (m : List (List Nat)) : Steps Nat := do
  let sums ← m.mapM fun row => do
    let (s, fl) := c64Sum fp64 (row.map fun x => x % 2 ^ 63)
    modify fun f => f ||| fl
    return s
  return if sums.any fun s => (fp64.decode s).isNan then fp64.nanBits else sums.foldl Nat.max 0

/-- What TITER holds between iterations (R323). -/
structure Refine where
  x : List (List Nat)
  w : List (List Nat)
  it : Nat
  nrm : Nat
  code : Nat
deriving DecidableEq, Repr

/-- Whether a norm meets a tolerance: never a NaN tolerance (R323). -/
def meetsTol (nrm tol : Nat) : Bool :=
  !(fp64.decode tol).isNan && (numCmp (fp64.decode nrm) (fp64.decode tol) != .gt)

/-- The loop of TITER (R323): cap c; `stop` is how many iterations are done when a pre-emption arrives; `left` bounds the
iterations. -/
def refineGo (n r : Nat) (a lu b : List (List Nat)) (piv : List Nat) (tol c : Nat) (stop : Option Nat) : Nat → Refine → Steps Refine
  | 0, k => return k
  | left + 1, k => do
    let w ← residual n r a k.x b
    let nrm ← normOf w
    let k := { k with w := w, nrm := nrm }
    if nonFinite nrm then return { k with code := 3 }
    else if meetsTol nrm tol then return { k with code := 0 }
    else if k.it = c then return { k with code := 2 }
    else if stop.any fun m => decide (m ≤ k.it) then return { k with code := 6 }
    else
      let w ← triangular false true lu n r (interchange piv w)
      let w ← triangular true false lu n r w
      let x ← (List.range n).mapM fun i => (List.range r).mapM fun j => step64 (fp64.add .rne (matGet k.x i j) (matGet w i j))
      refineGo n r a lu b piv tol c stop left { k with x := x, w := w, it := k.it + 1 }

/-- Whether a machine, after an action of an agent, has been asked to stop the strand of a context. -/
def asksStop (c : Ctx) (r : EStateM.Result Stop State Unit) : Bool :=
  match r with
  | .ok _ s => (s.strand? c.val).any fun t => t.stop.isSome
  | .error _ s => (s.strand? c.val).any fun t => t.stop.isSome

/-- Whether what comes next is a pre-emption of the strand of a context: by the dispatch unit, or by a PREEMPT (R381, R400). -/
def State.preemptedNext (s : State) (c : Ctx) : Bool :=
  match s.agenda.head? with
  | some (.event (.dispatchPreempt die)) => asksStop c ((dispatchPreempt die.val).run s)
  | some (.access (.cc n) _) =>
    match (fetchDecode { s with turn := .cc n }).1 with
    | .instr (.preempt d a) => asksStop c ((preemptM d a).run { s with turn := .cc n })
    | _ => false
  | _ => false

/-- When a pre-emption arrives during a TITER, counted in its iterations (R323): one that is pending stops it at the first boundary;
one that comes next arrives during it after a free number of iterations (log 61). -/
def preemptArrival : M (Option Nat) := do
  let s ← get
  if (← strand).stop.isSome then return some 0
  else if s.preemptedNext (← ctx) then return some (Config.arrivesAt (← freshNum))
  else return none

/-- Byte span of a tile. -/
def AccTile.span (t : AccTile) (rows cols : Nat) : Nat × Nat := (t.base, t.base + (rows - 1) * t.stride + cols * t.w)

/-- Whether the spans of two distinct tiles meet (R317). -/
def tilesOverlap (ts : List (AccTile × Nat × Nat)) : Bool :=
  ts.any fun x => ts.any fun y => x.1.desc != y.1.desc &&
    decide ((x.1.span x.2.1 x.2.2).1 < (y.1.span y.2.1 y.2.2).2) && decide ((y.1.span y.2.1 y.2.2).1 < (x.1.span x.2.1 x.2.2).2)

/-- The checks of a solver's tiles and of PIVFLOOR, in the order of R317; answers the tiles and PIVFLOOR's magnitude. -/
def solverTiles (l : List (DReg × Nat × Nat)) : M (List AccTile × Nat) := do
  let ts ← l.mapM fun x => accTile x.1 x.2.1 x.2.2 0
  ts.forM fun t => require (t.kind == 1) cShape (descWord t.desc)
  require (!tilesOverlap (ts.zip (l.map (·.2)))) cShape 0
  let f := (← strand).pivfloor
  let ok := match fp64.decode f.toNat with
    | .fin neg sig _ => !neg || sig == 0
    | _ => false
  require ok cShape f
  return (ts, f.toNat % 2 ^ 63)

/-- The end of a solver: its code, raised to NONFINITE where an element that it wrote is no finite value, and its flags
(R318, R85). -/
def solverEnd (code : Nat) (out : List Nat) (fl : FlagSet) : M Unit := do
  let code := if out.any nonFinite then Nat.max code 3 else code
  modHart fun h => { h with status := setField h.status 31 29 code }
  raiseFlags fl

/-- The pivot elements of a vector group of two registers (R316). -/
def readPivots (a : VReg) (n : Nat) : M (List Nat) := do
  let v ← view
  let img := (← strand).image v.regBits ⟨a.val, 2⟩
  return (List.range n).map fun s => elemAt 32 img s

/-- Writing pivot elements; those beyond them stay. -/
def writePivots (a : VReg) (piv : List Nat) : M Unit := do
  let v ← view
  modStrand fun t =>
    t.setImage v.regBits ⟨a.val, 2⟩ (piv.zipIdx.foldl (fun g x => setElem 32 g x.2 x.1) (t.image v.regBits ⟨a.val, 2⟩))

/-- The shape trap of a pivot that names no row (R321). -/
def checkPivots (piv : List Nat) (n : Nat) : M Unit :=
  match piv.findIdx? fun p => decide (n ≤ p) with
  | some s => trap cShape (BitVec.ofNat 64 s)
  | none => pure ()

/-- The whole of a tile. -/
def everyElem (_ _ : Nat) : Bool := true

/-- TLUF (R319). -/
def tlufM (d : DReg) (a : VReg) (g : GReg) : M Unit := do
  let x ← tileWordOf (← gR g) false false
  if x.isEmpty then pure ()
  else
    let n := x.rows
    require (x.cols == n) cShape x.word
    let (ts, f) ← solverTiles [(d, n, n)]
    match ts with
    | [t] =>
      let m ← t.read n n everyElem
      let (k, fl) := (lufGo n f n 0 ⟨m, [], 0⟩).run 0
      t.write k.a
      writePivots a k.piv
      solverEnd k.code k.a.flatten fl
    | _ => pure ()
  advance

/-- TCHOL (R320): the strictly upper part is neither read nor written. -/
def tcholM (d : DReg) (g : GReg) : M Unit := do
  let x ← tileWordOf (← gR g) false false
  if x.isEmpty then pure ()
  else
    let n := x.rows
    require (x.cols == n) cShape x.word
    let (ts, f) ← solverTiles [(d, n, n)]
    match ts with
    | [t] =>
      let m ← t.read n n fun i j => decide (j ≤ i)
      let (k, fl) := (cholGo n f n 0 ⟨m, [], 0⟩).run 0
      let out := k.a.zipIdx.map fun row => row.1.take (row.2 + 1)
      t.write out
      solverEnd k.code out.flatten fl
    | _ => pure ()
  advance

/-- TTRS (R321): the pivots, where a P form has them. -/
def ttrsM (upper unit : Bool) (piv : Option VReg) (d r0 : DReg) (g : GReg) : M Unit := do
  let x ← tileWordOf (← gR g) false false
  if x.isEmpty then pure ()
  else
    let n := x.rows
    let (ts, _) ← solverTiles [(d, n, n), (r0, n, x.cols)]
    let ps ← match piv with
      | some a => readPivots a n
      | none => pure []
    checkPivots ps n
    match ts with
    | [t, u] =>
      let m ← t.read n n fun i j => if i = j then !unit else decide (i < j) == upper
      let b ← u.read n x.cols everyElem
      let (y, fl) := (triangular upper unit m n x.cols (interchange ps b)).run 0
      u.write y
      solverEnd 0 y.flatten fl
    | _ => pure ()
  advance

/-- TRES (R322); the norm is appended though there be no element. -/
def tresM (d b xd : DReg) (g : GReg) (q : Fin 2) : M Unit := do
  let x ← tileWordOf (← gR g) false false
  needRoom q
  if x.isEmpty then
    pushResult q 0
    solverEnd 0 [] 0
  else
    let n := x.rows
    let (ts, _) ← solverTiles [(d, n, n), (xd, n, x.cols), (b, n, x.cols)]
    match ts with
    | [t, u, w] =>
      let a ← t.read n n everyElem
      let xs ← u.read n x.cols everyElem
      let bs ← w.read n x.cols everyElem
      let (r, fl) := (residual n x.cols a xs bs).run 0
      let (nrm, fl) := (normOf r).run fl
      w.write r
      pushResult q (BitVec.ofNat 64 nrm)
      solverEnd 0 (nrm :: r.flatten) fl
    | _ => pure ()
  advance

/-- Descriptor k after a first one. -/
def descAt (d : Fin 4) (k : Nat) : DReg := Fin.ofNat 8 (d.val + k)

/-- TITER (R323). -/
def titerM (d : Fin 4) (a : VReg) (g : GReg) (q : Fin 2) : M Unit := do
  let x ← tileWordOf (← gR g) false true
  if x.isEmpty then pure ()
  else
    let tol := (← gR (pairReg g)).toNat
    let n := x.rows
    let r := x.cols
    let (ts, _) ← solverTiles
      [(descAt d 0, n, n), (descAt d 1, n, n), (descAt d 2, n, r), (descAt d 3, n, r), (descAt d 4, n, r)]
    let piv ← readPivots a n
    checkPivots piv n
    if 15 ≤ (← strand).qr[q].length then sleepOn (.queueFull (Fin.ofNat 8 (q.val + 6))) else pure ()
    match ts with
    | [ta, tf, tx, tb, tw] =>
      let am ← ta.read n n everyElem
      let lu ← tf.read n n everyElem
      let xm ← tx.read n r everyElem
      let bm ← tb.read n r everyElem
      let stop ← preemptArrival
      let (k, fl) := (refineGo n r am lu bm piv tol x.count stop (x.count + 1) ⟨xm, [], 0, 0, 2⟩).run 0
      tx.write k.x
      tw.write k.w
      pushResult q (BitVec.ofNat 64 k.it)
      pushResult q (BitVec.ofNat 64 k.nrm)
      solverEnd k.code (k.nrm :: (k.x.flatten ++ k.w.flatten)) fl
    | _ => pure ()
  advance

/-- TLUF (R319): LU-factorises a tile in place with partial pivoting. -/
def execTluf (d : DReg) (a : VReg) (g : GReg) (s : State) : Host.Outcome State Fault Refusal :=
  perform (.tluf d a g) (tlufM d a g) s

/-- TCHOL (R320): Cholesky-factorises the lower triangle of a tile in place. -/
def execTchol (d : DReg) (g : GReg) (s : State) : Host.Outcome State Fault Refusal :=
  perform (.tchol d g) (tcholM d g) s

/-- TTRS_L (R321): Solves a lower-triangular system. -/
def execTtrsL (d : DReg) (r0 : DReg) (g : GReg) (s : State) : Host.Outcome State Fault Refusal :=
  perform (.ttrsL d r0 g) (ttrsM false false none d r0 g) s

/-- TTRS_U (R321): Solves an upper-triangular system. -/
def execTtrsU (d : DReg) (r0 : DReg) (g : GReg) (s : State) : Host.Outcome State Fault Refusal :=
  perform (.ttrsU d r0 g) (ttrsM true false none d r0 g) s

/-- TTRS_L1 (R321): Solves a unit lower-triangular system. -/
def execTtrsL1 (d : DReg) (r0 : DReg) (g : GReg) (s : State) : Host.Outcome State Fault Refusal :=
  perform (.ttrsL1 d r0 g) (ttrsM false true none d r0 g) s

/-- TTRS_U1 (R321): Solves a unit upper-triangular system. -/
def execTtrsU1 (d : DReg) (r0 : DReg) (g : GReg) (s : State) : Host.Outcome State Fault Refusal :=
  perform (.ttrsU1 d r0 g) (ttrsM true true none d r0 g) s

/-- TTRS_LP (R321): Applies row interchanges, then solves a lower-triangular system. -/
def execTtrsLp (d : DReg) (a : VReg) (r0 : DReg) (g : GReg) (s : State) : Host.Outcome State Fault Refusal :=
  perform (.ttrsLp d a r0 g) (ttrsM false false (some a) d r0 g) s

/-- TTRS_L1P (R321): Applies row interchanges, then solves a unit lower-triangular system. -/
def execTtrsL1p (d : DReg) (a : VReg) (r0 : DReg) (g : GReg) (s : State) : Host.Outcome State Fault Refusal :=
  perform (.ttrsL1p d a r0 g) (ttrsM false true (some a) d r0 g) s

/-- TRES (R322): Forms the residual B − A×X and appends its infinity norm to q6 or q7. -/
def execTres (d : DReg) (b : DReg) (x : DReg) (g : GReg) (q : Fin 2) (s : State) : Host.Outcome State Fault Refusal :=
  perform (.tres d b x g q) (tresM d b x g q) s

/-- TITER (R323): Refines a solution iteratively up to a cap, tolerance or pending pre-emption. -/
def execTiter (d : Fin 4) (a : VReg) (g : GReg) (q : Fin 2) (s : State) : Host.Outcome State Fault Refusal :=
  perform (.titer d a g q) (titerM d a g q) s

end Sys2Proof.Machine

end
end

