-- ==== Sys2Proof/Machine/Special.lean ====
section
/-! DEFINITION. Special registers (08 R193, R194; 09 R229; 18 R422, R423). -/

noncomputable section

namespace Sys2Proof.Machine

/-- CPLCNT (R130, Table 7). -/
def cplWord (c : BitVec 32 × BitVec 32) : Word := BitVec.ofNat 64 (c.1.toNat * 4294967296 + c.2.toNat)

/-- The strand registers 0x000 to 0x01D (R193, Table 5); none: unassigned. -/
def strandReg (s : State) (c : Ctx) (t : Strand) (n : Nat) : Option Word :=
  match n with
  | 0x000 => some t.vl
  | 0x001 => some t.vpad
  | 0x002 => some t.vtype
  | 0x003 => some t.mfmt
  | 0x004 => some t.vprog
  | 0x005 => some t.tm
  | 0x006 => some t.tn
  | 0x007 => some t.tk
  | 0x008 => some (s.core (coreNum c)).lgmap
  | 0x009 => some t.share
  | 0x00A => some t.slip
  | 0x00B => some t.bypt
  | 0x00C => some t.srseed
  | 0x00D => some t.pivfloor
  | 0x00E => some s.time
  | 0x00F => some t.hart.status
  | 0x010 => some t.accwin
  | 0x018 => some (cplWord t.cpl[0])
  | 0x019 => some (cplWord t.cpl[1])
  | 0x01A => some (cplWord t.cpl[2])
  | 0x01B => some (cplWord t.cpl[3])
  | 0x01C => some (cplWord t.cpl[4])
  | 0x01D => some (cplWord t.cpl[5])
  | _ => none

/-- The RW fields of STATUS (Table 10); SOLV and RG only on a strand (R422). -/
def statusMask (onCc : Bool) : Word := if onCc then 0x1F1F else 0xE0101F1F

/-- A register written under a mask of RW bits, the others kept. -/
def maskedWrite (old new mask : Word) : Word := (old &&& ~~~mask) ||| (new &&& mask)

/-- Writing STATUS (R194, R422). -/
def statusWrite (onCc : Bool) (v : Word) : M Unit :=
  modHart fun h => { h with status := maskedWrite h.status v (statusMask onCc) }

/-- Writing a strand register under its Access codes; none: SWR may not write it (R193, R194). -/
def strandRegWrite (n : Nat) (v : Word) : Option (M Unit) :=
  match n with
  | 0x004 => some (modStrand fun t => { t with vprog := v &&& 0xF0000000FFFFFFFF })
  | 0x009 => some (modStrand fun t => { t with share := v &&& 0xF })
  | 0x00B => some (modStrand fun t => { t with bypt := v &&& 0xFFFFFFFF })
  | 0x00C => some (modStrand fun t => { t with srseed := v, seeded := true })
  | 0x00D => some (modStrand fun t => { t with pivfloor := v })
  | 0x00F => some (statusWrite false v)
  | _ => none

/-- The trap registers and PTBASE (R193, R387, R388). -/
def trapReg (h : Hart) (n : Nat) : Option Word :=
  match n with
  | 0x100 => some h.tcause
  | 0x101 => some h.tpc
  | 0x102 => some h.tval
  | 0x103 => some h.tframe
  | 0x104 => some h.ptbase
  | _ => none

/-- Writing the trap registers and PTBASE. -/
def trapRegWrite (n : Nat) (v : Word) : Option (M Unit) :=
  match n with
  | 0x100 => some (modHart fun h => { h with tcause := v &&& 0xFEFF })
  | 0x101 => some (modHart fun h => { h with tpc := v })
  | 0x102 => some (modHart fun h => { h with tval := v })
  | 0x103 => some (modHart fun h => { h with tframe := v })
  | 0x104 => some (modHart fun h => { h with ptbase := v &&& 0xFFFFFFFFFFF00000 })
  | _ => none

/-- The registers that exist on control complex cores only (R423). -/
def ccReg (c : CcCore) (n : Nat) : Option Word :=
  match n with
  | 0x106 => some c.tvec
  | 0x107 => some c.statRead
  | 0x108 => some c.hart.lbeg
  | 0x109 => some c.hart.lend
  | 0x10A => some c.hart.lrem
  | _ => none

/-- CCSTAT written: PRIV is read-only, LACT is the core's loop state (R423, Table 2). -/
def CcCore.statWrite (c : CcCore) (v : Word) : CcCore :=
  { c with ccstat := maskedWrite c.ccstat v 0x2E, hart := { c.hart with lact := bitOf v 4 } }

/-- Writing the registers of R423 on control complex core k. -/
def ccRegWrite (k n : Nat) (v : Word) : Option (M Unit) :=
  match n with
  | 0x106 => some (modCc k fun c => { c with tvec := v &&& 0xFFFFFFFFFFFFFFFC })
  | 0x107 => some (modCc k fun c => c.statWrite v)
  | 0x108 => some (modHart fun h => { h with lbeg := v })
  | 0x109 => some (modHart fun h => { h with lend := v })
  | 0x10A => some (modHart fun h => { h with lrem := v })
  | _ => none

/-- A register that one form reads, or the illegal-instruction trap. -/
def readInto (i : Instr) (d : GReg) (v : Option Word) : M Unit := do
  match v with
  | some w =>
    gW d w
    advance
  | none => trap cIllegal (wordOf i)

/-- A register write, or the illegal-instruction trap. -/
def writeFrom (i : Instr) (m : Option (M Unit)) : M Unit := do
  match m with
  | some w =>
    w
    advance
  | none => trap cIllegal (wordOf i)

/-- TIME and STATUS, the strand registers that a control complex core reads (R422). -/
def ccStrandReg (s : State) (k n : Nat) : Option Word :=
  match n with
  | 0x00E => some s.time
  | 0x00F => some (s.cc k).hart.status
  | _ => none

/-- SRD (R194, R422). -/
def srdM (d : GReg) (n : Fin 1024) : M Unit := do
  let s ← get
  match s.turn with
  | .strand c =>
    require (decide (n.val < 0x100)) cPrivilege (wordOf (.srd d n))
    readInto (.srd d n) d (strandReg s c (← strand) n.val)
  | .cc k => readInto (.srd d n) d (ccStrandReg s k.val n.val)

/-- SWR (R194, R422). -/
def swrM (a : GReg) (n : Fin 1024) : M Unit := do
  let v ← gR a
  match (← get).turn with
  | .strand _ =>
    require (decide (n.val < 0x100)) cPrivilege (wordOf (.swr a n))
    writeFrom (.swr a n) (strandRegWrite n.val v)
  | .cc _ => writeFrom (.swr a n) (if n.val = 0x00F then some (statusWrite true v) else none)

/-- MFS (R229). -/
def mfsM (d : GReg) (n : Fin 1024) : M Unit := do
  let s ← get
  let h ← hart
  match s.turn with
  | .strand c =>
    let t ← strand
    let v := if n.val < 0x100 then strandReg s c t n.val else if n.val = 0x105 then some t.upra else trapReg h n.val
    readInto (.mfs d n) d v
  | .cc k =>
    let v := if n.val < 0x100 then ccStrandReg s k.val n.val
      else if n.val < 0x105 then trapReg h n.val else ccReg (s.cc k.val) n.val
    readInto (.mfs d n) d v

/-- MTS (R229); it is the supervisor's write of ACCWIN, too (R105, R193). -/
def mtsM (a : GReg) (n : Fin 1024) : M Unit := do
  let v ← gR a
  match (← get).turn with
  | .strand _ =>
    let m := if n.val = 0x010 then some (modStrand fun t => { t with accwin := v &&& 0x7FFF00007FFF })
      else if n.val < 0x100 then strandRegWrite n.val v
      else if n.val = 0x105 then some (modStrand fun t => { t with upra := v }) else trapRegWrite n.val v
    writeFrom (.mts a n) m
  | .cc k =>
    let m := if n.val < 0x100 then (if n.val = 0x00F then some (statusWrite true v) else none)
      else if n.val < 0x105 then trapRegWrite n.val v else ccRegWrite k.val n.val v
    writeFrom (.mts a n) m

/-- SRD (R194): Reads a strand special register into gd, resynchronising the sides for VPROG and STATUS. -/
def execSrd (d : GReg) (n : Fin 1024) (s : State) : Host.Outcome State Fault Refusal :=
  perform (.srd d n) (srdM d n) s

/-- SWR (R194): Writes a strand special register from ga under its access codes. -/
def execSwr (a : GReg) (n : Fin 1024) (s : State) : Host.Outcome State Fault Refusal :=
  perform (.swr a n) (swrM a n) s

/-- MFS (R229): Reads any assigned special register into gd at system privilege. -/
def execMfs (d : GReg) (n : Fin 1024) (s : State) : Host.Outcome State Fault Refusal :=
  perform (.mfs d n) (mfsM d n) s

/-- MTS (R229): Writes any assigned special register at system privilege. -/
def execMts (a : GReg) (n : Fin 1024) (s : State) : Host.Outcome State Fault Refusal :=
  perform (.mts a n) (mtsM a n) s

end Sys2Proof.Machine

end
end

