-- ==== Sys2Proof/Machine/Wake.lean ====
section
/-! DEFINITION. Events of waiting and of the memory side: wake-ups, interrupts and notices, table walks, fills, windows, demotions and carve-outs (05 R128; 07 R165, R182; 13 R329-R352; 18 R424, R427; 02 R29; 03 R58-R76). -/

noncomputable section

namespace Sys2Proof.Machine

/-- Letting an agent issue again. -/
def awake (a : Agent) : M Unit := modify fun s => s.rouse a

/-- Whether a queue has room for its writer (R164). -/
def Strand.hasRoom (t : Strand) (q : Fin 8) : Bool :=
  if q.val < 4 then decide ((t.qs[q.val % 4]).length < 16)
  else if q.val < 6 then decide ((t.qv[q.val % 2]).length < 4)
  else decide ((t.qr[q.val % 2]).length < 16)

/-- Whether the head of a queue is there for its reader (R164). -/
def Strand.hasHead (t : Strand) (q : Fin 8) : Bool :=
  if q.val < 4 then !(t.qs[q.val % 4]).isEmpty
  else if q.val < 6 then (t.qv[q.val % 2]).head?.any fun e => e.awaits.isNone
  else (t.qr[q.val % 2]).head?.any fun e => match e with
    | .value _ => true
    | .awaits _ _ => false

/-- Whether what a strand sleeps on, in queues or in other strands, is over (R42, R165, R169, R344). -/
def State.sleepOver (s : State) (t : Strand) (r : Sleep) : Bool :=
  match r with
  | .queueFull q => t.hasRoom q
  | .queueEmpty q => t.hasHead q
  | .stream q => !t.activeStream (Fin.ofNat 2 q.val)
  | .others cs => cs.all fun c => match s.strand? c.val with
    | some u => !u.pendingWork
    | none => true
  | .pageUse job va cs => cs.all fun c => match s.strand? c.val with
    | some u => u.awaitsBank.isEmpty && u.ops.all fun o => o.complete || !o.work.uses job va
    | none => true
  | .performed p n => (t.opAt p n).all fun o => o.work != .forwarded
  | .replies => t.awaitsBank.isEmpty
  | _ => false

/-- QUEUE_WAKE (R165): the sleeping side tries its instruction again. -/
def queueWakeM (c : Ctx) : M Unit := do
  let s ← get
  match s.strand? c.val, s.sleepOf (.strand c) with
  | some t, some r => if s.sleepOver t r then awake (.strand c) else pure ()
  | _, _ => pure ()

/-- The queue that an access side sleeps on, where only its own execute side could end the wait (R165): an entry that an
operation will fill is not waited for in vain. -/
def Strand.accessWait (t : Strand) : Option (Fin 8) :=
  match t.cond with
  | .asleep (.queueFull q) => if t.hasRoom q then none else some q
  | .asleep (.queueEmpty q) =>
    if t.hasHead q || (decide (6 ≤ q.val) && !(t.qr[q.val % 2]).isEmpty) then none else some q
  | .asleep (.stream q) => if t.activeStream (Fin.ofNat 2 q.val) then some q else none
  | _ => none

/-- The queue that the execute side sleeps on, with no operation outstanding that delivers into it (R165). -/
def Strand.executeWait (t : Strand) : Option (Fin 8) :=
  match t.iq with
  | f :: _ =>
    match queueNeed f.instr (t.withCaptured f.cap) with
    | some q =>
      if q.val = 4 ∨ q.val = 5 then
        let k := Fin.ofNat 2 q.val
        if t.activeStream k || (t.qv[k]).any fun e => match e.awaits with
          | some (.op _) => true
          | _ => false
        then none else some q
      else some q
    | none => none
  | [] => none

/-- QUEUE_DEADLOCK (R165, R389): the watchdog trap, precise at the access side's sleeping instruction; what stands in the execute
side's queue is held in a frame. -/
def queueDeadlockM (c : Ctx) : M Unit := do
  let s ← get
  match s.strand? c.val with
  | some t =>
    match t.accessWait, t.executeWait with
    | some q, some r =>
      match t.iq with
      | f :: rest =>
        let trap : TrapReq := { cause := cWatchdog, tval := BitVec.ofNat 64 (2 ^ 63 + q.val + 8 * r.val), tpc := some t.hart.pc }
        let s := s.storeAll c
        set (s.holdIn c trap f { t with iq := rest, stores := [] } t.hart.pc)
      | [] => pure ()
    | _, _ => pure ()
  | none => pure ()

/-- SEMAPHORE_GRANT (R128): the strand that has waited longest for a clear bit obtains it, as a QUAD-scope acquire, and
continues. -/
def semaphoreGrantM (q : Nat) (b : Fin 32) : M Unit := do
  let k := (← get).quad q
  if k.sem.getLsbD b.val then pure ()
  else
    match k.waiting.find? fun w => w.2 == b with
    | some (c, _) =>
      modQuad q fun k => { k with sem := k.sem ||| (1#32 <<< b.val), waiting := k.waiting.filter fun w => w.1 != c }
      let _ ← asAgent (.strand c) (do
        acquire 1
        advance
        awake (.strand c))
    | none => pure ()

/-- SIGWAIT_WAKE (R333): the wait returns as an acquire; a read that traps is left to the instruction itself. -/
def sigwaitWakeM (a : Agent) : M Unit := do
  match (← get).sleepOf a with
  | some (.sigwait d va ref scope) =>
    let ok ← asAgent a (do
      let v ← signalRead va
      if reached v ref then
        sigwaitReturn d v scope.val
        awake a
      else pure ())
    if ok then pure () else awake a
  | _ => pure ()

/-- BARRIER_EPISODE_COMPLETE (R329): an episode whose participants have all arrived; at POD scope the hubs of the other modules
report their arrivals (log 32). -/
def barrierComplete (scope : Nat) (n : Nat) (b : Fin 16) (job : BitVec 16) : M Unit := do
  match (← hub).episodes.find? fun e => e.isAt (Fin.ofNat 8 scope) n b job with
  | some e => if e.count ≤ e.arrived.length ∨ scope = 4 then endEpisode e none else pure ()
  | none => pure ()

/-- WAITT_WAKE (R334): TIME has reached the target. -/
def waittWakeM (a : Agent) : M Unit := do
  let s ← get
  match s.sleepOf a with
  | some (.waitt d target) =>
    if target.toNat ≤ s.time.toNat then
      let _ ← asAgent a (do
        timerdM d
        awake a)
    else pure ()
  | _ => pure ()

/-- CPLW_WAKE (R352, R339), and the other waits for operations of a path (R131, R143, R224): a CPLW whose wait is satisfied
returns; one that observes an error tries again and takes its trap. -/
def cplwWakeM (c : Ctx) : M Unit := do
  let s ← get
  match s.strand? c.val with
  | some t =>
    match t.cond with
    | .asleep (.cplw p n) =>
      if t.waitOver p n then
        if (t.observed p n).isSome then awake (.strand c)
        else
          let _ ← asAgent (.strand c) (do
            advance
            awake (.strand c))
      else pure ()
    | .asleep (.issueLimit p) => if t.outstanding p < Config.maxOutstanding then awake (.strand c) else pure ()
    | .asleep (.opDone p n) => if (t.opAt p n).all (·.complete) then awake (.strand c) else pure ()
    | .asleep (.drain ps) => if t.ops.all fun o => !ps.getLsbD o.path.val then awake (.strand c) else pure ()
    | _ => pure ()
  | none => pure ()

/-- IDLE_WAKE (R235). -/
def idleWakeM (c : Ctx) : M Unit := do
  let s ← get
  match s.strand? c.val with
  | some t =>
    match t.cond with
    | .asleep .idle => if !t.pending.isEmpty || t.stop.isSome then awake (.strand c) else pure ()
    | _ => pure ()
  | none => pure ()

/-- CC_INTERRUPT_ENTRY (R424): the oldest raised interrupt is taken between two instructions: CAUSE 0, the source in TVAL. -/
def ccInterrupt (n : Nat) : M Unit := do
  let c := (← get).cc n
  match c.irqs with
  | (src, vec) :: r =>
    if c.held || !bitOf c.ccstat 2 then pure ()
    else
      let v := BitVec.ofNat 64 (src.val + vec.toNat * 65536)
      modCc n fun c => { (c.enter 0 c.hart.pc v) with irqs := r }
  | [] => pure ()

/-- Whether the notice ring takes a notice: enabled, in DRAM and not full (R427). -/
def Hub.ringOpen (h : Hub) : Bool :=
  bitOf h.nqctl 0 && (regionOf (fieldOf h.nqctl 47 15 * 32768)).isDram && (fieldOf h.nqptr 9 0 + 1) % 1024 != fieldOf h.nqptr 41 32

/-- The 32 bytes of a notice (R390). -/
def Notice.image (n : Notice) : Nat :=
  n.w0.toNat + n.cause.toNat * 2 ^ 64 + n.tpc.toNat * 2 ^ 128 + n.tval.toNat * 2 ^ 192

/-- TRAP_NOTICE_DELIVER (R427): the oldest notice of a die enters the ring, PROD advances, and interrupt source 0 is raised. -/
def noticeDeliver (die : Nat) : M Unit := do
  let s ← get
  match (s.die die).notices with
  | n :: r =>
    if !s.hub.ringOpen then pure ()
    else
      let prod := fieldOf s.hub.nqptr 9 0
      let cell := cellOf s.moduleNum.val (fieldOf s.hub.nqctl 47 15 * 32768 + prod * 32)
      modDie die fun d => { d with notices := r }
      touchAddr (cellAddr cell) 32
      mscTouch cell 32 0 false false true
      writeCell cell 32 n.image
      modHub fun h => { h with nqptr := setField h.nqptr 9 0 ((prod + 1) % 1024) }
      raiseIrq (fieldOf s.hub.nqctl 12 8) 0 0
  | [] => pure ()

/-- PAGE_WALK (R29, R41): a walk for a context installs the entry it finds; a fault or a data error is taken by the access that needs it. -/
def pageWalkM (c : Ctx) (va : Word) : M Unit := do
  let s ← get
  match s.strand? c.val with
  | some t =>
    let job := jobOf t.hart.ptbase
    if fieldOf va 63 56 ≠ 0 ∨ (s.tlb (.strand c)).any (fun p => p.maps job va.toNat) then pure ()
    else
      let s := s.touchWalk t.hart.ptbase va.toNat
      set s
      match if (s.walkLost t.hart.ptbase va.toNat).isSome then Walk.invalid else s.walkPage t.hart.ptbase va.toNat with
      | .leaf l size pte =>
        set (s.tlbAdd (.strand c) { job := job, vbase := va.toNat / size * size, size := size, leaf := l, pte := pte })
      | _ => pure ()
  | none => pure ()

/-- MSC_FILL (R58): a line that is not cached is filled; a line beyond the stack is none. -/
def mscFillM (k line : Nat) (chain : BitVec 8) (uo : Bool) : M Unit := do
  let st := (← get).stack k
  if 0x18000000 ≤ line ∨ (st.setLines (mscSet line)).any (fun l => l.line == line) then pure ()
  else
    let (st', ev) := st.fill line chain uo none
    modStack k fun _ => st'
    hotRowEvents k ev

/-- DEMOTE_APPLY (R61, R62): the oldest DEMOTE that no running scrub of its chain holds up takes effect. -/
def demoteApplyM (k : Nat) : M Unit := modStack k fun st =>
  match st.demotes.find? fun c => !st.scrubs.contains c with
  | some c => { st with demotes := st.demotes.erase c }.demote c
  | none => st

/-- DEMOTE_SCRUB_END (R62). -/
def scrubEndM (k : Nat) (c : BitVec 8) : M Unit := modStack k fun st => if st.scrubs.contains c then st.scrub c else st

/-- CARVE_CHANGE (R22, R74): a requested change is carried out once no launch is resident. -/
def carveChangeM (k : Nat) : M Unit := do
  let s ← get
  if bitOf (s.stack k).scfg 11 && s.noneResident then carveChange k else pure ()

/-- CC_INTERRUPT_ENTRY (R424): A control complex core with IE = 1 takes an interrupt between instructions. -/
def execCcInterruptEntry (core : Fin 32) (s : State) : Host.Outcome State Fault Refusal :=
  occur (ccInterrupt core.val) s

/-- TRAP_NOTICE_DELIVER (R427): A die writes a held trap notice into the notice ring and raises interrupt source 0. -/
def execTrapNoticeDeliver (die : Die) (s : State) : Host.Outcome State Fault Refusal :=
  occur (noticeDeliver die.val) s

/-- NQPTR_CONS_WRITE (R427): The supervisor advances CONS, freeing ring entries for held notices. -/
def execNqptrConsWrite (cons : BitVec 10) (s : State) : Host.Outcome State Fault Refusal :=
  occur (nqptrCons cons.toNat) s

/-- NQCTL_WRITE (R427): Sets the ring base, the interrupt core and the enable that lets dies deliver notices. -/
def execNqctlWrite (v : Word) (s : State) : Host.Outcome State Fault Refusal :=
  occur (nqctlSet v) s

/-- PAGE_WALK (R29): A walker reads the page-table levels for a translation-cache miss and installs the entry or faults. -/
def execPageWalk (ctx : Ctx) (va : Word) (s : State) : Host.Outcome State Fault Refusal :=
  occur (pageWalkM ctx va) s

/-- MSC_FILL (R58): A DRAM line is filled into the memory-side cache at its priority class, evicting a victim. -/
def execMscFill (stack : Die) (line : Nat) (chain : BitVec 8) (uo : Bool) (s : State) : Host.Outcome State Fault Refusal :=
  occur (mscFillM stack.val line chain uo) s

/-- REFRESH_WINDOW_END (R67): At the end of a 32 ms window, counts reset, pinned lines are released and the reservation empties. -/
def execRefreshWindowEnd (stack : Die) (s : State) : Host.Outcome State Fault Refusal :=
  occur (modStack stack.val Stack.endWindow) s

/-- DEMOTE_APPLY (R61): A stack increments a chain's generation, waiting for a running scrub of that chain first. -/
def execDemoteApply (stack : Die) (s : State) : Host.Outcome State Fault Refusal :=
  occur (demoteApplyM stack.val) s

/-- DEMOTE_SCRUB_END (R62): A stack finishes scrubbing stale chain identifiers after a DEMOTE. -/
def execDemoteScrubEnd (stack : Die) (chain : BitVec 8) (s : State) : Host.Outcome State Fault Refusal :=
  occur (scrubEndM stack.val chain) s

/-- SCFG_CARVE_WRITE (R74): Records a requested carve-out change. -/
def execScfgCarveWrite (stack : Die) (carve : Fin 8) (s : State) : Host.Outcome State Fault Refusal :=
  occur (scfgWrite stack.val carve.val) s

/-- CARVE_CHANGE (R74): Once no launch is resident, the base die writes back the changed ways, zeroes the new resident memory, releases pins and sets ACT. -/
def execCarveChange (stack : Die) (s : State) : Host.Outcome State Fault Refusal :=
  occur (carveChangeM stack.val) s

/-- HRCTL_WRITE (R76): Sets hot-row capture control, effective for the next activation. -/
def execHrctlWrite (stack : Die) (v : Word) (s : State) : Host.Outcome State Fault Refusal :=
  occur (modStack stack.val fun k => { k with hrctl := hrctlStored v }) s

/-- QUEUE_WAKE (R165): A side sleeping on a full or empty queue wakes when the queue changes. -/
def execQueueWake (ctx : Ctx) (s : State) : Host.Outcome State Fault Refusal :=
  occur (queueWakeM ctx) s

/-- QUEUE_DEADLOCK (R165): Both sides of a strand sleep on each other's queues, and the watchdog trap is taken. -/
def execQueueDeadlock (ctx : Ctx) (s : State) : Host.Outcome State Fault Refusal :=
  occur (queueDeadlockM ctx) s

/-- SEMAPHORE_GRANT (R128): A strand sleeping in CTAS obtains the bit as a QUAD-scope acquire. -/
def execSemaphoreGrant (quad : Fin 1024) (bit : Fin 32) (s : State) : Host.Outcome State Fault Refusal :=
  occur (semaphoreGrantM quad.val bit) s

/-- SIGWAIT_WAKE (R333): A sleeping SIGWAIT finds its condition met and returns as an acquire. -/
def execSigwaitWake (who : Agent) (s : State) : Host.Outcome State Fault Refusal :=
  occur (sigwaitWakeM who) s

/-- BARRIER_EPISODE_COMPLETE (R329): The last arrival completes an episode; every participant acquires and continues. -/
def execBarrierEpisodeComplete (scope : Fin 5) (inst : Nat) (bar : Fin 16) (job : BitVec 16) (s : State) : Host.Outcome State Fault Refusal :=
  occur (barrierComplete scope.val inst bar job) s

/-- WAITT_WAKE (R334): A sleeping WAITT wakes once TIME reaches its target. -/
def execWaittWake (who : Agent) (s : State) : Host.Outcome State Fault Refusal :=
  occur (waittWakeM who) s

/-- CPLW_WAKE (R352): A sleeping CPLW returns once its wait is satisfied. -/
def execCplwWake (ctx : Ctx) (s : State) : Host.Outcome State Fault Refusal :=
  occur (cplwWakeM ctx) s

/-- IDLE_WAKE (R235): An idle device strand wakes on a pending upcall or a pre-emption. -/
def execIdleWake (ctx : Ctx) (s : State) : Host.Outcome State Fault Refusal :=
  occur (idleWakeM ctx) s

end Sys2Proof.Machine

end
end

