-- ==== Sys2Proof/Machine/Dispatch.lean ====
section
/-! DEFINITION. The meaning of every instruction, one arm per constructor. -/

namespace Sys2Proof.Machine

-- Lean generates no code for the constructors beyond the 245th, so that no code is asked for here.
open Host in noncomputable
def exec (i : Instr) (s : State) : Host.Outcome State Fault Refusal :=
  match i with
  | .add d a b => Sys2Proof.Machine.execAdd d a b s
  | .sub d a b => Sys2Proof.Machine.execSub d a b s
  | .mul d a b => Sys2Proof.Machine.execMul d a b s
  | .mulh d a b => Sys2Proof.Machine.execMulh d a b s
  | .mulhn d a b => Sys2Proof.Machine.execMulhn d a b s
  | .div d a b => Sys2Proof.Machine.execDiv d a b s
  | .divn d a b => Sys2Proof.Machine.execDivn d a b s
  | .rem d a b => Sys2Proof.Machine.execRem d a b s
  | .remn d a b => Sys2Proof.Machine.execRemn d a b s
  | .and d a b => Sys2Proof.Machine.execAnd d a b s
  | .or d a b => Sys2Proof.Machine.execOr d a b s
  | .xor d a b => Sys2Proof.Machine.execXor d a b s
  | .shl d a b => Sys2Proof.Machine.execShl d a b s
  | .shr d a b => Sys2Proof.Machine.execShr d a b s
  | .sra d a b => Sys2Proof.Machine.execSra d a b s
  | .slt d a b => Sys2Proof.Machine.execSlt d a b s
  | .sltn d a b => Sys2Proof.Machine.execSltn d a b s
  | .min d a b => Sys2Proof.Machine.execMin d a b s
  | .max d a b => Sys2Proof.Machine.execMax d a b s
  | .clz d a => Sys2Proof.Machine.execClz d a s
  | .ctz d a => Sys2Proof.Machine.execCtz d a s
  | .popc d a => Sys2Proof.Machine.execPopc d a s
  | .ldl d a => Sys2Proof.Machine.execLdl d a s
  | .stc d a b => Sys2Proof.Machine.execStc d a b s
  | .addi d a imm => Sys2Proof.Machine.execAddi d a imm s
  | .andi d a imm => Sys2Proof.Machine.execAndi d a imm s
  | .ori d a imm => Sys2Proof.Machine.execOri d a imm s
  | .xori d a imm => Sys2Proof.Machine.execXori d a imm s
  | .shli d a imm => Sys2Proof.Machine.execShli d a imm s
  | .shri d a imm => Sys2Proof.Machine.execShri d a imm s
  | .srai d a imm => Sys2Proof.Machine.execSrai d a imm s
  | .slti d a imm => Sys2Proof.Machine.execSlti d a imm s
  | .lui d imm => Sys2Proof.Machine.execLui d imm s
  | .addpc d imm => Sys2Proof.Machine.execAddpc d imm s
  | .ldB d a imm => Sys2Proof.Machine.execLdB d a imm s
  | .ldH d a imm => Sys2Proof.Machine.execLdH d a imm s
  | .ldW d a imm => Sys2Proof.Machine.execLdW d a imm s
  | .ldD d a imm => Sys2Proof.Machine.execLdD d a imm s
  | .ldBN d a imm => Sys2Proof.Machine.execLdBN d a imm s
  | .ldHN d a imm => Sys2Proof.Machine.execLdHN d a imm s
  | .ldWN d a imm => Sys2Proof.Machine.execLdWN d a imm s
  | .stB d a imm => Sys2Proof.Machine.execStB d a imm s
  | .stH d a imm => Sys2Proof.Machine.execStH d a imm s
  | .stW d a imm => Sys2Proof.Machine.execStW d a imm s
  | .stD d a imm => Sys2Proof.Machine.execStD d a imm s
  | .srd d n => Sys2Proof.Machine.execSrd d n s
  | .swr a n => Sys2Proof.Machine.execSwr a n s
  | .beq a b off => Sys2Proof.Machine.execBeq a b off s
  | .bne a b off => Sys2Proof.Machine.execBne a b off s
  | .blt a b off => Sys2Proof.Machine.execBlt a b off s
  | .bge a b off => Sys2Proof.Machine.execBge a b off s
  | .bltn a b off => Sys2Proof.Machine.execBltn a b off s
  | .bgen a b off => Sys2Proof.Machine.execBgen a b off s
  | .jal off => Sys2Proof.Machine.execJal off s
  | .jalr d a => Sys2Proof.Machine.execJalr d a s
  | .loop h a l => Sys2Proof.Machine.execLoop h a l s
  | .vrep l a => Sys2Proof.Machine.execVrep l a s
  | .yield => Sys2Proof.Machine.execYield s
  | .sexit => Sys2Proof.Machine.execSexit s
  | .scall h l => Sys2Proof.Machine.execScall h l s
  | .brk h l => Sys2Proof.Machine.execBrk h l s
  | .qw q a => Sys2Proof.Machine.execQw q a s
  | .qr d q => Sys2Proof.Machine.execQr d q s
  | .qpeek d q => Sys2Proof.Machine.execQpeek d q s
  | .qstat d q => Sys2Proof.Machine.execQstat d q s
  | .vadd d a b mk me => Sys2Proof.Machine.execVadd d a b mk me s
  | .vsub d a b mk me => Sys2Proof.Machine.execVsub d a b mk me s
  | .vmul d a b mk me => Sys2Proof.Machine.execVmul d a b mk me s
  | .vdiv d a b mk me => Sys2Proof.Machine.execVdiv d a b mk me s
  | .vmin d a b mk me => Sys2Proof.Machine.execVmin d a b mk me s
  | .vmax d a b mk me => Sys2Proof.Machine.execVmax d a b mk me s
  | .vand d a b mk me => Sys2Proof.Machine.execVand d a b mk me s
  | .vor d a b mk me => Sys2Proof.Machine.execVor d a b mk me s
  | .vxor d a b mk me => Sys2Proof.Machine.execVxor d a b mk me s
  | .vshl d a b mk me => Sys2Proof.Machine.execVshl d a b mk me s
  | .vshr d a b mk me => Sys2Proof.Machine.execVshr d a b mk me s
  | .vsra d a b mk me => Sys2Proof.Machine.execVsra d a b mk me s
  | .vwmul d a b mk me => Sys2Proof.Machine.execVwmul d a b mk me s
  | .vwadd d a b mk me => Sys2Proof.Machine.execVwadd d a b mk me s
  | .vfma d a b mk me => Sys2Proof.Machine.execVfma d a b mk me s
  | .vfms d a b mk me => Sys2Proof.Machine.execVfms d a b mk me s
  | .vfnma d a b mk me => Sys2Proof.Machine.execVfnma d a b mk me s
  | .vsqrt d a mk me => Sys2Proof.Machine.execVsqrt d a mk me s
  | .vrcp d a mk me => Sys2Proof.Machine.execVrcp d a mk me s
  | .vabs d a mk me => Sys2Proof.Machine.execVabs d a mk me s
  | .vneg d a mk me => Sys2Proof.Machine.execVneg d a mk me s
  | .vmov d a mk me => Sys2Proof.Machine.execVmov d a mk me s
  | .vclass d a mk me => Sys2Proof.Machine.execVclass d a mk me s
  | .viota d mk me => Sys2Proof.Machine.execViota d mk me s
  | .vsplat d b mk me => Sys2Proof.Machine.execVsplat d b mk me s
  | .vmovQ q a b => Sys2Proof.Machine.execVmovQ q a b s
  | .vnarrow d a mk me => Sys2Proof.Machine.execVnarrow d a mk me s
  | .vaddS d a b mk me => Sys2Proof.Machine.execVaddS d a b mk me s
  | .vsubS d a b mk me => Sys2Proof.Machine.execVsubS d a b mk me s
  | .vmulS d a b mk me => Sys2Proof.Machine.execVmulS d a b mk me s
  | .vdivS d a b mk me => Sys2Proof.Machine.execVdivS d a b mk me s
  | .vminS d a b mk me => Sys2Proof.Machine.execVminS d a b mk me s
  | .vmaxS d a b mk me => Sys2Proof.Machine.execVmaxS d a b mk me s
  | .vandS d a b mk me => Sys2Proof.Machine.execVandS d a b mk me s
  | .vorS d a b mk me => Sys2Proof.Machine.execVorS d a b mk me s
  | .vxorS d a b mk me => Sys2Proof.Machine.execVxorS d a b mk me s
  | .vshlS d a b mk me => Sys2Proof.Machine.execVshlS d a b mk me s
  | .vshrS d a b mk me => Sys2Proof.Machine.execVshrS d a b mk me s
  | .vsraS d a b mk me => Sys2Proof.Machine.execVsraS d a b mk me s
  | .vwmulS d a b mk me => Sys2Proof.Machine.execVwmulS d a b mk me s
  | .vwaddS d a b mk me => Sys2Proof.Machine.execVwaddS d a b mk me s
  | .vfmaS d a b mk me => Sys2Proof.Machine.execVfmaS d a b mk me s
  | .vfmsS d a b mk me => Sys2Proof.Machine.execVfmsS d a b mk me s
  | .vfnmaS d a b mk me => Sys2Proof.Machine.execVfnmaS d a b mk me s
  | .vcvt d a t mk me => Sys2Proof.Machine.execVcvt d a t mk me s
  | .vqnt d a t mk => Sys2Proof.Machine.execVqnt d a t mk s
  | .vdqnt d a t mk => Sys2Proof.Machine.execVdqnt d a t mk s
  | .vsat d a t mk me => Sys2Proof.Machine.execVsat d a t mk me s
  | .vcmp d a b mk me c => Sys2Proof.Machine.execVcmp d a b mk me c s
  | .vcmpS d a b mk me c => Sys2Proof.Machine.execVcmpS d a b mk me c s
  | .vsel d a b mk => Sys2Proof.Machine.execVsel d a b mk s
  | .vmerge d a mk => Sys2Proof.Machine.execVmerge d a mk s
  | .vld d a mk me => Sys2Proof.Machine.execVld d a mk me s
  | .vlds d a b mk me => Sys2Proof.Machine.execVlds d a b mk me s
  | .vldx d a b mk me => Sys2Proof.Machine.execVldx d a b mk me s
  | .vldxD d a b mk me => Sys2Proof.Machine.execVldxD d a b mk me s
  | .vldq q a mk => Sys2Proof.Machine.execVldq q a mk s
  | .vldl d a b mk me => Sys2Proof.Machine.execVldl d a b mk me s
  | .vldlD d a b mk me => Sys2Proof.Machine.execVldlD d a b mk me s
  | .vldz d a b => Sys2Proof.Machine.execVldz d a b s
  | .vpf k a b mk me => Sys2Proof.Machine.execVpf k a b mk me s
  | .vst r0 a mk me => Sys2Proof.Machine.execVst r0 a mk me s
  | .vsts r0 a b mk me => Sys2Proof.Machine.execVsts r0 a b mk me s
  | .vstx r0 a b mk me => Sys2Proof.Machine.execVstx r0 a b mk me s
  | .vstxD r0 a b mk me => Sys2Proof.Machine.execVstxD r0 a b mk me s
  | .vstc r0 a mk me => Sys2Proof.Machine.execVstc r0 a mk me s
  | .vscc r0 a b mk => Sys2Proof.Machine.execVscc r0 a b mk s
  | .vsccD r0 a b mk => Sys2Proof.Machine.execVsccD r0 a b mk s
  | .vsetl d a b => Sys2Proof.Machine.execVsetl d a b s
  | .vsetmf a => Sys2Proof.Machine.execVsetmf a s
  | .vsplit a b => Sys2Proof.Machine.execVsplit a b s
  | .vfuse => Sys2Proof.Machine.execVfuse s
  | .mpopv d a mk me => Sys2Proof.Machine.execMpopv d a mk me s
  | .mand d a b => Sys2Proof.Machine.execMand d a b s
  | .mor d a b => Sys2Proof.Machine.execMor d a b s
  | .mxor d a b => Sys2Proof.Machine.execMxor d a b s
  | .mnot d a => Sys2Proof.Machine.execMnot d a s
  | .mset d => Sys2Proof.Machine.execMset d s
  | .mclr d => Sys2Proof.Machine.execMclr d s
  | .mfromfm d => Sys2Proof.Machine.execMfromfm d s
  | .mcnt d a => Sys2Proof.Machine.execMcnt d a s
  | .many d a => Sys2Proof.Machine.execMany d a s
  | .mfirst d a => Sys2Proof.Machine.execMfirst d a s
  | .vslideup d a b mk me => Sys2Proof.Machine.execVslideup d a b mk me s
  | .vslidedn d a b mk me => Sys2Proof.Machine.execVslidedn d a b mk me s
  | .vshuf d a b mk me => Sys2Proof.Machine.execVshuf d a b mk me s
  | .vrev d a mk me => Sys2Proof.Machine.execVrev d a mk me s
  | .vcompress d a mk => Sys2Proof.Machine.execVcompress d a mk s
  | .vexpand d a mk => Sys2Proof.Machine.execVexpand d a mk s
  | .vscan d a mk me => Sys2Proof.Machine.execVscan d a mk me s
  | .vscanMin d a mk me => Sys2Proof.Machine.execVscanMin d a mk me s
  | .vscanMax d a mk me => Sys2Proof.Machine.execVscanMax d a mk me s
  | .vredsum d a b mk me => Sys2Proof.Machine.execVredsum d a b mk me s
  | .vredsumF d a b mk me => Sys2Proof.Machine.execVredsumF d a b mk me s
  | .vredmax d a b mk me => Sys2Proof.Machine.execVredmax d a b mk me s
  | .vredmin d a b mk me => Sys2Proof.Machine.execVredmin d a b mk me s
  | .vredsumQ q a b mk me => Sys2Proof.Machine.execVredsumQ q a b mk me s
  | .vredsumFQ q a b mk me => Sys2Proof.Machine.execVredsumFQ q a b mk me s
  | .vredmaxQ q a b mk me => Sys2Proof.Machine.execVredmaxQ q a b mk me s
  | .vredminQ q a b mk me => Sys2Proof.Machine.execVredminQ q a b mk me s
  | .vfold k a mk me => Sys2Proof.Machine.execVfold k a mk me s
  | .vfoldFin d k => Sys2Proof.Machine.execVfoldFin d k s
  | .vfoldClr k => Sys2Proof.Machine.execVfoldClr k s
  | .vfoldFinQ q k => Sys2Proof.Machine.execVfoldFinQ q k s
  | .vconflict d a mk me => Sys2Proof.Machine.execVconflict d a mk me s
  | .fld d r0 => Sys2Proof.Machine.execFld d r0 s
  | .fst a r0 => Sys2Proof.Machine.execFst a r0 s
  | .fldlv d r0 => Sys2Proof.Machine.execFldlv d r0 s
  | .fscat a g => Sys2Proof.Machine.execFscat a g s
  | .fintA d a b => Sys2Proof.Machine.execFintA d a b s
  | .fintB d a b => Sys2Proof.Machine.execFintB d a b s
  | .fintAdd d a b => Sys2Proof.Machine.execFintAdd d a b s
  | .fintMul d a b => Sys2Proof.Machine.execFintMul d a b s
  | .fintMin d a b => Sys2Proof.Machine.execFintMin d a b s
  | .fintMax d a b => Sys2Proof.Machine.execFintMax d a b s
  | .funiA d a b => Sys2Proof.Machine.execFuniA d a b s
  | .funiB d a b => Sys2Proof.Machine.execFuniB d a b s
  | .funiAdd d a b => Sys2Proof.Machine.execFuniAdd d a b s
  | .funiMul d a b => Sys2Proof.Machine.execFuniMul d a b s
  | .funiMin d a b => Sys2Proof.Machine.execFuniMin d a b s
  | .funiMax d a b => Sys2Proof.Machine.execFuniMax d a b s
  | .fmrg d a b => Sys2Proof.Machine.execFmrg d a b s
  | .fsort d a => Sys2Proof.Machine.execFsort d a s
  | .fsortA d a => Sys2Proof.Machine.execFsortA d a s
  | .fsortB d a => Sys2Proof.Machine.execFsortB d a s
  | .fsortAdd d a => Sys2Proof.Machine.execFsortAdd d a s
  | .fsortMul d a => Sys2Proof.Machine.execFsortMul d a s
  | .fsortMin d a => Sys2Proof.Machine.execFsortMin d a s
  | .fsortMax d a => Sys2Proof.Machine.execFsortMax d a s
  | .fcpt d a m => Sys2Proof.Machine.execFcpt d a m s
  | .fcptZ d a => Sys2Proof.Machine.execFcptZ d a s
  | .fexp a v r0 => Sys2Proof.Machine.execFexp a v r0 s
  | .ffromv d v g => Sys2Proof.Machine.execFfromv d v g s
  | .fcrd a v => Sys2Proof.Machine.execFcrd a v s
  | .fval a v => Sys2Proof.Machine.execFval a v s
  | .fcnt q a => Sys2Proof.Machine.execFcnt q a s
  | .mmaT d a g => Sys2Proof.Machine.execMmaT d a g s
  | .mmaM d a g => Sys2Proof.Machine.execMmaM d a g s
  | .mmaxT d a b g => Sys2Proof.Machine.execMmaxT d a b g s
  | .mmaxM d a b g => Sys2Proof.Machine.execMmaxM d a b g s
  | .mmasT d a b g => Sys2Proof.Machine.execMmasT d a b g s
  | .mmasM d a b g => Sys2Proof.Machine.execMmasM d a b g s
  | .tshape g => Sys2Proof.Machine.execTshape g s
  | .accz d g => Sys2Proof.Machine.execAccz d g s
  | .accld d g => Sys2Proof.Machine.execAccld d g s
  | .accst d g => Sys2Proof.Machine.execAccst d g s
  | .accrd d a g => Sys2Proof.Machine.execAccrd d a g s
  | .accwr d a g => Sys2Proof.Machine.execAccwr d a g s
  | .acccvt d a g => Sys2Proof.Machine.execAcccvt d a g s
  | .accred d g => Sys2Proof.Machine.execAccred d g s
  | .accrdD d q => Sys2Proof.Machine.execAccrdD d q s
  | .accwrD d g => Sys2Proof.Machine.execAccwrD d g s
  | .tluf d a g => Sys2Proof.Machine.execTluf d a g s
  | .tchol d g => Sys2Proof.Machine.execTchol d g s
  | .ttrsL d r0 g => Sys2Proof.Machine.execTtrsL d r0 g s
  | .ttrsU d r0 g => Sys2Proof.Machine.execTtrsU d r0 g s
  | .ttrsL1 d r0 g => Sys2Proof.Machine.execTtrsL1 d r0 g s
  | .ttrsU1 d r0 g => Sys2Proof.Machine.execTtrsU1 d r0 g s
  | .ttrsLp d a r0 g => Sys2Proof.Machine.execTtrsLp d a r0 g s
  | .ttrsL1p d a r0 g => Sys2Proof.Machine.execTtrsL1p d a r0 g s
  | .tres d b x g q => Sys2Proof.Machine.execTres d b x g q s
  | .titer d a g q => Sys2Proof.Machine.execTiter d a g q s
  | .ctas b => Sys2Proof.Machine.execCtas b s
  | .cclr b => Sys2Proof.Machine.execCclr b s
  | .crd d r => Sys2Proof.Machine.execCrd d r s
  | .cwr a r => Sys2Proof.Machine.execCwr a r s
  | .bar a b r0 => Sys2Proof.Machine.execBar a b r0 s
  | .fenceAv => Sys2Proof.Machine.execFenceAv s
  | .fenceVa => Sys2Proof.Machine.execFenceVa s
  | .fenceVv => Sys2Proof.Machine.execFenceVv s
  | .fenceAll => Sys2Proof.Machine.execFenceAll s
  | .xfence p c r0 => Sys2Proof.Machine.execXfence p c r0 s
  | .siginc a b => Sys2Proof.Machine.execSiginc a b s
  | .sigincR a b r0 => Sys2Proof.Machine.execSigincR a b r0 s
  | .sigwait d a b r0 => Sys2Proof.Machine.execSigwait d a b r0 s
  | .timerd d => Sys2Proof.Machine.execTimerd d s
  | .waitt d a => Sys2Proof.Machine.execWaitt d a s
  | .bnkopAdd d a b => Sys2Proof.Machine.execBnkopAdd d a b s
  | .bnkopMin d a b => Sys2Proof.Machine.execBnkopMin d a b s
  | .bnkopMax d a b => Sys2Proof.Machine.execBnkopMax d a b s
  | .bnkopMinn d a b => Sys2Proof.Machine.execBnkopMinn d a b s
  | .bnkopMaxn d a b => Sys2Proof.Machine.execBnkopMaxn d a b s
  | .bnkopAnd d a b => Sys2Proof.Machine.execBnkopAnd d a b s
  | .bnkopOr d a b => Sys2Proof.Machine.execBnkopOr d a b s
  | .bnkopXor d a b => Sys2Proof.Machine.execBnkopXor d a b s
  | .bnkopSwap d a b => Sys2Proof.Machine.execBnkopSwap d a b s
  | .bnkopCas d a b => Sys2Proof.Machine.execBnkopCas d a b s
  | .bnkopFadd32 d a b => Sys2Proof.Machine.execBnkopFadd32 d a b s
  | .bnkopFadd64 d a b => Sys2Proof.Machine.execBnkopFadd64 d a b s
  | .bnkrdF32 d a => Sys2Proof.Machine.execBnkrdF32 d a s
  | .bnkrdBf16 d a => Sys2Proof.Machine.execBnkrdBf16 d a s
  | .bnkrdF64 d a => Sys2Proof.Machine.execBnkrdF64 d a s
  | .bnkrdF32Z d a => Sys2Proof.Machine.execBnkrdF32Z d a s
  | .bnkrdBf16Z d a => Sys2Proof.Machine.execBnkrdBf16Z d a s
  | .bnkrdF64Z d a => Sys2Proof.Machine.execBnkrdF64Z d a s
  | .gstr d a => Sys2Proof.Machine.execGstr d a s
  | .gstop a => Sys2Proof.Machine.execGstop a s
  | .copy d a b => Sys2Proof.Machine.execCopy d a b s
  | .copyMt d a b => Sys2Proof.Machine.execCopyMt d a b s
  | .copyTm d a b => Sys2Proof.Machine.execCopyTm d a b s
  | .copyTt d a b => Sys2Proof.Machine.execCopyTt d a b s
  | .cplw p a => Sys2Proof.Machine.execCplw p a s
  | .oncpl p a b => Sys2Proof.Machine.execOncpl p a b s
  | .upret => Sys2Proof.Machine.execUpret s
  | .resid a b => Sys2Proof.Machine.execResid a b s
  | .demote a => Sys2Proof.Machine.execDemote a s
  | .discard a b => Sys2Proof.Machine.execDiscard a b s
  | .pghint c a b => Sys2Proof.Machine.execPghint c a b s
  | .gath d a b mk me x l => Sys2Proof.Machine.execGath d a b mk me x l s
  | .rstv r0 a mk me q l => Sys2Proof.Machine.execRstv r0 a mk me q l s
  | .rstvMc r0 a b mk me q l => Sys2Proof.Machine.execRstvMc r0 a b mk me q l s
  | .rstvAdd r0 a mk me q => Sys2Proof.Machine.execRstvAdd r0 a mk me q s
  | .bnkexa r0 a b mk me => Sys2Proof.Machine.execBnkexa r0 a b mk me s
  | .ccfg d a b => Sys2Proof.Machine.execCcfg d a b s
  | .cap d a b => Sys2Proof.Machine.execCap d a b s
  | .capP d a b => Sys2Proof.Machine.execCapP d a b s
  | .cslot d a b => Sys2Proof.Machine.execCslot d a b s
  | .cslotFree d a b => Sys2Proof.Machine.execCslotFree d a b s
  | .ctake d a => Sys2Proof.Machine.execCtake d a s
  | .cstat d a c => Sys2Proof.Machine.execCstat d a c s
  | .cdep r0 a b q => Sys2Proof.Machine.execCdep r0 a b q s
  | .fadd d a b r t => Sys2Proof.Machine.execFadd d a b r t s
  | .fsub d a b r t => Sys2Proof.Machine.execFsub d a b r t s
  | .fmul d a b r t => Sys2Proof.Machine.execFmul d a b r t s
  | .ffma d a b r t => Sys2Proof.Machine.execFfma d a b r t s
  | .fdiv d a b r t => Sys2Proof.Machine.execFdiv d a b r t s
  | .fsqrt d a r t => Sys2Proof.Machine.execFsqrt d a r t s
  | .fcmp d a b t => Sys2Proof.Machine.execFcmp d a b t s
  | .fcvt d a r0 r t => Sys2Proof.Machine.execFcvt d a r0 r t s
  | .mfs d n => Sys2Proof.Machine.execMfs d n s
  | .mts a n => Sys2Proof.Machine.execMts a n s
  | .tret => Sys2Proof.Machine.execTret s
  | .launch d a => Sys2Proof.Machine.execLaunch d a s
  | .launchAbort d a => Sys2Proof.Machine.execLaunchAbort d a s
  | .preempt d a => Sys2Proof.Machine.execPreempt d a s
  | .ctxsave d a b => Sys2Proof.Machine.execCtxsave d a b s
  | .ctxload d a b => Sys2Proof.Machine.execCtxload d a b s
  | .frestore d a b => Sys2Proof.Machine.execFrestore d a b s
  | .xlinv a b r0 => Sys2Proof.Machine.execXlinv a b r0 s
  | .idle => Sys2Proof.Machine.execIdle s
  | .setpri d a b => Sys2Proof.Machine.execSetpri d a b s
  | .lgretire d a b => Sys2Proof.Machine.execLgretire d a b s
  | .sblk count len => Sys2Proof.Machine.execSblk count len s
  | .ccInterruptEntry core => Sys2Proof.Machine.execCcInterruptEntry core s
  | .trapNoticeDeliver die => Sys2Proof.Machine.execTrapNoticeDeliver die s
  | .nqptrConsWrite cons => Sys2Proof.Machine.execNqptrConsWrite cons s
  | .nqctlWrite v => Sys2Proof.Machine.execNqctlWrite v s
  | .pageWalk ctx va => Sys2Proof.Machine.execPageWalk ctx va s
  | .mscFill stack line chain uo => Sys2Proof.Machine.execMscFill stack line chain uo s
  | .refreshWindowEnd stack => Sys2Proof.Machine.execRefreshWindowEnd stack s
  | .demoteApply stack => Sys2Proof.Machine.execDemoteApply stack s
  | .demoteScrubEnd stack chain => Sys2Proof.Machine.execDemoteScrubEnd stack chain s
  | .scfgCarveWrite stack carve => Sys2Proof.Machine.execScfgCarveWrite stack carve s
  | .carveChange stack => Sys2Proof.Machine.execCarveChange stack s
  | .hrctlWrite stack v => Sys2Proof.Machine.execHrctlWrite stack v s
  | .fumaroleForwardReceive stack => Sys2Proof.Machine.execFumaroleForwardReceive stack s
  | .fumaroleReturnReceive stack => Sys2Proof.Machine.execFumaroleReturnReceive stack s
  | .geyserEntryDeliver ctx n => Sys2Proof.Machine.execGeyserEntryDeliver ctx n s
  | .pathOperationComplete ctx path n => Sys2Proof.Machine.execPathOperationComplete ctx path n s
  | .upcallEntry ctx => Sys2Proof.Machine.execUpcallEntry ctx s
  | .queueWake ctx => Sys2Proof.Machine.execQueueWake ctx s
  | .queueDeadlock ctx => Sys2Proof.Machine.execQueueDeadlock ctx s
  | .semaphoreGrant quad bit => Sys2Proof.Machine.execSemaphoreGrant quad bit s
  | .sigwaitWake who => Sys2Proof.Machine.execSigwaitWake who s
  | .barrierEpisodeComplete scope inst bar job => Sys2Proof.Machine.execBarrierEpisodeComplete scope inst bar job s
  | .waittWake who => Sys2Proof.Machine.execWaittWake who s
  | .cplwWake ctx => Sys2Proof.Machine.execCplwWake ctx s
  | .idleWake ctx => Sys2Proof.Machine.execIdleWake ctx s
  | .rstvOutcome ctx n refused => Sys2Proof.Machine.execRstvOutcome ctx n refused s
  | .remoteStorePacket src op writes => Sys2Proof.Machine.execRemoteStorePacket src op writes s
  | .remoteAddPacket src op width adds => Sys2Proof.Machine.execRemoteAddPacket src op width adds s
  | .signalPacket src op addr addend release => Sys2Proof.Machine.execSignalPacket src op addr addend release s
  | .tokenRowPacket src op addr ticket gate row => Sys2Proof.Machine.execTokenRowPacket src op addr ticket gate row s
  | .ackPacket ctx path n code => Sys2Proof.Machine.execAckPacket ctx path n code s
  | .remoteReadPacket src addr len => Sys2Proof.Machine.execRemoteReadPacket src addr len s
  | .readDataPacket src addr bytes => Sys2Proof.Machine.execReadDataPacket src addr bytes s
  | .remoteBankRequest src kind addr operand => Sys2Proof.Machine.execRemoteBankRequest src kind addr operand s
  | .remoteBankReply ctx v => Sys2Proof.Machine.execRemoteBankReply ctx v s
  | .rdWriteFaultReport page writer split => Sys2Proof.Machine.execRdWriteFaultReport page writer split s
  | .rdSplitReceive home page ptbase va table => Sys2Proof.Machine.execRdSplitReceive home page ptbase va table s
  | .rdInvReceive home page ptbase va => Sys2Proof.Machine.execRdInvReceive home page ptbase va s
  | .rdAckReceive page holder => Sys2Proof.Machine.execRdAckReceive page holder s
  | .rdReleasedRetired page writer => Sys2Proof.Machine.execRdReleasedRetired page writer s
  | .rdFormerHolderFault page holder ptbase va => Sys2Proof.Machine.execRdFormerHolderFault page holder ptbase va s
  | .calderaDeposit die => Sys2Proof.Machine.execCalderaDeposit die s
  | .calderaTimeoutRelease die base slot => Sys2Proof.Machine.execCalderaTimeoutRelease die base slot s
  | .calderaTimeoutTrap ctx => Sys2Proof.Machine.execCalderaTimeoutTrap ctx s
  | .launchEnterDispatch issuer launch => Sys2Proof.Machine.execLaunchEnterDispatch issuer launch s
  | .dispatchPlace die => Sys2Proof.Machine.execDispatchPlace die s
  | .dispatchPreempt die => Sys2Proof.Machine.execDispatchPreempt die s
  | .quantumExpiry ctx => Sys2Proof.Machine.execQuantumExpiry ctx s
  | .launchRetire issuer launch => Sys2Proof.Machine.execLaunchRetire issuer launch s
  | .uncorrectableError struct place addr ctx elem => Sys2Proof.Machine.execUncorrectableError struct place addr ctx elem s
  | .errorRetryResult ok => Sys2Proof.Machine.execErrorRetryResult ok s
  | .linkCrcResend port => Sys2Proof.Machine.execLinkCrcResend port s
  | .linkRetrain port ok => Sys2Proof.Machine.execLinkRetrain port ok s
  | .tuffStreamSend => Sys2Proof.Machine.execTuffStreamSend s
  | .tuffctlFrzSet => Sys2Proof.Machine.execTuffctlFrzSet s
  | .tuffctlFrzClear => Sys2Proof.Machine.execTuffctlFrzClear s
  | .tuffctlStreamWrite on => Sys2Proof.Machine.execTuffctlStreamWrite on s
  | .tuffputCommit w3 => Sys2Proof.Machine.execTuffputCommit w3 s
  | .mextExtend w => Sys2Proof.Machine.execMextExtend w s
  | .attestRequest va => Sys2Proof.Machine.execAttestRequest va s
  | .moduleReset => Sys2Proof.Machine.execModuleReset s
  | .tftpImageReceive image => Sys2Proof.Machine.execTftpImageReceive image s
  | .rstctlWarmWrite => Sys2Proof.Machine.execRstctlWarmWrite s
  | .warmReset => Sys2Proof.Machine.execWarmReset s
  | .timectlGmWrite v => Sys2Proof.Machine.execTimectlGmWrite v s
  | .timectlRelWrite => Sys2Proof.Machine.execTimectlRelWrite s
  | .gmReleaseTimeout => Sys2Proof.Machine.execGmReleaseTimeout s
  | .timeEventMessage offset adjust => Sys2Proof.Machine.execTimeEventMessage offset adjust s
  | .timeLockChange => Sys2Proof.Machine.execTimeLockChange s
  | .pwrctlReqWrite req => Sys2Proof.Machine.execPwrctlReqWrite req s
  | .powerModeChangeEnd => Sys2Proof.Machine.execPowerModeChangeEnd s
  | .thermalThrottle => Sys2Proof.Machine.execThermalThrottle s
  | .thermalUnthrottle => Sys2Proof.Machine.execThermalUnthrottle s
  | .thermalPowerOff => Sys2Proof.Machine.execThermalPowerOff s
  | .pcieInboundDma port addr len write msix => Sys2Proof.Machine.execPcieInboundDma port addr len write msix s
  | .registerWrite addr v => Sys2Proof.Machine.execRegisterWrite addr v s
  | .powerLoss => Sys2Proof.Machine.execPowerLoss s
  | .managementPortLinkChange up => Sys2Proof.Machine.execManagementPortLinkChange up s
  | .managementPortReceive frame => Sys2Proof.Machine.execManagementPortReceive frame s
  | .bankResultReturn ctx => Sys2Proof.Machine.execBankResultReturn ctx s

end Sys2Proof.Machine
end

