-- ==== Sys2Proof/Machine/Step.lean ====
section
/-! DEFINITION. One step of the module: the next item of the agenda, or the agent whose turn it is. -/

noncomputable section

namespace Sys2Proof.Machine

/-- One step of a strand (R161, R182). -/
def strandStep (c : Ctx) (s : State) : Host.Outcome State Fault Refusal := strandTurn exec c false s

/-- One step of a control complex core (R422). -/
def ccStep (n : Fin 32) (s : State) : Host.Outcome State Fault Refusal := ccTurn exec n s

/-- The agent whose turn it is takes one step. -/
def turnStep (s : State) : Host.Outcome State Fault Refusal :=
  match s.turn with
  | .strand c => strandStep c s
  | .cc n => ccStep n s

/-- One item of the agenda. -/
def actStep (a : Act) (s : State) : Host.Outcome State Fault Refusal := runAct exec a s

/-- One step while the agenda is empty: none without power, the boot ROM's, or that of the agent whose turn it is. -/
def idleStep (s : State) : Host.Outcome State Fault Refusal :=
  if !s.powered then .next s
  else
    match s.boot with
    | .rom => romStep s
    | .waitImage => .next s
    | .running => turnStep s

/-- One step. -/
def step (s : State) : Host.Outcome State Fault Refusal :=
  match s.agenda with
  | a :: r => actStep a { s with agenda := r }
  | [] => idleStep s

/-- The state with an instruction placed where the next step fetches (log 20). -/
def State.withFetchWord (s : State) (nbits w : Nat) : State := s.placeWord nbits w

end Sys2Proof.Machine

end
end

