-- ==== Sys2Proof/Safety.lean ====
section
/-! DEFINITION. What counts as a safe state of the module: its memories keep their canonical form, and g0 holds zero; and the
terms in which the statements about it are made. -/

namespace Sys2Proof.Machine

/-- g0 of a scalar side is zero (08 R185). -/
def Hart.zeroOk (h : Hart) : Bool := h.g[0] == 0

/-- Memory and flash are in canonical form. -/
def State.memOk (s : State) : Bool := s.mem.wf && s.flash.wf

/-- Safe: canonical memories, and g0 zero everywhere. -/
def State.safe (s : State) : Bool :=
  s.memOk && (s.strands.all fun e => e.2.hart.zeroOk) && s.ccs.all fun e => e.2.hart.zeroOk

/-- The strand `t` in context `c` has the turn, and its access side performs the instruction itself. -/
structure Ready (s : State) (c : Ctx) (t : Strand) : Prop where
  turn : s.turn = .strand c
  bound : s.strand? c.val = some t
  direct : t.fromQueue = none
  whole : t.saved = none

/-- Ready, and no upcall handler runs (R134). -/
structure InProgram (s : State) (c : Ctx) (t : Strand) : Prop extends Ready s c t where
  user : t.hart.upc = false

/-- A general register as an instruction reads it: g0 is zero (R185). -/
def Hart.rd (h : Hart) (r : GReg) : Word := if r.val = 0 then 0 else h.g[r.val]

/-- A scalar side with a general register written: a write to g0 is discarded (R185). -/
def Hart.putG (h : Hart) (r : GReg) (x : Word) : Hart := if r.val = 0 then h else { h with g := h.g.set r.val x }

/-- A general register of a strand. -/
def Strand.rd (t : Strand) (r : GReg) : Word := t.hart.rd r

/-- A strand with a general register written. -/
def Strand.putG (t : Strand) (r : GReg) (x : Word) : Strand := { t with hart := t.hart.putG r x }

/-- A strand with flags raised in STATUS (R85). -/
def Strand.raise (t : Strand) (fl : FlagSet) : Strand := { t with hart := t.hart.raise fl }

/-- The strand after an instruction that changed it to `u` and continues at the next word (R222, R223). -/
def Strand.past (t u : Strand) : Strand := u.continueAt (t.hart.pc + 4)

/-- The next state of an instruction that writes one general register and nothing else. -/
def wroteG (s : State) (c : Ctx) (t : Strand) (d : GReg) (x : Word) : Host.Outcome State Fault Refusal :=
  .next (s.setStrand c.val (t.past (t.putG d x)))

/-- The next state of an instruction on a control complex core that writes one general register and nothing else. -/
def wroteCc (s : State) (n : Fin 32) (d : GReg) (x : Word) : Host.Outcome State Fault Refusal :=
  .next (s.setCc n.val { s.cc n.val with hart := ((s.cc n.val).hart.putG d x).loopStep ((s.cc n.val).hart.pc + 4) })

/-- Whether an instruction has a word of its own: events have none, and LAUNCH_ABORT has LAUNCH's (R184, R230). -/
def hasOwnWord (i : Instr) : Bool :=
  match i with
  | .launchAbort .. => false
  | i => (klass i).side != .event

/-! Vector instructions. -/

/-- A vector source of an instruction, where it has it: a register group, or the head of q4 or q5 once its data is there
(R164). -/
def Strand.vecIn (t : Strand) (v : VView) (q : Option (Fin 2)) (sp : Span) (w : Nat) : Option (Nat → Nat) :=
  match q with
  | none => some (elemAt w (t.image v.regBits sp))
  | some k =>
    match t.qv[k] with
    | e :: _ => if e.awaits.isSome then none else some (e.elem w)
    | [] => none

/-- The scalar source: the low bits of gb or of the head of q0-q3 (R258). -/
def Strand.scalarIn (t : Strand) (q : Option (Fin 4)) (b : GReg) : Option Word :=
  match q with
  | none => some (t.rd b)
  | some k => t.qs[k].head?

/-- An instruction that rounds under VTYPE.RM may do so: the mode is no reserved one, and R21 does not refuse it (R81, R21). -/
def Strand.mayRound (t : Strand) (v : VView) (rounds : Bool) : Prop :=
  rounds = true → v.rm ≤ 4 ∧ (v.rm = 4 → t.hart.repro = true → t.seeded = true)

/-- A strand whose accesses are performed when they are made, and before which no lasting error stands (R138, R139, R412). -/
structure Strand.prompt (t : Strand) : Prop where
  stores : t.stores = []
  delay : t.delay = false
  sound : t.dataErr = none

/-- An instruction may start: its operands are well formed, it accepts the element type, its groups are allowed, and it may round
(R189, R238, R239). -/
def Strand.starts (t : Strand) (v : VView) (i : Instr) (accepts groups rounds : Bool) : Prop :=
  i.wf = true ∧ accepts = true ∧ groups = true ∧ t.mayRound v rounds

/-- A strand in which the results of selected elements have set flags, SATM and, under .SP, FM (R240, R174). -/
def Strand.settled (t : Strand) (v : VView) (sp : Bool) (rs : List (Nat × Res)) : Strand :=
  let u := (t.raise (rs.foldl (fun a r => a ||| r.2.flags) 0)).withSat v ((rs.filter fun r => r.2.sat).map (·.1))
  if sp then u.withFm ((rs.filter fun r => enabledOf t.hart r.2.flags).map (·.1)) else u

/-- The codes that results leave: zero for an element that .SP has recorded in FM (R174). -/
def Strand.codes (t : Strand) (sp : Bool) (rs : List (Nat × Res)) : List (Nat × Nat) :=
  rs.map fun r => (r.1, if sp && enabledOf t.hart r.2.flags then 0 else r.2.bits)

/-- The first element whose flags are enabled: where the arithmetic trap is taken, unless the form is .SP (R240, R174). -/
def Strand.trapsAt (t : Strand) (sp : Bool) (rs : List (Nat × Res)) : Option Nat :=
  if sp then none else (rs.find? fun r => enabledOf t.hart r.2.flags).map (·.1)

/-- The end of a vector instruction on `rs` as it leaves the strand `u`: it completes, or takes the arithmetic trap of the first
element whose flags are enabled, with the flags set and nothing written (R240). -/
def vecEnds (s : State) (c : Ctx) (t : Strand) (i : Instr) (sp : Bool) (rs : List (Nat × Res)) (u : Strand) : Prop :=
  match t.trapsAt sp rs with
  | none => exec i s = .next (s.setStrand c.val (t.past u))
  | some k => exec i s = .next (takeStrandTrap c i { cause := 0x0D, tval := BitVec.ofNat 64 k }
      (s.setStrand c.val (t.settled (t.view (s.groupsOf c)) sp rs)))

/-- The strand after an element-wise instruction: flags, SATM and FM, the queue it read, and its results (R237, R240). -/
def Strand.vecDone (t : Strand) (v : VView) (m : Mods) (d : Span) (w : Nat) (rs : List (Nat × Res)) : Strand :=
  ((t.settled v m.sp rs).popped m).withVec v d w (t.codes m.sp rs)

/-- The strand after a compare (R262). -/
def Strand.cmpDone (t : Strand) (v : VView) (m : Mods) (d : MReg) (rs : List (Nat × Res)) : Strand :=
  ((t.settled v m.sp rs).popped m).withMask v d ((t.codes m.sp rs).map fun x => (x.1, x.2 == 1))

/-! Memory. -/

/-- What an access changes beside what it reads or writes is caches and records only: everything here stays. -/
structure Beside (s u : State) : Prop where
  turn : u.turn = s.turn
  ccs : u.ccs = s.ccs
  dies : u.dies = s.dies
  quads : u.quads = s.quads
  flash : u.flash = s.flash
  time : u.time = s.time
  agenda : u.agenda = s.agenda
  moduleNum : u.moduleNum = s.moduleNum
  lanes : ∀ k, (u.core k).lgmap = (s.core k).lgmap
  stores : ∀ k, (u.core k).tile = (s.core k).tile ∧ (u.core k).acc = (s.core k).acc

/-- Every copy that a core's L1 holds is what memory holds. -/
structure Core.coherent (m : Cells) (k : Core) : Prop where
  main : ∀ l, MainLine.plain l ∈ k.l1main → l.data = BitVec.ofNat 512 (m.read (l.line * 64) 64)
  coord : ∀ l ∈ k.l1coord, l.data = BitVec.ofNat 512 (m.read (l.line * 64) 64)
  gathered : ∀ g, MainLine.gathered g ∈ k.l1main → ∀ e ∈ g.elems, e.2.2.toNat = m.read e.1 e.2.1

/-- A page whose bytes are cells of memory: alive, not converted, not system space, aligned as pages are (R30-R36, R46). -/
structure PageTr.plain (p : PageTr) : Prop where
  alive : leafDead p.leaf = false
  unconverted : p.converts = false
  memory : p.isSystem = false
  aligned : p.vbase % 65536 = 0
  sized : p.size % 65536 = 0

/-- The cell of a byte of an access that lies on the pages `ps`: each with the first address on it and the bytes on it. -/
def cellAt (ps : List (PageTr × Nat × Nat)) (a : Nat) : Nat :=
  match ps.find? fun p => decide (p.2.1 ≤ a) && decide (a < p.2.1 + p.2.2) with
  | some p => p.1.cell a
  | none => 0

/-- An access of n bytes that the spec lets complete: it translates onto `ps` with its permissions, the pages are plain, an
access to bank memory has the alignment `al`, no byte is lost, no frame-use table is kept, and the pages are this module's (R32, R33,
R43, R44, R209, R413). -/
structure Accessible (s : State) (acc : Acc) (va : Word) (n al : Nat) (ps : List (PageTr × Nat × Nat)) : Prop where
  translated : ∃ s1, (translateRange acc va n).run s = .ok ps s1
  plain : ∀ p ∈ ps, p.1.plain
  bank : (∃ p ∈ ps, p.1.isBank = true) → va.toNat % al = 0
  kept : ∀ i < n, s.lostAt (cellAt ps (va.toNat + i)) 1 = []
  untracked : bitOf s.hub.fubase 0 = false
  own : ∀ p ∈ ps, leafMod p.1.leaf = s.moduleNum.val

/-- Accessible, by entries of the translation cache: translating it changes nothing (R41). -/
structure Resident (s : State) (acc : Acc) (va : Word) (n al : Nat) (ps : List (PageTr × Nat × Nat)) : Prop
    extends Accessible s acc va n al ps where
  cached : (translateRange acc va n).run s = .ok ps s

/-- The word w of code stands at an address for a strand: it may be fetched from a page of this module's memory, and what the core's
instruction cache holds of it is the same (R32, R121). -/
structure CodeAt (s : State) (c : Ctx) (t : Strand) (va : Word) (w : Nat) : Prop where
  page : ∃ p, s.translate (.strand c) t.hart.ptbase .fetch va = (.ok p, s) ∧ p.plain ∧ leafMod p.leaf = s.moduleNum.val ∧
    s.mem.read (p.cell va.toNat) 4 = w ∧ s.lostAt (p.cell va.toNat) 4 = []
  held : ∀ e ∈ (s.core (coreNum c)).icache, e.1 = t.handle → e.2.1 = va.toNat → e.2.2 = w
  untracked : bitOf s.hub.fubase 0 = false

/-- The bytes of an access, least significant first (R2). -/
def bytesAt (m : Cells) (ps : List (PageTr × Nat × Nat)) (va n : Nat) : Nat :=
  ofBytes ((List.range n).map fun i => m.get (cellAt ps (va + i)))

/-- Memory with the low n bytes of a number stored at the bytes of an access. -/
def storedAt (m : Cells) (ps : List (PageTr × Nat × Nat)) (va n v : Nat) : Cells :=
  (List.range n).foldl (fun m i => m.set (cellAt ps (va + i)) (BitVec.ofNat 8 (v / 256 ^ i))) m

/-- Every unit of a vector access is accessible, `place` giving its pages. -/
def UnitsReach (s : State) (acc : Acc) (place : MUnit → Parts) (us : List MUnit) : Prop :=
  ∀ u ∈ us, Resident s acc u.va u.len u.align (place u)

/-- What memory holds for a unit: its bytes, or half of one for INT4 (R247, R248). -/
def unitRaw (v : VView) (m : Cells) (place : MUnit → Parts) (u : MUnit) : Nat :=
  let x := bytesAt m (place u) u.va.toNat u.len
  if v.memBits = 4 then x / 2 ^ u.sub % 16 else x

/-- Memory with the data of a unit stored; a 4-bit element keeps the other half of its byte. -/
def unitStored (v : VView) (place : MUnit → Parts) (data : MUnit → Nat) (m : Cells) (u : MUnit) : Cells :=
  storedAt m (place u) u.va.toNat u.len
    (if v.memBits = 4 ∧ u.cnt = 1 then setElem 4 (bytesAt m (place u) u.va.toNat u.len) (u.sub / 4) (data u) else data u)

/-- A vector memory instruction may start: operands, type, format, groups, and its conversions may round (R189, R248). -/
def Strand.startsMem (t : Strand) (v : VView) (i : Instr) (f : MemForm) (groups : Bool) : Prop :=
  i.wf = true ∧ v.formOk f = true ∧ groups = true ∧ t.mayRound v (v.mfmt != 0) ∧ t.prompt

/-- Completing an instruction clears the stop that VPROG holds for its KIND (R246); one of KIND 2 drops a fibre record too (R291). -/
def Strand.cleared (t : Strand) (kind : Nat) : Strand :=
  if t.stoppedAt kind ∨ (kind = 2 ∧ bitOf t.vprog 63 = true ∧ 3 ≤ fieldOf t.vprog 62 60) then { t with vprog := 0 } else t

/-! Fibres. -/

/-- A fibre instruction may start: operands, type, no MFMT for the memory forms, vector operand, R21, and the types of its sources
(R278, R280). -/
def Strand.fibStarts (t : Strand) (v : VView) (i : Instr) (accepts memory rounds : Bool) (vec : List Span) (fs : List FReg) : Prop :=
  i.wf = true ∧ accepts = true ∧ (memory = true → v.mfmt = 0) ∧ vec.all Span.ok = true ∧
    t.mayRound v (rounds && classF v.et) ∧ (memory = true → t.prompt) ∧
    ∀ f ∈ fs, t.f[f].entries = [] ∨ t.f[f].fet.val = v.et

/-- What the values of output entries raise, by entry (R286). -/
def outResults (out : List OutEntry) : List (Nat × Res) := out.zipIdx.map fun x => (x.2, x.1.2)

/-- A strand with a fibre register written. -/
def Strand.withFibre (t : Strand) (v : VView) (d : FReg) (es : List FEntry) : Strand :=
  { t with f := t.f.set d.val (fibreOf v.et es) }

/-- The strand after a combining instruction: flags by output entry, then the fibre (R286). -/
def Strand.combined (t : Strand) (v : VView) (d : FReg) (out : List OutEntry) : Strand :=
  (t.settled v false (outResults out)).withFibre v d (out.map fun e => (e.1, BitVec.ofNat 64 e.2.bits))

/-! The accumulator store. -/

/-- The tile of a descriptor, `ahead` units beyond its BASE (R105, R106). -/
def Strand.tileAt (t : Strand) (core : Nat) (n : DReg) (ahead : Nat) : AccTile :=
  let w := (t.d[n]).toNat
  let kind := bitsOf w 31 30
  { core := core, desc := n, base := (accWindow t.accwin).1 + (bitsOf w 14 0 + ahead) * 64, stride := bitsOf w 29 15 * 64,
    w := accBytes kind, kind := kind }

/-- A descriptor has a TYPE, rows that do not overlap, and a place within the window for its rows and columns (R107). -/
def Strand.tilePlaced (t : Strand) (n : DReg) (rows cols ahead : Nat) : Prop :=
  let w := (t.d[n]).toNat
  let e := accBytes (bitsOf w 31 30)
  let stride := bitsOf w 29 15 * 64
  bitsOf w 31 30 ≠ 3 ∧ (rows ≤ 1 ∨ cols * e ≤ stride) ∧
    (bitsOf w 14 0 + ahead) * 64 + (rows - 1) * stride + cols * e ≤ (accWindow t.accwin).2

/-- The elements of a tile of a store. -/
def AccTile.get (x : AccTile) (m : Cells) (rows cols : Nat) : List (List Nat) :=
  (List.range rows).map fun i => (List.range cols).map fun j => m.read (x.at' i j) x.w

/-- A store with the first elements of each row of a tile written. -/
def AccTile.put (x : AccTile) (m : Cells) (rows : List (List Nat)) : Cells :=
  rows.zipIdx.foldl (fun m r => m.write (x.at' r.2 0) (r.1.length * x.w) (packElems (8 * x.w) r.1)) m

/-- The state with the accumulator store of a core written. -/
def State.withAcc (s : State) (k : Nat) (m : Cells) : State := s.setCore k { s.core k with acc := m }

/-- The strand after a multiply: flags, and the operation counted on MOF and complete (R130, R305). -/
def Strand.multiplied (t : Strand) (fl : FlagSet) : Strand :=
  let u := (t.raise fl).issue pMof .operandFetch
  u.complete pMof u.cpl[pMof].1 none

/-- A strand after an acquire at a scope: from QUAD on, the multicast windows open now serve it no longer (R113, R146). -/
def Strand.acquired (t : Strand) (s : State) (c : Ctx) (scope : Nat) : Strand :=
  if scope = 0 then t else { t with winClosed := (s.quad (quadNum c)).nextWindow }

/-- A strand less its reservations, which a write to their lines clears (R212, R254). -/
def Strand.unlinked (t : Strand) : Strand := { t with hart := { t.hart with resv := none }, vresv := [] }

/-- The page that a bank instruction names: bank memory of this module, permitted and cached (R335, R372). -/
structure BankAt (s : State) (acc : Acc) (va : Word) (p : PageTr) : Prop where
  cached : (translate acc va).run s = .ok p s
  alive : leafDead p.leaf = false
  bank : p.isBank = true
  own : leafMod p.leaf = s.moduleNum.val

/-- The next state of an instruction of the strand in context c that leaves the other agents' registers and the machine beside
memory: the strand is `u` less its reservations, memory is `m` (R136, R212). -/
def leaves (s : State) (c : Ctx) (i : Instr) (m : Cells) (u : Strand) : Prop :=
  ∃ s' t', exec i s = .next s' ∧ s'.mem = m ∧ s'.turn = s.turn ∧ s'.hub.launches = s.hub.launches ∧ s'.quads = s.quads ∧
    s'.dies = s.dies ∧ s'.flash = s.flash ∧ s'.time = s.time ∧
    s'.strand? c.val = some t' ∧ t'.unlinked = u.unlinked ∧
    ∀ (j : Nat) (r : Strand), j ≠ c.val → s.strand? j = some r → ∃ r', s'.strand? j = some r' ∧ r'.unlinked = r.unlinked

end Sys2Proof.Machine
end

