-- ==== Sys2Proof/Certificates/Slice0/Obligations.lean ====
section
/-! DEFINITION. The statements for the provers: each obligation is a claim about the machine, or several claims about one part of it.
 A claim names the rules of spec/ it formalises; where it rests on a choice of the model it names the log entry. -/

set_option linter.unusedVariables false

open Sys2Proof Sys2Proof.Machine

/-- 07 R161, 08 R184, R187, R189: while nothing else is due, a step of a strand or of a control complex core for which a word is fetched that
decodes is that instruction's, on the state that the fetch left; a strand's execute-side queue and pending stores being empty, and no
register owed to it.  What is fetched outside a replay is the word of code that stands at the program counter. That the two sides move together while the queue is empty is the model's choice (logs 3 and 9). -/
def Obligations.StepRunsDecoded : Prop :=
  ∀ (s : State) (w : Nat), s.agenda = [] → s.powered = true → s.boot = .running →
    (∀ (c : Ctx) (t : Strand), s.turn = .strand c → s.strand? c.val = some t →
      (CodeAt s c t t.hart.pc w → fieldOf t.hart.pc 1 0 = 0 → t.inReplay t.hart.pc = false →
        ∃ s1, fetchWord.run s = .ok w s1 ∧ s1.strands = s.strands ∧ s1.mem = s.mem) ∧
      (s.hub.frozen = false → s.hub.diesReleased = true →
        t.returns = [] → t.stop = none → t.cond = .runnable → (t.pending = [] ∨ t.hart.upc = true) → t.timeouts = [] → t.iq = [] →
        t.owed = [] → t.prompt → ∀ s1 i, fetchWord.run s = .ok w s1 → s1.strands = s.strands → decodeWord w = .ok i →
        (isExecute i = false ∨ ∀ u, exec i s1 = .next u → u.sleepsOnQueue c = false) → step s = exec i s1)) ∧
    (∀ n : Fin 32, s.turn = .cc n → let k := s.cc n.val
      k.held = false → (k.irqs = [] ∨ bitOf k.ccstat 2 = false) → k.asleep = none →
      ∀ s1 i, fetchWord.run s = .ok w s1 → decodeWord w = .ok i → step s = exec i s1)

/-- 08 R184-R196: words written out from the encoding tables decode to the instructions they stand for, one of each form. -/
def Obligations.DecodingRight : Prop :=
  decodeWord 0xC0321481 = .ok (.fadd 3 4 5 1 1) ∧
  decodeWord 0x60821461 = .ok (.vlds 8 4 5 1 true) ∧
  decodeWord 0x90500200 = .ok (.mmaT 1 8 4) ∧
  decodeWord 0x94000309 = .ok (.accwrD 0 6) ∧
  decodeWord 0x96C4430E = .ok (.ttrsL1p 3 2 4 6) ∧
  decodeWord 0x76110C00 = .ok (.mand 1 2 3) ∧
  decodeWord 0x403088A0 = .ok (.vadd 3 1 2 2 true) ∧
  decodeWord 0x48201C40 = .ok (.vfmaS 2 0 7 1 false) ∧
  decodeWord 0xA2238184 = .ok (.xfence 2 7 3) ∧
  decodeWord 0xB482180A = .ok (.rstvMc 8 4 6 0 false 0 2) ∧
  decodeWord 0xF0000000 = .error .reservedSpace ∧
  decodeWord 0xD1FFFFFF = .error .systemUnassigned ∧
  decodeWord 0xE0000000 = .error .illegal ∧
  decodeWord 0x00000000 = .error .illegal

/-- 08 R184-R196: the word of every instruction whose operands its encoding admits decodes to that instruction, with every operand. -/
def Obligations.EncodingRoundTrip : Prop :=
  ∀ i : Instr, hasOwnWord i = true → i.wf = true → decodeWord (encode i) = .ok i

/-- The memory list's canonical form (the model's own, R2, R136 on bytes) is kept by every step: keys strictly rise and no zero byte is
listed, in memory and in flash. -/
def Obligations.MemoryStaysCanonical : Prop :=
  ∀ s s' : State, s.memOk = true → step s = .next s' → s'.memOk = true

/-- 18 R423, R426, R435, 03 R75, 10 R243: the machine right after a module reset: control complex core 0 alone runs, at supervisor privilege;
no strand is bound, memory is canonical, and the registers hold their Reset columns. Values without a Reset column are the model's (logs 1, 2, 5, 6 and 7). -/
def Obligations.ResetState : Prop :=
  let s := State.reset
  s.boot = .rom ∧ s.powered = true ∧ (∀ c, s.strand? c = none) ∧ s.safe = true ∧ (s.cc 0).held = false ∧
    (∀ n, 0 < n → (s.cc n).held = true) ∧ (∀ n, bitOf (s.cc n).ccstat 0 = true) ∧ (∀ n, bitOf (s.cc n).ccstat 2 = false) ∧
    (∀ k, (s.stack k).hrctl = 0x80010200 ∧ (s.stack k).scfg = 0) ∧ (∀ k, (s.core k).lgmap = 0x3FF00000000) ∧
    s.hub.pwrctl = 0 ∧ s.hub.nqctl = 0 ∧ s.hub.tuffctl = 2 ∧ s.hub.modpres = BitVec.ofNat 4096 (2 ^ s.moduleNum.val) ∧
    s.hub.diesReleased = false

/-- 09 R204, R206, R207 on a device strand: each scalar integer form writes its one result to gd, sets no flag, takes no trap
and goes on; a write to g0 is discarded.  The next state says that nothing else changes. -/
def Claims.ScalarIntegerResult : Prop :=
  ∀ (s : State) (c : Ctx) (t : Strand), Ready s c t → ∀ d a b : GReg,
    (exec (.add d a b) s = wroteG s c t d (t.rd a + t.rd b) ∧
    exec (.sub d a b) s = wroteG s c t d (t.rd a - t.rd b) ∧
    exec (.mul d a b) s = wroteG s c t d (t.rd a * t.rd b) ∧
    exec (.mulh d a b) s = wroteG s c t d (BitVec.ofInt 64 ((t.rd a).toInt * (t.rd b).toInt / 2 ^ 64)) ∧
    exec (.mulhn d a b) s = wroteG s c t d (BitVec.ofNat 64 ((t.rd a).toNat * (t.rd b).toNat / 2 ^ 64)) ∧
    exec (.and d a b) s = wroteG s c t d (t.rd a &&& t.rd b) ∧
    exec (.or d a b) s = wroteG s c t d (t.rd a ||| t.rd b) ∧
    exec (.xor d a b) s = wroteG s c t d (t.rd a ^^^ t.rd b) ∧
    exec (.shl d a b) s = wroteG s c t d (t.rd a <<< ((t.rd b).toNat % 64)) ∧
    exec (.shr d a b) s = wroteG s c t d (t.rd a >>> ((t.rd b).toNat % 64)) ∧
    exec (.sra d a b) s = wroteG s c t d ((t.rd a).sshiftRight ((t.rd b).toNat % 64)) ∧
    exec (.slt d a b) s = wroteG s c t d (if (t.rd a).toInt < (t.rd b).toInt then 1 else 0) ∧
    exec (.sltn d a b) s = wroteG s c t d (if (t.rd a).toNat < (t.rd b).toNat then 1 else 0) ∧
    exec (.min d a b) s = wroteG s c t d (if (t.rd a).toInt < (t.rd b).toInt then t.rd a else t.rd b) ∧
    exec (.max d a b) s = wroteG s c t d (if (t.rd a).toInt < (t.rd b).toInt then t.rd b else t.rd a)) ∧
    (∀ imm : BitVec 15,
      exec (.addi d a imm) s = wroteG s c t d (t.rd a + imm.signExtend 64) ∧
      exec (.andi d a imm) s = wroteG s c t d (t.rd a &&& imm.zeroExtend 64) ∧
      exec (.ori d a imm) s = wroteG s c t d (t.rd a ||| imm.zeroExtend 64) ∧
      exec (.xori d a imm) s = wroteG s c t d (t.rd a ^^^ imm.zeroExtend 64) ∧
      exec (.slti d a imm) s = wroteG s c t d (if (t.rd a).toInt < imm.toInt then 1 else 0) ∧
      exec (.lui d imm) s = wroteG s c t d (imm.signExtend 64 <<< 15) ∧
      exec (.addpc d imm) s = wroteG s c t d (t.hart.pc + (imm.signExtend 64 <<< 15))) ∧
    ∀ imm : BitVec 6,
      exec (.shli d a imm) s = wroteG s c t d (t.rd a <<< imm.toNat) ∧
      exec (.shri d a imm) s = wroteG s c t d (t.rd a >>> imm.toNat) ∧
      exec (.srai d a imm) s = wroteG s c t d ((t.rd a).sshiftRight imm.toNat)

/-- 09 R204 for CLZ, CTZ and POPC: the count, said by what it counts. -/
def Claims.BitCountResult : Prop :=
  ∀ (s : State) (c : Ctx) (t : Strand), Ready s c t → ∀ d a : GReg,
    (∃ n : Nat, exec (.clz d a) s = wroteG s c t d (BitVec.ofNat 64 n) ∧
      if t.rd a = 0 then n = 64 else n < 64 ∧ (t.rd a).toNat / 2 ^ (63 - n) = 1) ∧
    (∃ n : Nat, exec (.ctz d a) s = wroteG s c t d (BitVec.ofNat 64 n) ∧
      if t.rd a = 0 then n = 64 else n < 64 ∧ (t.rd a).toNat % 2 ^ n = 0 ∧ (t.rd a).toNat / 2 ^ n % 2 = 1) ∧
    exec (.popc d a) s =
      wroteG s c t d (BitVec.ofNat 64 ((List.range 64).filter fun i => (t.rd a).getLsbD i).length)

/-- 18 R422: the control complex executes the scalar integer forms as a device strand does; a core keeps its hardware loop. -/
def Claims.ScalarIntegerOnControlComplex : Prop :=
  ∀ (s : State) (n : Fin 32), s.turn = .cc n → ∀ d a b : GReg, ∀ imm : BitVec 15,
    let x := (s.cc n.val).hart.rd a
    let y := (s.cc n.val).hart.rd b
    exec (.add d a b) s = wroteCc s n d (x + y) ∧
    exec (.sub d a b) s = wroteCc s n d (x - y) ∧
    exec (.and d a b) s = wroteCc s n d (x &&& y) ∧
    exec (.sltn d a b) s = wroteCc s n d (if x.toNat < y.toNat then 1 else 0) ∧
    exec (.addi d a imm) s = wroteCc s n d (x + imm.signExtend 64) ∧
    exec (.lui d imm) s = wroteCc s n d (imm.signExtend 64 <<< 15)

/-- Scalar integer forms write their one result to gd and change nothing else, on strands and on the control complex. -/
def Obligations.ScalarInteger : Prop :=
  Claims.ScalarIntegerResult ∧ Claims.BitCountResult ∧ Claims.ScalarIntegerOnControlComplex

/-- 09 R205: division never traps; the corners give all ones, the dividend, -2^63 and 0, and elsewhere the quotient is truncated
toward zero and the remainder takes the sign of ga. -/
def Obligations.DivisionNeverTraps : Prop :=
  ∀ (s : State) (c : Ctx) (t : Strand), Ready s c t → ∀ d a b : GReg,
    (t.rd b = 0 →
      exec (.div d a b) s = wroteG s c t d 0xFFFFFFFFFFFFFFFF ∧ exec (.divn d a b) s = wroteG s c t d 0xFFFFFFFFFFFFFFFF ∧
      exec (.rem d a b) s = wroteG s c t d (t.rd a) ∧ exec (.remn d a b) s = wroteG s c t d (t.rd a)) ∧
    (t.rd a = 0x8000000000000000 → t.rd b = 0xFFFFFFFFFFFFFFFF →
      exec (.div d a b) s = wroteG s c t d 0x8000000000000000 ∧ exec (.rem d a b) s = wroteG s c t d 0) ∧
    (t.rd b ≠ 0 →
      exec (.div d a b) s = wroteG s c t d (BitVec.ofInt 64 ((t.rd a).toInt.tdiv (t.rd b).toInt)) ∧
      exec (.rem d a b) s = wroteG s c t d (BitVec.ofInt 64 ((t.rd a).toInt.tmod (t.rd b).toInt)) ∧
      exec (.divn d a b) s = wroteG s c t d (BitVec.ofNat 64 ((t.rd a).toNat / (t.rd b).toNat)) ∧
      exec (.remn d a b) s = wroteG s c t d (BitVec.ofNat 64 ((t.rd a).toNat % (t.rd b).toNat)))

/-- 09 R220: a conditional branch goes to its target when its condition holds, else to the next word, and writes nothing but
the program counter; JAL writes g1 and goes to its target.  Going there keeps the loop and replay state (R222, R223). -/
def Claims.BranchTarget : Prop :=
  ∀ (s : State) (c : Ctx) (t : Strand), Ready s c t → ∀ (a b : GReg) (off : BitVec 15) (far : BitVec 25),
    let go := fun (k : Bool) => (Host.Outcome.next (s.setStrand c.val (t.continueAt
      (if k then t.hart.pc + BitVec.ofInt 64 (4 * off.toInt) else t.hart.pc + 4))) : Host.Outcome State Fault Refusal)
    exec (.beq a b off) s = go (t.rd a == t.rd b) ∧
    exec (.bne a b off) s = go (t.rd a != t.rd b) ∧
    exec (.blt a b off) s = go (decide ((t.rd a).toInt < (t.rd b).toInt)) ∧
    exec (.bge a b off) s = go (decide ((t.rd b).toInt ≤ (t.rd a).toInt)) ∧
    exec (.bltn a b off) s = go (decide ((t.rd a).toNat < (t.rd b).toNat)) ∧
    exec (.bgen a b off) s = go (decide ((t.rd b).toNat ≤ (t.rd a).toNat)) ∧
    exec (.jal far) s = .next (s.setStrand c.val ((t.putG 1 (t.hart.pc + 4)).continueAt
      (t.hart.pc + BitVec.ofInt 64 (4 * far.toInt))))

/-- 09 R221: JALR reads ga, then writes gd and goes to ga; a ga that is no multiple of 4 takes the misalignment trap with
TVAL = ga, precisely, and gd is not written. -/
def Claims.JumpRegister : Prop :=
  ∀ (s : State) (c : Ctx) (t : Strand), Ready s c t → ∀ d a : GReg,
    ((t.rd a).toNat % 4 = 0 →
      exec (.jalr d a) s = .next (s.setStrand c.val ((t.putG d (t.hart.pc + 4)).continueAt (t.rd a)))) ∧
    ((t.rd a).toNat % 4 ≠ 0 →
      exec (.jalr d a) s = .next (takeStrandTrap c (.jalr d a) { cause := 0x04, tval := t.rd a } s))

/-- 08 R187, R189, R387, R389: a strand whose next word cannot be fetched takes the trap of its translation with ACC = 2 and TVAL = the
program counter (one at a misaligned address the misalignment trap, log 78); one whose word is not an instruction takes the
reserved-space, privilege or illegal-instruction trap with TVAL = the word. -/
def Claims.FetchTraps : Prop :=
  ∀ (s s1 : State) (c : Ctx) (t : Strand), s.agenda = [] → s.powered = true → s.boot = .running →
    s.turn = .strand c → s.strand? c.val = some t → s.hub.frozen = false → s.hub.diesReleased = true →
    t.returns = [] → t.stop = none → t.cond = .runnable → (t.pending = [] ∨ t.hart.upc = true) → t.timeouts = [] → t.iq = [] →
    t.dataErr = none →
    (fieldOf t.hart.pc 1 0 ≠ 0 → step s = .next (takeStrandTrap c .yield { cause := 0x04, tval := t.hart.pc } s)) ∧
    (∀ e, fieldOf t.hart.pc 1 0 = 0 → t.inReplay t.hart.pc = false →
      s.translate s.turn t.hart.ptbase .fetch t.hart.pc = (.error e, s1) → e ≠ 0x0A →
      step s = .next (takeStrandTrap c .yield { cause := e, tval := t.hart.pc, acc := 2, page := true } s1)) ∧
    ∀ w, fetchWord.run s = .ok w s1 → s1.strands = s.strands →
      let trapped := fun (k : Nat) => step s = .next (takeStrandTrap c .yield { cause := k, tval := BitVec.ofNat 64 w } s1)
      (decodeWord w = .error .reservedSpace → trapped 0x02) ∧
      (decodeWord w = .error .systemUnassigned → trapped (if t.hart.sysh then 0x01 else 0x03)) ∧
      (decodeWord w = .error .illegal → trapped 0x01)

/-- Branches and jumps go to their targets and write only their link; a target that cannot be fetched or decoded traps there. -/
def Obligations.BranchesAndFetch : Prop :=
  Claims.BranchTarget ∧ Claims.JumpRegister ∧ Claims.FetchTraps

/-- 09 R222: LOOP opens the loop, or goes to its end for a count of 0; while one is open it is an illegal instruction; the
instruction that continues at LEND goes back to LBEG while LREM exceeds 1, and else closes the loop; one that continues outside the
body closes it too. -/
def Obligations.HardwareLoop : Prop :=
  ∀ (s : State) (c : Ctx) (t : Strand), InProgram s c t → ∀ (hi lo : Fin 32) (a : GReg),
    let count := (t.rd a).toNat % 2 ^ 32
    let fin := t.hart.pc + BitVec.ofNat 64 (4 + 4 * (hi.val * 32 + lo.val + 1))
    (t.hart.lact = false → t.ract = false →
      exec (.loop hi a lo) s =
        if count = 0 then .next (s.setStrand c.val { t with hart := { t.hart with pc := fin } })
        else .next (s.setStrand c.val { t with hart := { t.hart with
          pc := t.hart.pc + 4, lact := true, lbeg := t.hart.pc + 4, lend := fin, lrem := BitVec.ofNat 64 count } })) ∧
    (t.hart.lact = true →
      exec (.loop hi a lo) s = .next (takeStrandTrap c (.loop hi a lo) { cause := 0x01, tval := wordOf (.loop hi a lo) } s)) ∧
    (∀ (h : Hart) (next : Word), h.upc = false →
      h.loopStep next =
        if h.lact = false then { h with pc := next }
        else if next = h.lend then
          if 1 < h.lrem.toNat then { h with lrem := h.lrem - 1, pc := h.lbeg } else { h with lact := false, pc := next }
        else if next.toNat < h.lbeg.toNat ∨ h.lend.toNat < next.toNat then { h with lact := false, pc := next }
        else { h with pc := next })

/-- 09 R225: SCALL takes the system-call trap at the word after it, BRK the breakpoint trap at itself, each with its code in
TVAL, precisely: the strand stops, nothing is held in a frame, and its context stays bound.  A control complex core takes them too,
at either privilege. -/
def Obligations.SupervisorEntry : Prop :=
  ∀ (s : State) (h l : Fin 32),
    let code : Word := BitVec.ofNat 64 (h.val * 32 + l.val)
    (∀ (c : Ctx) (t : Strand), InProgram s c t → t.stores = [] →
      (∃ u t', exec (.scall h l) s = .next u ∧ u.strand? c.val = some t' ∧ t'.cond = .stopped ∧
        t'.hart.tcause.toNat % 256 = 0x0F ∧ t'.hart.tcause.getLsbD 9 = false ∧ t'.hart.tpc = t.hart.pc + 4 ∧
        t'.hart.tval = code ∧ t'.hart.tframe = 0 ∧ t'.hart.g = t.hart.g ∧ u.mem = s.mem) ∧
      (∃ u t', exec (.brk h l) s = .next u ∧ u.strand? c.val = some t' ∧ t'.cond = .stopped ∧
        t'.hart.tcause.toNat % 256 = 0x0E ∧ t'.hart.tcause.getLsbD 9 = false ∧ t'.hart.tpc = t.hart.pc ∧
        t'.hart.tval = code ∧ t'.hart.tframe = 0 ∧ t'.hart.g = t.hart.g ∧ u.mem = s.mem)) ∧
    ∀ n : Fin 32, s.turn = .cc n →
      let pc := (s.cc n.val).hart.pc
      exec (.scall h l) s = .next (takeCcTrap n.val { cause := 0x0F, tval := code, tpc := some (pc + 4) } s) ∧
      exec (.brk h l) s = .next (takeCcTrap n.val { cause := 0x0E, tval := code } s)

/-- 09 R219, R215, R216: with every flag's trap disabled a scalar floating-point form completes on all operands: it raises the
flags of its result in STATUS, writes the result, zero-extended, to gd and goes on; so it does too where the enabled traps are of
other flags.  Where a flag it raises has its trap enabled, it takes the arithmetic trap with TVAL = 0, the flags set and gd not
written. -/
def Claims.ScalarFloatResult : Prop :=
  ∀ (s : State) (c : Ctx) (t : Strand), Ready s c t → ∀ (d a b : GReg) (r ty : Fin 8),
    let f := scalarFmt ty
    let x := (t.rd a).toNat % 2 ^ f.width
    let y := (t.rd b).toNat % 2 ^ f.width
    let z := (t.rd d).toNat % 2 ^ f.width
    let m := scalarMode r
    let enabled := t.hart.status.toNat / 2 ^ 8 % 32
    let ends := fun (i : Instr) (q : Res) => i.wf = true →
      (enabled = 0 ∨ enabled &&& q.flags.toNat = 0 →
        exec i s = .next (s.setStrand c.val (t.past ((t.raise q.flags).putG d (BitVec.ofNat 64 q.bits))))) ∧
      (enabled &&& q.flags.toNat ≠ 0 →
        exec i s = .next (takeStrandTrap c i { cause := 0x0D, tval := 0 } (s.setStrand c.val (t.raise q.flags))))
    ends (.fadd d a b r ty) (f.add m x y) ∧
    ends (.fsub d a b r ty) (f.sub m x y) ∧
    ends (.fmul d a b r ty) (f.mul m x y) ∧
    ends (.fdiv d a b r ty) (f.div m x y) ∧
    ends (.fsqrt d a r ty) (f.sqrt m x) ∧
    ends (.ffma d a b r ty) (f.fma m (f.decode x) (f.decode y) (f.decode z))

/-- 09 R217, R219: FCMP raises NV for a signalling NaN only; with the trap of NV disabled, or no signalling NaN, it completes: it
writes its 4-bit relation; else it takes the arithmetic trap, NV set and gd not written. -/
def Claims.ScalarCompareRelation : Prop :=
  ∀ (s : State) (c : Ctx) (t : Strand), Ready s c t → ∀ (d a b : GReg) (ty : Fin 8), (Instr.fcmp d a b ty).wf = true →
    let f := scalarFmt ty
    let x := f.decode ((t.rd a).toNat % 2 ^ f.width)
    let y := f.decode ((t.rd b).toNat % 2 ^ f.width)
    let flags : FlagSet := if x.isSnan = true ∨ y.isSnan = true then flagNV else 0
    let rel : Word :=
      if x.isNan = true ∨ y.isNan = true then 8
      else if numCmp x y = .lt then 1 else if numCmp x y = .eq then 2 else 4
    ((x.isSnan = false ∧ y.isSnan = false) ∨ t.hart.status.getLsbD 8 = false →
      exec (.fcmp d a b ty) s = .next (s.setStrand c.val (t.past ((t.raise flags).putG d rel)))) ∧
    ((x.isSnan = true ∨ y.isSnan = true) → t.hart.status.getLsbD 8 = true →
      exec (.fcmp d a b ty) s =
        .next (takeStrandTrap c (.fcmp d a b ty) { cause := 0x0D, tval := 0 } (s.setStrand c.val (t.raise flagNV))))

/-- 09 R218, R219: FCVT rounds once and raises its flags; with their traps disabled it completes: it writes an INT32 result
sign-extended and any other zero-extended; where the trap of one is enabled, it takes the arithmetic trap. -/
def Claims.ScalarConvert : Prop :=
  ∀ (s : State) (c : Ctx) (t : Strand), Ready s c t → ∀ (d a : GReg) (src r ty : Fin 8), (Instr.fcvt d a src r ty).wf = true →
    let q := (cvtTy ty).round (scalarMode r) ((cvtTy src).num (t.rd a).toNat)
    let enabled := t.hart.status.toNat / 2 ^ 8 % 32
    (enabled = 0 ∨ enabled &&& q.flags.toNat = 0 →
      exec (.fcvt d a src r ty) s = .next (s.setStrand c.val (t.past ((t.raise q.flags).putG d
        (if ty.val = 6 then (BitVec.ofNat 32 q.bits).signExtend 64 else BitVec.ofNat 64 q.bits))))) ∧
    (enabled &&& q.flags.toNat ≠ 0 →
      exec (.fcvt d a src r ty) s =
        .next (takeStrandTrap c (.fcvt d a src r ty) { cause := 0x0D, tval := 0 } (s.setStrand c.val (t.raise q.flags))))

/-- Scalar floating-point forms: results, flags, the arithmetic trap, the relation of FCMP, and FCVT. -/
def Obligations.ScalarFloat : Prop :=
  Claims.ScalarFloatResult ∧ Claims.ScalarCompareRelation ∧ Claims.ScalarConvert

/-- 09 R208-R210, R2: a scalar load reads its bytes, least significant first and at any alignment, extends them and writes gd;
memory and everything else but caches is unchanged. -/
def Obligations.ScalarLoads : Prop :=
  ∀ (s : State) (c : Ctx) (t : Strand), Ready s c t → t.prompt → ∀ (d a : GReg) (imm : BitVec 15),
    let va := t.rd a + imm.signExtend 64
    let loads := fun (i : Instr) (n : Nat) (ext : Nat → Word) =>
      ∀ ps, Accessible s .load va n n ps → (s.core (coreNum c)).coherent s.mem →
      ∃ u, exec i s = .next u ∧ Beside s u ∧ u.mem = s.mem ∧
        u.strands = (s.setStrand c.val (t.past (t.putG d (ext (bytesAt s.mem ps va.toNat n))))).strands
    loads (.ldB d a imm) 1 (fun x => (BitVec.ofNat 8 x).signExtend 64) ∧
    loads (.ldH d a imm) 2 (fun x => (BitVec.ofNat 16 x).signExtend 64) ∧
    loads (.ldW d a imm) 4 (fun x => (BitVec.ofNat 32 x).signExtend 64) ∧
    loads (.ldD d a imm) 8 (fun x => BitVec.ofNat 64 x) ∧
    loads (.ldBN d a imm) 1 (fun x => BitVec.ofNat 64 x) ∧
    loads (.ldHN d a imm) 2 (fun x => BitVec.ofNat 64 x) ∧
    loads (.ldWN d a imm) 4 (fun x => BitVec.ofNat 64 x)

/-- 09 R208-R210, R2: a scalar store writes the low bytes of gd, least significant first, and no other byte of memory; it writes
no register. -/
def Obligations.ScalarStores : Prop :=
  ∀ (s : State) (c : Ctx) (t : Strand), Ready s c t → t.prompt → ∀ (d a : GReg) (imm : BitVec 15),
    let va := t.rd a + imm.signExtend 64
    let stores := fun (i : Instr) (n : Nat) =>
      ∀ ps, Accessible s .store va n n ps →
      ∃ u t', exec i s = .next u ∧ Beside { s with ccs := u.ccs } u ∧ u.mem = storedAt s.mem ps va.toNat n (t.rd d).toNat ∧
        (∀ x, (∀ k < n, cellAt ps (va.toNat + k) ≠ x) → u.mem.get x = s.mem.get x) ∧
        u.strand? c.val = some t' ∧ t'.unlinked = (t.past t).unlinked ∧
        (∀ j r, j ≠ c.val → s.strand? j = some r → ∃ r', u.strand? j = some r' ∧ r'.unlinked = r.unlinked)
    stores (.stB d a imm) 1 ∧ stores (.stH d a imm) 2 ∧ stores (.stW d a imm) 4 ∧ stores (.stD d a imm) 8

/-- 09 R211, R212: LDL reads an aligned 8-byte word and reserves it; STC stores gb and writes 0 to gd where the reservation is for
its word, else stores nothing and writes 1, and clears the reservation in either case. -/
def Claims.LinkedAccess : Prop :=
  ∀ (s : State) (c : Ctx) (t : Strand), InProgram s c t → t.prompt → ∀ (d a b : GReg) (p : PageTr),
    let va := t.rd a
    let cell := p.cell va.toNat
    va.toNat % 8 = 0 → Accessible s .rw va 8 8 [(p, va.toNat, 8)]→
    (∃ u, exec (.ldl d a) s = .next u ∧ Beside s u ∧ u.mem = s.mem ∧
      u.strands = (s.setStrand c.val (t.past
        ({ t with hart := { t.hart with resv := some cell } }.putG d (BitVec.ofNat 64 (s.mem.read cell 8))))).strands) ∧
    (t.hart.resv = some cell →
      ∃ u t', exec (.stc d a b) s = .next u ∧ u.mem = s.mem.write cell 8 (t.rd b).toNat ∧ u.strand? c.val = some t' ∧
        t'.hart.resv = none ∧ t'.unlinked = (t.past (t.putG d 0)).unlinked) ∧
    (t.hart.resv ≠ some cell →
      ∃ u t', exec (.stc d a b) s = .next u ∧ u.mem = s.mem ∧ u.strand? c.val = some t' ∧
        t'.hart.resv = none ∧ t'.unlinked = (t.past (t.putG d 1)).unlinked)

/-- 09 R211, R209, R389: LDL and STC at an address that is no multiple of 8 take the misalignment trap with TVAL = that address,
and write nothing. -/
def Claims.LinkedMisaligned : Prop :=
  ∀ (s : State) (c : Ctx) (t : Strand), InProgram s c t → ∀ d a b : GReg, (t.rd a).toNat % 8 ≠ 0 →
    exec (.ldl d a) s = .next (takeStrandTrap c (.ldl d a) { cause := 0x04, tval := t.rd a } s) ∧
    exec (.stc d a b) s = .next (takeStrandTrap c (.stc d a b) { cause := 0x04, tval := t.rd a } s)

/-- LDL reserves its word, STC stores only under its reservation, and both trap on a misaligned address. -/
def Obligations.LinkedAccess : Prop :=
  Claims.LinkedAccess ∧ Claims.LinkedMisaligned

/-- 08 R212, 10 R254: a write of n bytes clears every scalar reservation on the 256-byte lines that it touches, and no other. -/
def Obligations.WriteClearsReservations : Prop :=
  ∀ (s : State) (cell n v : Nat) (j : Nat) (t : Strand), 0 < n → s.strand? j = some t →
    ∃ t', (s.writeCell cell n v).strand? j = some t' ∧ t'.unlinked = t.unlinked ∧
      ∀ r, t'.hart.resv = some r ↔ t.hart.resv = some r ∧ ¬(cell / 256 ≤ r / 256 ∧ r / 256 ≤ (cell + n - 1) / 256)

/-- 08 R193, R194 and 09 R229: SRD and MFS write the 64-bit value of the numbered register to gd; an unassigned number takes the
illegal-instruction trap, and SRD of a number at or above 0x100 the privilege trap, both with TVAL = the word. -/
def Claims.SpecialRead : Prop :=
  ∀ (s : State) (c : Ctx) (t : Strand), InProgram s c t → ∀ (d : GReg) (n : Fin 1024),
    let reg : Option Word :=
      match n.val with
      | 0x000 => some t.vl | 0x001 => some t.vpad | 0x002 => some t.vtype | 0x003 => some t.mfmt | 0x004 => some t.vprog
      | 0x005 => some t.tm | 0x006 => some t.tn | 0x007 => some t.tk | 0x008 => some (s.core (c.val / 8)).lgmap
      | 0x009 => some t.share | 0x00A => some t.slip | 0x00B => some t.bypt | 0x00C => some t.srseed
      | 0x00D => some t.pivfloor | 0x00E => some s.time | 0x00F => some t.hart.status | 0x010 => some t.accwin
      | 0x018 => some (t.cpl[0].1 ++ t.cpl[0].2) | 0x019 => some (t.cpl[1].1 ++ t.cpl[1].2)
      | 0x01A => some (t.cpl[2].1 ++ t.cpl[2].2) | 0x01B => some (t.cpl[3].1 ++ t.cpl[3].2)
      | 0x01C => some (t.cpl[4].1 ++ t.cpl[4].2) | 0x01D => some (t.cpl[5].1 ++ t.cpl[5].2)
      | 0x100 => some t.hart.tcause | 0x101 => some t.hart.tpc | 0x102 => some t.hart.tval | 0x103 => some t.hart.tframe
      | 0x104 => some t.hart.ptbase | 0x105 => some t.upra
      | _ => none
    exec (.srd d n) s =
      (if 0x100 ≤ n.val then .next (takeStrandTrap c (.srd d n) { cause := 0x03, tval := wordOf (.srd d n) } s)
      else match reg with
        | some w => wroteG s c t d w
        | none => .next (takeStrandTrap c (.srd d n) { cause := 0x01, tval := wordOf (.srd d n) } s)) ∧
    (t.hart.sysh = true → exec (.mfs d n) s =
      match reg with
      | some w => wroteG s c t d w
      | none => .next (takeStrandTrap c (.mfs d n) { cause := 0x01, tval := wordOf (.mfs d n) } s))

/-- 08 R193, R194 (Tables 5 and 10), 16 R387 and 09 R229: SWR writes VPROG, SHARE, BYPT, SRSEED, PIVFLOOR and STATUS in their RW
fields, and takes the illegal-instruction trap for every other number below 0x100; MTS also writes ACCWIN, the trap registers, PTBASE and UPRA. -/
def Claims.SpecialWrite : Prop :=
  ∀ (s : State) (c : Ctx) (t : Strand), InProgram s c t → ∀ (a : GReg) (n : Fin 1024),
    let v := t.rd a
    let low : Option Strand :=
      match n.val with
      | 0x004 => some { t with vprog := v &&& 0xF0000000FFFFFFFF }
      | 0x009 => some { t with share := v &&& 0xF }
      | 0x00B => some { t with bypt := v &&& 0xFFFFFFFF }
      | 0x00C => some { t with srseed := v, seeded := true }
      | 0x00D => some { t with pivfloor := v }
      | 0x00F => some { t with hart := { t.hart with status := (t.hart.status &&& ~~~0xE0101F1F) ||| (v &&& 0xE0101F1F) } }
      | _ => none
    let high : Option Strand :=
      match n.val with
      | 0x100 => some { t with hart := { t.hart with tcause := v &&& 0xFEFF } }
      | 0x101 => some { t with hart := { t.hart with tpc := v } }
      | 0x102 => some { t with hart := { t.hart with tval := v } }
      | 0x103 => some { t with hart := { t.hart with tframe := v } }
      | 0x104 => some { t with hart := { t.hart with ptbase := v &&& 0xFFFFFFFFFFF00000 } }
      | 0x105 => some { t with upra := v }
      | _ => none
    let ends := fun (i : Instr) (r : Option Strand) =>
      match r with
      | some u => (Host.Outcome.next (s.setStrand c.val (t.past u)) : Host.Outcome State Fault Refusal)
      | none => .next (takeStrandTrap c i { cause := 0x01, tval := wordOf i } s)
    exec (.swr a n) s =
      (if 0x100 ≤ n.val then .next (takeStrandTrap c (.swr a n) { cause := 0x03, tval := wordOf (.swr a n) } s)
      else ends (.swr a n) low) ∧
    (t.hart.sysh = true → exec (.mts a n) s = ends (.mts a n)
      (if n.val = 0x010 then some { t with accwin := v &&& 0x7FFF00007FFF } else if n.val < 0x100 then low else high))

/-- SRD, MFS, SWR and MTS read and write the special registers by number, and trap for the others. -/
def Obligations.SpecialRegisters : Prop :=
  Claims.SpecialRead ∧ Claims.SpecialWrite

/-- 09 R226, 07 R164: QW appends ga to q0-q3; QR pops the head of q6 or q7 into gd and QPEEK copies it; QSTAT counts the
entries.  A full queue (16 entries) or an empty one puts the strand to sleep at the instruction, which has had no effect. -/
def Obligations.QueueInstructions : Prop :=
  ∀ (s : State) (c : Ctx) (t : Strand), Ready s c t → ∀ (d a : GReg) (k : Fin 4) (r : Fin 2) (q : Fin 8),
    let q0 : Fin 32 := Fin.ofNat 32 k.val
    let q6 : Fin 32 := Fin.ofNat 32 (r.val + 6)
    let asleep := fun (w : Sleep) =>
      (Host.Outcome.next (s.setStrand c.val { t with cond := .asleep w }) : Host.Outcome State Fault Refusal)
    (t.qs[k].length < 16 →
      exec (.qw q0 a) s = .next (s.setStrand c.val (t.past { t with qs := t.qs.set k.val (t.qs[k] ++ [t.rd a]) }))) ∧
    (16 ≤ t.qs[k].length → exec (.qw q0 a) s = asleep (.queueFull (Fin.ofNat 8 k.val))) ∧
    (∀ x rest, t.qr[r] = .value x :: rest →
      exec (.qr d q6) s = .next (s.setStrand c.val (t.past ({ t with qr := t.qr.set r.val rest }.putG d x))) ∧
      (t.hart.upc = false → exec (.qpeek d q6) s = wroteG s c t d x)) ∧
    (t.qr[r] = [] →
      exec (.qr d q6) s = asleep (.queueEmpty (Fin.ofNat 8 (r.val + 6))) ∧
      (t.hart.upc = false → exec (.qpeek d q6) s = asleep (.queueEmpty (Fin.ofNat 8 (r.val + 6))))) ∧
    (t.hart.upc = false → exec (.qstat d (Fin.ofNat 32 q.val)) s = wroteG s c t d (BitVec.ofNat 64
      (if h : q.val < 4 then t.qs[q.val].length else if q.val < 6 then t.qv[q.val % 2].length else t.qr[q.val % 2].length)))

/-- 10 R265, R266 and 07 R175: the mask instructions write bits 0 to n - 1 and clear padding; MCLR clears a whole register, MFROMFM
copies FM whole and clears FM; MPOPV counts the lower set bits; MCNT, MANY and MFIRST (09 R227) read the bits below VL. -/
def Obligations.MaskInstructions : Prop :=
  ∀ (s : State) (c : Ctx) (t : Strand), InProgram s c t → ∀ (d a b mk : MReg) (vd : VReg) (g : GReg) (me : Bool),
    let v := t.view (s.groupsOf c)
    let bits := fun (f : Nat → Bool) =>
      (Host.Outcome.next (s.setStrand c.val (t.past (t.withMask v d ((List.range v.n).map fun i => (i, f i))))) :
        Host.Outcome State Fault Refusal)
    let below := (List.range v.vl).filter (t.maskBit a)
    exec (.mand d a b) s = bits (fun i => t.maskBit a i && t.maskBit b i) ∧
    exec (.mor d a b) s = bits (fun i => t.maskBit a i || t.maskBit b i) ∧
    exec (.mxor d a b) s = bits (fun i => t.maskBit a i != t.maskBit b i) ∧
    exec (.mnot d a) s = bits (fun i => !t.maskBit a i) ∧
    exec (.mset d) s = bits (fun _ => true) ∧
    exec (.mclr d) s = .next (s.setStrand c.val (t.past { t with m := t.m.set d.val 0 })) ∧
    exec (.mfromfm d) s = .next (s.setStrand c.val (t.past { t with m := t.m.set d.val t.fm, fm := 0 })) ∧
    (t.starts v (.mpopv vd a mk me) (classI v.et) (groupsOk (some (v.span vd)) [] false) false →
      exec (.mpopv vd a mk me) s = .next (s.setStrand c.val (t.past (t.withVec v (v.span vd) v.w
        ((t.selected v (modsOf mk me)).map fun k =>
          (k, ((List.range k).filter (t.maskBit a)).length % 2 ^ v.w)))))) ∧
    exec (.mcnt g a) s = wroteG s c t g (BitVec.ofNat 64 below.length) ∧
    exec (.many g a) s = wroteG s c t g (if below = [] then 0 else 1) ∧
    exec (.mfirst g a) s = wroteG s c t g (match below with | k :: _ => BitVec.ofNat 64 k | [] => 0xFFFFFFFFFFFFFFFF)

/-- 09 R223, 07 R176: VREP over a body of l + 1 words that a replay may hold captures them and repeats them ga[31:0] times, or goes
past them for a count of 0; 09 R224: YIELD goes on, and SEXIT with nothing outstanding frees the context and counts the exit. -/
def Obligations.ReplayYieldExit : Prop :=
  ∀ (s : State) (c : Ctx) (t : Strand), InProgram s c t → ∀ (l : Fin 32) (a : GReg),
    let count := (t.rd a).toNat % 2 ^ 32
    let fin := t.hart.pc + BitVec.ofNat 64 (4 + 4 * (l.val + 1))
    (t.ract = false → t.hart.lact = false →
      ∀ words : List Nat, words.length = l.val + 1 →
      (∀ k, k ≤ l.val → CodeAt s c t (t.hart.pc + BitVec.ofNat 64 (4 + 4 * k)) (words.getD k 0) ∧
        vrepWordOk (words.getD k 0) = true) →
      ∃ u, exec (.vrep l a) s = .next u ∧ Beside s u ∧ u.mem = s.mem ∧ u.strands = (s.setStrand c.val
        (if count = 0 then { t with hart := { t.hart with pc := fin } }
        else { t with ract := true, rbeg := t.hart.pc + 4, rend := fin, rrem := BitVec.ofNat 64 count,
                      rbody := words.zipIdx.map fun w => ((t.hart.pc + BitVec.ofNat 64 (4 + 4 * w.2)).toNat, w.1),
                      hart := { t.hart with pc := t.hart.pc + 4 } })).strands) ∧
    exec .yield s = .next (s.setStrand c.val (t.past { t with cred := if 0 < t.cred then 0 else t.cred, yielded := true })) ∧
    (t.ops = [] →
      ∃ u, exec .sexit s = .next u ∧ u.strand? c.val = none ∧ u.mem = s.mem ∧
        (∀ j, j ≠ c.val → u.strand? j = s.strand? j) ∧
        u.hub.launches = s.hub.launches.map fun l =>
          if l.issuer == t.launchMod && l.number == t.launchNum then { l with exited := l.exited + 1 } else l) ∧
    (t.ops ≠ [] → ∃ w, exec .sexit s = .next (s.setStrand c.val { t with cond := .asleep w }))

/-- 10 R259, R260: every element-wise form with two sources writes op(va[i], vb[i]) to each selected element; the destination of
a widening form has twice the width. -/
def Obligations.VectorBinary : Prop :=
  ∀ (s : State) (c : Ctx) (t : Strand), InProgram s c t → ∀ (d a b : VReg) (mk : MReg) (me : Bool),
    let v := t.view (s.groupsOf c)
    let m := modsOf mk me
    ∀ x y, t.vecIn v m.qa (v.span a) v.w = some x → t.vecIn v m.qb (v.span b) v.w = some y →
    let does := fun (i : Instr) (accepts : Nat → Bool) (rounds strict : Bool) (w : Nat) (op : ElemOp) =>
      t.starts v i (accepts v.et)
        (groupsOk (some (v.spanOf d w)) (unlessQueue m.qa (v.span a) ++ unlessQueue m.qb (v.span b)) strict)
        (rounds && classF v.et) →
      let rs := (t.selected v m).map fun k => (k, op v.ty (v.mode k) (x k) (y k))
      vecEnds s c t i m.sp rs (t.vecDone v m (v.spanOf d w) w rs)
    does (.vadd d a b mk me) classFI true false v.w elemAdd ∧
    does (.vsub d a b mk me) classFI true false v.w elemSub ∧
    does (.vmul d a b mk me) classFI true false v.w elemMul ∧
    does (.vdiv d a b mk me) classFI true false v.w elemDiv ∧
    does (.vmin d a b mk me) classFI false false v.w (elemMinMax false) ∧
    does (.vmax d a b mk me) classFI false false v.w (elemMinMax true) ∧
    does (.vand d a b mk me) classXCode false false v.w (elemBits Nat.land) ∧
    does (.vor d a b mk me) classXCode false false v.w (elemBits Nat.lor) ∧
    does (.vxor d a b mk me) classXCode false false v.w (elemBits Nat.xor) ∧
    does (.vshl d a b mk me) classI false false v.w elemShl ∧
    does (.vshr d a b mk me) classI false false v.w elemShr ∧
    does (.vsra d a b mk me) classI false false v.w elemSra ∧
    does (.vwmul d a b mk me) hasWide true true (2 * v.w) elemWmul ∧
    does (.vwadd d a b mk me) hasWide true true (2 * v.w) elemWadd

/-- 10 R258, R259, R260: the .S forms with the low bits of gb, or of the q0-q3 entry that stands for it, as second operand. -/
def Claims.VectorScalar : Prop :=
  ∀ (s : State) (c : Ctx) (t : Strand), InProgram s c t → ∀ (d a : VReg) (b : GReg) (mk : MReg) (me : Bool),
    let v := t.view (s.groupsOf c)
    let m := modsOf mk me
    ∀ x y, t.vecIn v m.qa (v.span a) v.w = some x → t.scalarIn m.qs b = some y →
    let does := fun (i : Instr) (accepts : Nat → Bool) (rounds strict : Bool) (w : Nat) (op : ElemOp) =>
      t.starts v i (accepts v.et) (groupsOk (some (v.spanOf d w)) (unlessQueue m.qa (v.span a)) strict)
        (rounds && classF v.et) →
      let rs := (t.selected v m).map fun k => (k, op v.ty (v.mode k) (x k) (y.toNat % 2 ^ v.w))
      vecEnds s c t i m.sp rs (t.vecDone v m (v.spanOf d w) w rs)
    does (.vaddS d a b mk me) classFI true false v.w elemAdd ∧
    does (.vsubS d a b mk me) classFI true false v.w elemSub ∧
    does (.vmulS d a b mk me) classFI true false v.w elemMul ∧
    does (.vdivS d a b mk me) classFI true false v.w elemDiv ∧
    does (.vminS d a b mk me) classFI false false v.w (elemMinMax false) ∧
    does (.vmaxS d a b mk me) classFI false false v.w (elemMinMax true) ∧
    does (.vandS d a b mk me) classXCode false false v.w (elemBits Nat.land) ∧
    does (.vorS d a b mk me) classXCode false false v.w (elemBits Nat.lor) ∧
    does (.vxorS d a b mk me) classXCode false false v.w (elemBits Nat.xor) ∧
    does (.vshlS d a b mk me) classI false false v.w elemShl ∧
    does (.vshrS d a b mk me) classI false false v.w elemShr ∧
    does (.vsraS d a b mk me) classI false false v.w elemSra ∧
    does (.vwmulS d a b mk me) hasWide true true (2 * v.w) elemWmul ∧
    does (.vwaddS d a b mk me) hasWide true true (2 * v.w) elemWadd

/-- 10 R259: the fused forms compute a·b + d, a·b - d and -(a·b) + d with one rounding, on vector and on scalar operands. -/
def Claims.VectorFused : Prop :=
  ∀ (s : State) (c : Ctx) (t : Strand), InProgram s c t → ∀ (d a b : VReg) (g : GReg) (mk : MReg) (me : Bool),
    let v := t.view (s.groupsOf c)
    let m := modsOf mk me
    let z := elemAt v.w (t.image v.regBits (v.span d))
    ∀ x, t.vecIn v m.qa (v.span a) v.w = some x →
    let does := fun (i : Instr) (srcs : List Span) (y : Nat → Nat) (negProd negAdd : Bool) =>
      t.starts v i (classFI v.et) (groupsOk (some (v.span d)) (unlessQueue m.qa (v.span a) ++ srcs) false) (classF v.et) →
      let rs := (t.selected v m).map fun k => (k, elemFma negProd negAdd v.ty (v.mode k) (x k) (y k) (z k))
      vecEnds s c t i m.sp rs (t.vecDone v m (v.span d) v.w rs)
    (∀ y, t.vecIn v m.qb (v.span b) v.w = some y →
      does (.vfma d a b mk me) (unlessQueue m.qb (v.span b)) y false false ∧
      does (.vfms d a b mk me) (unlessQueue m.qb (v.span b)) y false true ∧
      does (.vfnma d a b mk me) (unlessQueue m.qb (v.span b)) y true false) ∧
    (∀ y, t.scalarIn m.qs g = some y →
      does (.vfmaS d a g mk me) [] (fun _ => y.toNat % 2 ^ v.w) false false ∧
      does (.vfmsS d a g mk me) [] (fun _ => y.toNat % 2 ^ v.w) false true ∧
      does (.vfnmaS d a g mk me) [] (fun _ => y.toNat % 2 ^ v.w) true false)

/-- Element-wise forms with a scalar operand, and the fused forms. -/
def Obligations.VectorScalarAndFused : Prop :=
  Claims.VectorScalar ∧ Claims.VectorFused

/-- 10 R259, R260, R264: the forms with one source: VSQRT, VRCP, VABS, VNEG, VCLASS and VSAT on the element type, VNARROW from the
wide type, VCVT from the type T. -/
def Claims.VectorUnary : Prop :=
  ∀ (s : State) (c : Ctx) (t : Strand), InProgram s c t → ∀ (d a : VReg) (ty : Fin 32) (mk : MReg) (me : Bool),
    let v := t.view (s.groupsOf c)
    let m := modsOf mk me
    let does := fun (i : Instr) (accepts rounds strict : Bool) (w : Nat) (op : RMode → Nat → Res) =>
      ∀ x, t.vecIn v m.qa (v.spanOf a w) w = some x →
      t.starts v i accepts (groupsOk (some (v.span d)) (unlessQueue m.qa (v.spanOf a w)) strict) rounds →
      let rs := (t.selected v m).map fun k => (k, op (v.mode k) (x k))
      vecEnds s c t i m.sp rs (t.vecDone v m (v.span d) v.w rs)
    does (.vsqrt d a mk me) (classF v.et) (classF v.et) false v.w (elemSqrt v.ty) ∧
    does (.vrcp d a mk me) (classF v.et) (classF v.et) false v.w (elemRcp v.ty) ∧
    does (.vabs d a mk me) (classFI v.et) false false v.w (elemAbs v.ty) ∧
    does (.vneg d a mk me) (classFI v.et) false false v.w (elemNeg v.ty) ∧
    does (.vclass d a mk me) (decide (v.et ≤ 2)) false false v.w (elemClass v.ty) ∧
    does (.vsat d a ty mk me) (classXCode v.et) false false v.w (fun _ => elemSat (litTy ty) v.ty) ∧
    does (.vnarrow d a mk me) (hasWide v.et) (classF v.et) true (2 * v.w) (fun r x => v.ty.round r ((wideTy v.ty).num x)) ∧
    does (.vcvt d a ty mk me) (classXCode v.et)
      (convRounds ty.val v.et) false (litTy ty).width
      (fun r x => v.ty.round r ((litTy ty).num x))

/-- 10 R258, R259, R264: VMOV copies codes bit-exactly, whole blocks on a packed type; VIOTA writes the element number, VSPLAT
the scalar, and VMOV.Q appends one element, or 0 at or beyond VL, to q6 or q7. -/
def Claims.VectorMove : Prop :=
  ∀ (s : State) (c : Ctx) (t : Strand), InProgram s c t → ∀ (d a : VReg) (b : GReg) (q : Fin 2) (mk : MReg) (me : Bool),
    let v := t.view (s.groupsOf c)
    let m := modsOf mk me
    let writes := fun (i : Instr) (x : Nat → Nat) =>
      exec i s = .next (s.setStrand c.val (t.past ((t.popped m).withVec v (v.span d) v.w
        ((t.selected v m).map fun k => (k, x k)))))
    (classXCode v.et = true → ∀ x, t.vecIn v m.qa (v.span a) v.w = some x →
      t.starts v (.vmov d a mk me) true (groupsOk (some (v.span d)) (unlessQueue m.qa (v.span a)) false) false →
      writes (.vmov d a mk me) x) ∧
    (classPCode v.et = true → m.qa = none →
      t.starts v (.vmov d a mk me) true (groupsOk (some (v.span d)) [v.span a] false) false →
      exec (.vmov d a mk me) s = .next (s.setStrand c.val (t.past
        (((t.withBlocks v (t.selects m) (v.span d) (t.image v.regBits (v.span a)) none)).popped m)))) ∧
    (classPCode v.et = true → ∀ k e r, m.qa = some k → t.qv[k] = e :: r → e.awaits = none →
      t.starts v (.vmov d a mk me) true (groupsOk (some (v.span d)) [] false) false →
      exec (.vmov d a mk me) s = .next (s.setStrand c.val (t.past
        (((t.withBlocks v (t.selects m) (v.span d) e.bits none)).popped m)))) ∧
    (t.starts v (.viota d mk me) (classI v.et) (groupsOk (some (v.span d)) [] false) false →
      writes (.viota d mk me) (fun k => k % 2 ^ v.w)) ∧
    (∀ y, t.scalarIn m.qs b = some y →
      t.starts v (.vsplat d b mk me) (classXCode v.et) (groupsOk (some (v.span d)) [] false) false →
      writes (.vsplat d b mk me) (fun _ => y.toNat % 2 ^ v.w)) ∧
    (t.starts v (.vmovQ q a b) (classXCode v.et) (groupsOk none [v.span a] false) false → t.qr[q].length < 16 →
      let j := (t.rd b).toNat % 2 ^ 32
      exec (.vmovQ q a b) s = .next (s.setStrand c.val (t.past { t with qr := t.qr.set q.val (t.qr[q] ++
        [.value (if j < v.vl then BitVec.ofNat 64 (elemAt v.w (t.image v.regBits (v.span a)) j) else 0)]) })))

/-- 10 R261: VQNT encodes each 32 elements into one block of type T, VDQNT decodes them, both in whole blocks. -/
def Claims.VectorQuantise : Prop :=
  ∀ (s : State) (c : Ctx) (t : Strand), InProgram s c t → ∀ (d a : VReg) (ty : Fin 32) (mk : MReg) (p : Stored),
    packedOf ty.val = some p →
    let v := t.view (s.groupsOf c)
    let m := modsOf mk false
    v.vl % 32 = 0 →
    (∀ x, t.vecIn v m.qa (v.span a) v.w = some x →
      t.starts v (.vqnt d a ty mk) (classQ v.et) (groupsOk (some (v.spanOf d 16)) (unlessQueue m.qa (v.span a)) true)
        (classF v.et) →
      let blks := quantBlocks v p x
      let rs := quantResults v blks
      let drop := if m.sp then (rs.filter fun r => enabledOf t.hart r.2.flags).map (·.1) else []
      vecEnds s c t (.vqnt d a ty mk) m.sp rs (((t.settled v m.sp rs).popped m).withQuant v p (v.spanOf d 16) blks drop)) ∧
    (t.starts v (.vdqnt d a ty mk) (classQ v.et) (groupsOk (some (v.span d)) (unlessQueue m.qa (v.spanOf a 16)) true)
        (classF v.et) →
      let run := fun (x : Nat) =>
        let vals := (List.range (v.vl / 32)).flatMap fun k => p.decode (elemAt (8 * p.blockBytes) x k)
        let rs := (List.range v.n).map fun k => (k, v.ty.round (v.mode k) (vals.getD k (.nan false)))
        vecEnds s c t (.vdqnt d a ty mk) m.sp rs (t.vecDone v m (v.span d) v.w rs)
      (m.qa = none → run (t.image v.regBits (v.spanOf a 16))) ∧
      (∀ k e r, m.qa = some k → t.qv[k] = e :: r → e.awaits = none → run e.bits))

/-- Element-wise forms with one source, moves, and block quantisation. NaN results of VSAT, VABS and VNEG and the flags of a block follow logs 63 and 64. -/
def Obligations.VectorUnaryAndMove : Prop :=
  Claims.VectorUnary ∧ Claims.VectorMove ∧ Claims.VectorQuantise

/-- 10 R262, R263 with 07 R175: the compares write one bit for each selected element; VSEL takes va where the mask is set and vb
elsewhere; VMERGE takes the speculative trap of the lowest selected element whose FM bit is set, and else writes va to the
selected elements. -/
def Obligations.VectorCompareSelect : Prop :=
  ∀ (s : State) (c : Ctx) (t : Strand), InProgram s c t → ∀ (d a b : VReg) (dm : MReg) (g : GReg) (mk : MReg) (me : Bool) (cc : Fin 8),
    let v := t.view (s.groupsOf c)
    let m := modsOf mk me
    let done := fun (i : Instr) (u : Strand) => exec i s = .next (s.setStrand c.val (t.past u))
    (∀ x, t.vecIn v m.qa (v.span a) v.w = some x →
      (∀ y, t.vecIn v m.qb (v.span b) v.w = some y →
        t.starts v (.vcmp dm a b mk me cc) (classXCode v.et)
          (groupsOk none (unlessQueue m.qa (v.span a) ++ unlessQueue m.qb (v.span b)) false) false →
        let rs := (t.selected v m).map fun k => (k, elemCmp cc.val v.ty .rne (x k) (y k))
        vecEnds s c t (.vcmp dm a b mk me cc) m.sp rs (t.cmpDone v m dm rs)) ∧
      (∀ y, t.scalarIn m.qs g = some y →
        t.starts v (.vcmpS dm a g mk me cc) (classXCode v.et) (groupsOk none (unlessQueue m.qa (v.span a)) false) false →
        let rs := (t.selected v m).map fun k => (k, elemCmp cc.val v.ty .rne (x k) (y.toNat % 2 ^ v.w))
        vecEnds s c t (.vcmpS dm a g mk me cc) m.sp rs (t.cmpDone v m dm rs))) ∧
    (t.starts v (.vsel d a b mk) (classXP v.et) (groupsOk (some (v.span d)) [v.span a, v.span b] false) false →
      done (.vsel d a b mk)
        (if classPCode v.et then
          t.withBlocks v (t.maskBit mk) (v.span d) (t.image v.regBits (v.span a)) (some (t.image v.regBits (v.span b)))
        else t.withVec v (v.span d) v.w ((List.range v.n).map fun k =>
          (k, elemAt v.w (t.image v.regBits (v.span (if t.maskBit mk k then a else b))) k)))) ∧
    (t.starts v (.vmerge d a mk) (classXP v.et) (groupsOk (some (v.span d)) [v.span a] false) false →
      (∀ k, k < v.vl → t.maskBit mk k = true → t.fm.getLsbD k = true →
        (∀ j, j < k → ¬(t.maskBit mk j = true ∧ t.fm.getLsbD j = true)) →
        exec (.vmerge d a mk) s = .next (takeStrandTrap c (.vmerge d a mk) { cause := 0x0C, tval := BitVec.ofNat 64 k } s)) ∧
      ((∀ k, k < v.vl → ¬(t.maskBit mk k = true ∧ t.fm.getLsbD k = true)) →
        done (.vmerge d a mk)
          (if classPCode v.et then t.withBlocks v (t.maskBit mk) (v.span d) (t.image v.regBits (v.span a)) none
          else t.withVec v (v.span d) v.w (((List.range v.n).filter (t.maskBit mk)).map fun k =>
            (k, elemAt v.w (t.image v.regBits (v.span a)) k)))))

/-- 10 R237: of a group that an instruction writes, each given element takes its value, every other element below n keeps its
value, an element of padding becomes zero, and an element at or beyond VL keeps its value; no other register changes. -/
def Claims.ElementsWritten : Prop :=
  ∀ (t : Strand) (v : VView) (sp : Span) (w : Nat) (vals : List (Nat × Nat)),
    0 < w → 1 ≤ v.groups → v.groups ≤ 8 → v.n ≤ v.vl → v.vl * w ≤ sp.count * v.regBits → sp.base + sp.count ≤ 32 →
    (vals.map (·.1)).Nodup → (∀ e ∈ vals, e.1 < v.n) →
    let u := t.withVec v sp w vals
    let old := elemAt w (t.image v.regBits sp)
    let new := elemAt w (u.image v.regBits sp)
    (∀ e ∈ vals, new e.1 = e.2 % 2 ^ w) ∧
    (∀ k, k < v.n → k ∉ vals.map (·.1) → new k = old k) ∧
    (∀ k, v.n ≤ k → k < v.vl → new k = 0) ∧
    (∀ k, v.vl ≤ k → new k = old k) ∧
    (∀ j, j < sp.base ∨ sp.base + sp.count ≤ j → u.v[j]? = t.v[j]?) ∧
    { u with v := t.v } = t

/-- 10 R237, R265: of a mask register that an instruction writes, the given bits take their values, bits of padding are cleared,
and every other bit and every other mask register keeps its value. -/
def Claims.MaskBitsWritten : Prop :=
  ∀ (t : Strand) (v : VView) (d : MReg) (vals : List (Nat × Bool)),
    v.n ≤ v.vl → v.vl ≤ 32768 → (vals.map (·.1)).Nodup → (∀ e ∈ vals, e.1 < v.n) →
    let u := t.withMask v d vals
    (∀ e ∈ vals, u.maskBit d e.1 = e.2) ∧
    (∀ k, k < v.n → k ∉ vals.map (·.1) → u.maskBit d k = t.maskBit d k) ∧
    (∀ k, v.n ≤ k → k < v.vl → u.maskBit d k = false) ∧
    (∀ k, v.vl ≤ k → u.maskBit d k = t.maskBit d k) ∧
    (∀ e : MReg, e ≠ d → ∀ k, u.maskBit e k = t.maskBit e k) ∧
    { u with m := t.m } = t

/-- Selected elements are written, padding becomes zero, masked-off elements and tail stay, and no other register changes. -/
def Obligations.VectorWrites : Prop :=
  Claims.ElementsWritten ∧ Claims.MaskBitsWritten

/-- 10 R247, R248, R250, R101, R102: a vector load whose units are accessible reads the selected elements (or, under a block
MFMT, the covered blocks) at their addresses, converts them under MFMT, and writes them to vd; padding becomes zero.  From a
stop, it goes on at the element that VPROG names, and clears VPROG (R246).  Memory is unchanged. -/
def Claims.VectorLoads : Prop :=
  ∀ (s : State) (c : Ctx) (t : Strand), InProgram s c t →
    ∀ (d b : VReg) (a g : GReg) (mk : MReg) (me : Bool) (place : MUnit → Parts),
    let v := t.view (s.groupsOf c)
    let m := modsOf mk me
    (s.core (coreNum c)).coherent s.mem → packedOf v.et = none →
    let loads := fun (i : Instr) (f : MemForm) (srcs : List Span) (us : List MUnit) =>
      t.startsMem v i f (groupsOk (some (v.span d)) srcs false) →
      let todo := pendingUnits t us
      UnitsReach s .load place todo →
      let rs := todo.flatMap fun u => v.unitElems (t.selects m) u (unitRaw v s.mem place u)
      t.trapsAt m.sp rs = none →
      ∃ u, exec i s = .next u ∧ Beside s u ∧ u.mem = s.mem ∧
        u.strands = (s.setStrand c.val (t.past
          (((t.settled v m.sp rs).withVec v (v.span d) v.w (t.codes m.sp rs)).cleared 0))).strands
    loads (.vld d a mk me) .unit [] (unitLoadUnits t v m (t.rd a)) ∧
    loads (.vlds d a g mk me) .other []
      ((t.selected v m).map fun k => v.elemUnit k (t.rd a + BitVec.ofNat 64 k * t.rd g)) ∧
    loads (.vldx d a b mk me) .other [v.spanOf b 32] (indexUnits t v m (t.rd a) b 32) ∧
    loads (.vldxD d a b mk me) .other [v.spanOf b 64] (indexUnits t v m (t.rd a) b 64)

/-- 10 R238, R248, R250: VLD and VST of a packed type move whole blocks unchanged, a block being selected when the mask or the
length selects one of its elements. -/
def Claims.VectorPackedAccess : Prop :=
  ∀ (s : State) (c : Ctx) (t : Strand), InProgram s c t →
    ∀ (d : VReg) (a : GReg) (mk : MReg) (me : Bool) (place : MUnit → Parts) (p : Stored),
    let v := t.view (s.groupsOf c)
    let m := modsOf mk me
    packedOf v.et = some p → t.stoppedAt 0 = false → t.cm = 0 →
    let us := packedUnits v p (t.rd a) (t.selects m)
    (t.startsMem v (.vld d a mk me) .unit (groupsOk (some (v.span d)) [] false) →
      (s.core (coreNum c)).coherent s.mem → UnitsReach s .load place us →
      let x := us.foldl (fun (g : Nat) (w : MUnit) => setElem (8 * p.blockBytes) g (w.lo / 32) (bytesAt s.mem (place w) w.va.toNat w.len)) 0
      ∃ u, exec (.vld d a mk me) s = .next u ∧ Beside s u ∧ u.mem = s.mem ∧
        u.strands = (s.setStrand c.val (t.past (t.withBlocks v (t.selects m) (v.span d) x none))).strands) ∧
    (t.startsMem v (.vst d a mk me) .unit (groupsOk none [v.span d] false) → UnitsReach s .store place us →
      ∃ u t', exec (.vst d a mk me) s = .next u ∧ Beside { s with ccs := u.ccs } u ∧
        u.mem = us.foldl (fun (g : Cells) (w : MUnit) => storedAt g (place w) w.va.toNat w.len
          (elemAt (8 * p.blockBytes) (t.image v.regBits (v.span d)) (w.lo / 32))) s.mem ∧
        u.strand? c.val = some t' ∧ t'.unlinked = (t.past t).unlinked)

/-- Vector loads and packed accesses: the elements read, their conversion, restart by VPROG, memory unchanged. -/
def Obligations.VectorLoads : Prop :=
  Claims.VectorLoads ∧ Claims.VectorPackedAccess

/-- 10 R247, R248, R250, R253: a vector store whose units are accessible converts the selected elements under MFMT, raises their
flags before any byte is written, and stores them at their addresses in ascending order; VSTC stores them one after the other.
No other byte of memory and no vector register changes. -/
def Claims.VectorStores : Prop :=
  ∀ (s : State) (c : Ctx) (t : Strand), InProgram s c t →
    ∀ (r b : VReg) (a g : GReg) (mk : MReg) (me : Bool) (place : MUnit → Parts),
    let v := t.view (s.groupsOf c)
    let m := modsOf mk me
    let sel := t.selected v m
    t.cm = 0 → packedOf v.et = none →
    let stores := fun (i : Instr) (f : MemForm) (srcs : List Span) (kind : Nat) (todo : List MUnit) (rs : List (Nat × Res))
        (data : MUnit → Nat) =>
      t.startsMem v i f (groupsOk none srcs false) → UnitsReach s .store place todo → t.trapsAt false rs = none →
      ∃ u t', exec i s = .next u ∧ Beside { s with ccs := u.ccs } u ∧
        u.mem = todo.foldl (unitStored v place data) s.mem ∧
        (∀ x, (∀ w ∈ todo, ∀ k < w.len, cellAt (place w) (w.va.toNat + k) ≠ x) → u.mem.get x = s.mem.get x) ∧
        u.strand? c.val = some t' ∧ t'.unlinked = (t.past ((t.settled v false rs).cleared kind)).unlinked
    let plan := fun (i : Instr) (f : MemForm) (srcs : List Span) (p : StorePlan) =>
      stores i f srcs 0 (pendingUnits t p.units) p.results p.data
    plan (.vst r a mk me) .unit [v.span r] (vstPlan t v m r (t.rd a)) ∧
    plan (.vsts r a g mk me) .other [v.span r]
      (elemPlan t v sel r (sel.map fun k => v.elemUnit k (t.rd a + BitVec.ofNat 64 k * t.rd g))) ∧
    plan (.vstx r a b mk me) .other [v.span r, v.spanOf b 32] (elemPlan t v sel r (indexUnits t v m (t.rd a) b 32)) ∧
    plan (.vstxD r a b mk me) .other [v.span r, v.spanOf b 64] (elemPlan t v sel r (indexUnits t v m (t.rd a) b 64)) ∧
    (t.stoppedAt 2 = false →
      let p := elemPlan t v sel r (sel.zipIdx.map fun x => v.elemUnit x.1 (t.rd a + BitVec.ofNat 64 (x.2 * v.memBytes)))
      stores (.vstc r a mk me) .other [v.span r] 2 p.units p.results p.data)

/-- 10 R254, 08 R212: VLDL reads its aligned elements and makes the reservation set the words read; VSCC stores each selected
element in ascending order if the set still holds its entry and no lower element has stored to the same word, sets its mask bit
by that, and empties the set. -/
def Claims.VectorLinkedAccess : Prop :=
  ∀ (s : State) (c : Ctx) (t : Strand), InProgram s c t →
    ∀ (d b : VReg) (a : GReg) (mk : MReg) (me : Bool) (place : MUnit → PageTr) (iw : Nat), t.cm = 0 → t.stoppedAt 0 = false →
    let v := t.view (s.groupsOf c)
    let m := modsOf mk me
    let parts := fun (u : MUnit) => [(place u, u.va.toNat, u.len)]
    let us := indexUnits t v m (t.rd a) b iw
    UnitsReach s .rw parts us → (∀ u ∈ us, u.va.toNat % u.align = 0 ∧ leafMod (place u).leaf = s.moduleNum.val) →
    let word := fun (u : MUnit) => (place u).cell u.va.toNat
    let vals := us.map fun (u : MUnit) => (u.lo, s.mem.read (word u) u.len)
    let ldl := fun (i : Instr) =>
      t.startsMem v i .linked (groupsOk (some (v.span d)) [v.spanOf b iw] false) →
      ∃ u, exec i s = .next u ∧ Beside s u ∧ u.mem = s.mem ∧
        u.strands = (s.setStrand c.val (t.past ({ t with vresv := us.map fun (u : MUnit) => (u.lo, word u) }.withVec v (v.span d) v.w vals))).strands
    let scc := fun (i : Instr) =>
      t.startsMem v i .linked (groupsOk none [v.span d, v.spanOf b iw] false) →
      let wins := us.foldl (fun (w : List MUnit) (u : MUnit) =>
        if t.vresv.contains (u.lo, word u) && !(w.any fun x => word x == word u) then w ++ [u] else w) []
      ∃ u t', exec i s = .next u ∧ u.strand? c.val = some t' ∧ t'.vresv = [] ∧
        u.mem = wins.foldl (fun (g : Cells) (u : MUnit) => g.write (word u) u.len (elemAt v.w (t.image v.regBits (v.span d)) u.lo)) s.mem ∧
        t'.unlinked = (t.past (t.withMask v mk (us.map fun u => (u.lo, wins.contains u)))).unlinked
    (iw = 32 → ldl (.vldl d a b mk me)) ∧ (iw = 64 → ldl (.vldlD d a b mk me)) ∧
    (me = true → v.vl ≠ 0 → (iw = 32 → scc (.vscc d a b mk)) ∧ (iw = 64 → scc (.vsccD d a b mk)))

/-- Vector stores write the selected elements and no other byte; VLDL and VSCC by the reservation set. -/
def Obligations.VectorStores : Prop :=
  Claims.VectorStores ∧ Claims.VectorLinkedAccess

/-- 10 R251, 07 R164: VLDQ appends one entry of VL elements to q4 or q5, with zero at elements that are not selected. -/
def Claims.VectorQueueLoad : Prop :=
  ∀ (s : State) (c : Ctx) (t : Strand), InProgram s c t → ∀ (q : Fin 2) (a : GReg) (mk : MReg) (place : MUnit → Parts),
    let v := t.view (s.groupsOf c)
    let m := modsOf mk false
    (s.core (coreNum c)).coherent s.mem → t.activeStream q = false → t.qv[q].length < 4 →
    t.startsMem v (.vldq q a mk) .queue (groupsOk none [] false) →
    let us := unitLoadUnits t v m (t.rd a)
    UnitsReach s .load place us →
    let rs := us.flatMap fun u => v.unitElems (t.selects m) u (unitRaw v s.mem place u)
    t.trapsAt m.sp rs = none →
    let e : VEntry := { count := v.vl, width := v.w, bits := (t.codes m.sp rs).foldl (fun g x => setElem v.w g x.1 x.2) 0,
                        awaits := none }
    let t1 := t.settled v m.sp rs
    ∃ u, exec (.vldq q a mk) s = .next u ∧ Beside s u ∧ u.mem = s.mem ∧
      u.strands = (s.setStrand c.val (t.past { t1 with qv := t1.qv.set q.val (t1.qv[q] ++ [e]) })).strands

/-- 10 R252, 02 R32: VPF changes no register and no byte that a read returns, whether or not its addresses translate. -/
def Claims.VectorPrefetch : Prop :=
  ∀ (s : State) (c : Ctx) (t : Strand), InProgram s c t → ∀ (k : Fin 4) (a b : GReg) (mk : MReg) (me : Bool),
    let v := t.view (s.groupsOf c)
    (Instr.vpf k a b mk me).wf = true → v.formOk .other = true →
    groupsOk none (if 2 ≤ k.val then [v.spanOf b (if k.val = 3 then 64 else 32)] else []) false = true →
    bitOf s.hub.fubase 0 = false →
    ∃ u, exec (.vpf k a b mk me) s = .next u ∧ Beside s u ∧ u.mem = s.mem ∧ u.strands = (s.setStrand c.val (t.past t)).strands

/-- 10 R256, R257: VLDZ whose header and blocks can be read and are well formed writes the expanded elements from element 0, sets
VL to their number and VPAD to 0, advances the block cursor, and says in VPROG how many blocks it expanded and why it stopped. -/
def Claims.VectorExpand : Prop :=
  ∀ (s : State) (c : Ctx) (t : Strand), InProgram s c t → ∀ (d : VReg) (a : GReg) (b : Fin 16),
    let v := t.view (s.groupsOf c)
    let cur : GReg := Fin.ofNat 32 (2 * b.val + 1)
    let bound := t.rd (Fin.ofNat 32 (2 * b.val))
    let use := bypUse t bound.toNat
    t.starts v (.vldz d a b) (v.mfmt == 0) (groupsOk (some (v.span d)) [] false) false →
    ∀ head s1, (readRange v 0 use (t.rd a) 16).run s = .ok head s1 →
    let h : StreamHead := ⟨head % 65536, head / 65536 % 256, head / 2 ^ 32 % 2 ^ 32⟩
    let vlmax := vlmaxOf v.groups v.et v.grp
    5 ≤ h.t → h.t ≤ 4096 → h.le ≤ 3 → classXCode v.et = true → v.w = 8 * 2 ^ h.le → 64 ≤ vlmax →
    ∀ xs nb why s2, (vldzGo v h (t.rd a) bound use vlmax (vlmax / 64 + 1) (t.rd cur).toNat 0 []).run s1 = .ok (xs, nb, why) s2 →
    exec (.vldz d a b) s = .next (s2.setStrand c.val (t.past (
      { t.setImage v.regBits (v.span d) (xs.zipIdx.foldl (fun (g : Nat) (x : Nat × Nat) => setElem v.w g x.2 x.1) (t.image v.regBits (v.span d))) with
        vl := BitVec.ofNat 64 (xs.length * 2 ^ 32 + xs.length), vpad := 0,
        vprog := vprogWord false 1 (nb - (t.rd cur).toNat) why }.putG cur (BitVec.ofNat 64 nb))))

/-- VLDQ fills a queue entry, VPF changes nothing that is read, VLDZ expands its blocks. When VLDZ checks what follows log 65, and VPF log 37. -/
def Obligations.VectorQueueLoadAndExpand : Prop :=
  Claims.VectorQueueLoad ∧ Claims.VectorPrefetch ∧ Claims.VectorExpand

/-- 10 R267, R268, R269, R272: the permutes, VCOMPRESS with the new VL, VEXPAND, the scans and VCONFLICT. -/
def Claims.VectorPermute : Prop :=
  ∀ (s : State) (c : Ctx) (t : Strand), InProgram s c t → ∀ (d a b : VReg) (g : GReg) (mk : MReg) (me : Bool),
    let v := t.view (s.groupsOf c)
    let m := modsOf mk me
    let sel := t.selected v m
    let one := unlessQueue m.qa (v.span a)
    let ends := fun (i : Instr) (vals : List (Nat × Nat)) =>
      exec i s = .next (s.setStrand c.val (t.past ((t.popped m).withVec v (v.span d) v.w vals)))
    let ok := fun (i : Instr) (srcs : List Span) => t.starts v i (classXCode v.et) (groupsOk (some (v.span d)) srcs true) false
    ∀ x, t.vecIn v m.qa (v.span a) v.w = some x →
    (∀ y, t.scalarIn m.qs g = some y →
      (ok (.vslideup d a g mk me) one → ends (.vslideup d a g mk me)
        ((sel.filter fun k => decide (y.toNat ≤ k)).map fun k => (k, x (k - y.toNat)))) ∧
      (ok (.vslidedn d a g mk me) one → ends (.vslidedn d a g mk me)
        (sel.map fun k => (k, if k + y.toNat < v.n then x (k + y.toNat) else 0)))) ∧
    (∀ y, t.vecIn v m.qb (v.span b) v.w = some y → ok (.vshuf d a b mk me) (one ++ unlessQueue m.qb (v.span b)) →
      ends (.vshuf d a b mk me) (sel.map fun k => (k, if y k < v.n then x (y k) else 0))) ∧
    (ok (.vrev d a mk me) one → ends (.vrev d a mk me) (sel.map fun k => (k, x (v.n - 1 - k)))) ∧
    (t.starts v (.vconflict d a mk me) (classI v.et) (groupsOk (some (v.span d)) one false) false →
      ends (.vconflict d a mk me) (sel.map fun k => (k,
        match (sel.filter fun j => decide (j < k) && x j == x k).getLast? with
        | some j => j % 2 ^ v.w
        | none => 2 ^ v.w - 1)))

/-- 10 R268, R246, 11 R291: VCOMPRESS packs the selected elements to the front and makes their number the VL; VEXPAND spreads consecutive
elements over the selected positions; either drops the record of a stopped fibre instruction. -/
def Claims.VectorCompressExpand : Prop :=
  ∀ (s : State) (c : Ctx) (t : Strand), InProgram s c t → ∀ (d a : VReg) (mk : MReg),
    let v := t.view (s.groupsOf c)
    let sel := (List.range v.n).filter (t.maskBit mk)
    let x := elemAt v.w (t.image v.regBits (v.span a))
    t.stoppedAt 2 = false →
    (t.starts v (.vcompress d a mk) (classXCode v.et) (groupsOk (some (v.span d)) [v.span a] true) false → v.vl ≠ 0 →
      exec (.vcompress d a mk) s = .next (s.setStrand c.val (t.past
        (({ t.setImage v.regBits (v.span d)
            (sel.zipIdx.foldl (fun g e => setElem v.w g e.2 (x e.1)) (t.image v.regBits (v.span d))) with
          vl := BitVec.ofNat 64 (sel.length * 2 ^ 32 + sel.length), vpad := 0 } : Strand).cleared 2)))) ∧
    (t.starts v (.vexpand d a mk) (classXCode v.et) (groupsOk (some (v.span d)) [v.span a] true) false →
      exec (.vexpand d a mk) s = .next (s.setStrand c.val (t.past
        ((t.withVec v (v.span d) v.w (sel.zipIdx.map fun e => (e.1, x e.2))).cleared 2))))

/-- Permutes, compression, expansion and conflict detection. -/
def Obligations.VectorPermute : Prop :=
  Claims.VectorPermute ∧ Claims.VectorCompressExpand

/-- 10 R269: an inclusive scan: the first selected element keeps its code, each later one is op(the value before, its code). -/
def Claims.VectorScan : Prop :=
  ∀ (s : State) (c : Ctx) (t : Strand), InProgram s c t → ∀ (d a : VReg) (mk : MReg) (me : Bool),
    let v := t.view (s.groupsOf c)
    let m := modsOf mk me
    ∀ x, t.vecIn v m.qa (v.span a) v.w = some x →
    let scans := fun (i : Instr) (rounds : Bool) (op : ElemOp) =>
      t.starts v i (classFI v.et) (groupsOk (some (v.span d)) (unlessQueue m.qa (v.span a)) true) (rounds && classF v.et) →
      let rs := scanGo op v x (t.selected v m) none
      vecEnds s c t i m.sp rs (t.vecDone v m (v.span d) v.w rs)
    scans (.vscan d a mk me) true elemAdd ∧
    scans (.vscanMin d a mk me) false (elemMinMax false) ∧
    scans (.vscanMax d a mk me) false (elemMinMax true)

/-- 10 R270: a reduction of the selected elements with the start value vb[0] writes element 0 of vd, or appends it to q6 or q7;
at VL = 0 it delivers vb[0].  Masked-off elements of a sum read as +0.  The order of VREDSUM.F is free: its numbers are drawn from
`fresh`, and Reproducible mode refuses it (R21). -/
def Claims.VectorReduce : Prop :=
  ∀ (s : State) (c : Ctx) (t : Strand), InProgram s c t → ∀ (d a b : VReg) (q : Fin 2) (mk : MReg) (me : Bool),
    let v := t.view (s.groupsOf c)
    let m := modsOf mk me
    let srcs := unlessQueue m.qa (v.span a) ++ unlessQueue m.qb (v.span b)
    ∀ x y, t.vecIn v m.qa (v.span a) v.w = some x → t.vecIn v m.qb (v.span b) v.w = some y →
    let r : RedIn := { s := y 0, xs := (List.range v.n).map fun k => if t.selects m k then x k else 0,
                       selected := (t.selected v m).map x }
    let reduces := fun (i iq : Instr) (free : Bool) (f : VView → RedIn → Res) =>
      let rs := if v.n = 0 then [] else [(0, f v r)]
      let out := if v.n = 0 then r.s else (f v r).bits
      let s' := if free then { s with fresh := s.fresh + 2 * v.n + 2 } else s
      let u := (t.settled v false rs).popped m
      (free = true → t.hart.repro = false) → t.trapsAt false rs = none →
      (t.starts v i (classFI v.et) (groupsOk (some (v.span d)) srcs false) false →
        exec i s = .next (s'.setStrand c.val (t.past
          (u.setImage v.regBits (v.span d) (setElem v.w (u.image v.regBits (v.span d)) 0 out))))) ∧
      (t.starts v iq (classFI v.et) (groupsOk none srcs false) false → t.qr[q].length < 16 →
        exec iq s = .next (s'.setStrand c.val (t.past
          { u with qr := u.qr.set q.val (u.qr[q] ++ [.value (BitVec.ofNat 64 out)]) })))
    reduces (.vredsum d a b mk me) (.vredsumQ q a b mk me) false redSum ∧
    reduces (.vredsumF d a b mk me) (.vredsumFQ q a b mk me) true (redSumFree s.fresh) ∧
    reduces (.vredmax d a b mk me) (.vredmaxQ q a b mk me) false (redMinMax true) ∧
    reduces (.vredmin d a b mk me) (.vredminQ q a b mk me) false (redMinMax false)

/-- 10 R271, 04 R92, R93: VFOLD pushes the elements into a k register, VFOLD.CLR empties it, and VFOLD.FIN and VFOLD.FIN.Q deliver
its sum; a register of the other precision and one without room take the shape trap with TVAL = its number. -/
def Claims.VectorFold : Prop :=
  ∀ (s : State) (c : Ctx) (t : Strand), InProgram s c t → ∀ (d a : VReg) (j : KReg) (q : Fin 2) (mk : MReg) (me : Bool),
    let v := t.view (s.groupsOf c)
    let m := modsOf mk me
    let k := t.k[j]
    let done := fun (i : Instr) (u : Strand) => exec i s = .next (s.setStrand c.val (t.past u))
    let shape := fun (i : Instr) =>
      exec i s = .next (takeStrandTrap c i { cause := 0x0B, tval := BitVec.ofNat 64 j.val } s)
    done (.vfoldClr j) { t with k := t.k.set j.val KState.empty } ∧
    (∀ x, t.vecIn v m.qa (v.span a) v.w = some x →
      t.starts v (.vfold j a mk me) (classF v.et) (groupsOk none (unlessQueue m.qa (v.span a)) false) false →
      let xs := (List.range v.n).map fun e => (e, if t.selects m e then v.widen (x e) else quiet 0)
      (v.n = 0 → done (.vfold j a mk me) (t.popped m)) ∧
      (v.n ≠ 0 → k.isEmpty = false → k.prec ≠ (v.et == 1) → shape (.vfold j a mk me)) ∧
      (v.n ≠ 0 → k.isEmpty = true ∨ k.prec = (v.et == 1) →
        match foldPushes v.sumFmt xs k.toC64 with
        | none => shape (.vfold j a mk me)
        | some (e, rs) =>
          let rs := rs.map fun r => (r.1, { r.2 with sat := false })
          t.trapsAt false rs = none →
          let u := t.settled v false rs
          done (.vfold j a mk me) ({ u with k := u.k.set j.val (KState.ofC64 (v.et == 1) e) }.popped m))) ∧
    (match k.toC64.final k.fmt with
      | none =>
        (t.starts v (.vfoldFin d j) (classF v.et) (groupsOk (some (v.span d)) [] false) false → shape (.vfoldFin d j)) ∧
        (t.qr[q].length < 16 → shape (.vfoldFinQ q j))
      | some (x, fl) =>
        let z := v.ty.round .rne (k.fmt.decode x)
        let rs := [(0, { z with flags := z.flags ||| fl })]
        (t.starts v (.vfoldFin d j) (classF v.et) (groupsOk (some (v.span d)) [] false) false → t.trapsAt false rs = none →
          let u := t.settled v false rs
          done (.vfoldFin d j) (u.setImage v.regBits (v.span d) (setElem v.w (u.image v.regBits (v.span d)) 0 z.bits))) ∧
        (t.qr[q].length < 16 → t.trapsAt false [(0, ⟨x, fl, false⟩)] = none →
          let u := t.settled v false [(0, ⟨x, fl, false⟩)]
          done (.vfoldFinQ q j) { u with qr := u.qr.set q.val (u.qr[q] ++ [.value (BitVec.ofNat 64 x)]) }))

/-- Scans, reductions with a start value, and folds into the canonical reduction registers. The order of VREDSUM.F is a free value (log 40). -/
def Obligations.VectorReduceAndFold : Prop :=
  Claims.VectorScan ∧ Claims.VectorReduce ∧ Claims.VectorFold

/-- 11 R286-R291: the intersections, unions, merges and sorts write their output entries to fd, with the flags of the combined
values; a union or merge that stops at capacity records its cursors in VPROG, and one that had stopped and completes clears it. -/
def Claims.FibreCombine : Prop :=
  ∀ (s : State) (c : Ctx) (t : Strand), InProgram s c t → ∀ (d a b : FReg),
    let v := t.view (s.groupsOf c)
    let xs := t.f[a].entries
    let ys := t.f[b].entries
    let ints := fun (i : Instr) (op : FOp) =>
      t.fibStarts v i (classFI v.et) false op.rounds [] [a, b] → t.f[a].ord = 2 → t.f[b].ord = 2 →
      let out := fintGo v op (xs.length + ys.length) 0 xs ys
      vecEnds s c t i false (outResults out) (t.combined v d out)
    let joins := fun (i : Instr) (op : Option FOp) (kind : Nat) =>
      t.fibStarts v i (classFI v.et) false (op.any FOp.rounds) [] [a, b] →
      t.f[a].ord = 2 ∨ (op = none ∧ t.f[a].ord = 1) → t.f[b].ord = 2 ∨ (op = none ∧ t.f[b].ord = 1) →
      let mine := t.stoppedAt kind
      let i0 := if mine then fieldOf t.vprog 15 0 else 0
      let j0 := if mine then fieldOf t.vprog 31 16 else 0
      let r := unionGo v op v.fibreCap 0 (xs.drop i0) (ys.drop j0)
      let u := t.combined v d r.1
      i0 ≤ xs.length → j0 ≤ ys.length →
      vecEnds s c t i false (outResults r.1)
        (if r.2.1 = [] ∧ r.2.2 = [] then u.cleared kind
        else { u with vprog := vprogWord true kind (xs.length - r.2.1.length) (ys.length - r.2.2.length) })
    let sorts := fun (i : Instr) (op : FOp) =>
      t.fibStarts v i (classFI v.et) false op.rounds [] [a] →
      let out := runGo v op (sortEntries xs) 0 none
      vecEnds s c t i false (outResults out) (t.combined v d out)
    (ints (.fintA d a b) .a ∧ ints (.fintB d a b) .b ∧ ints (.fintAdd d a b) .add ∧ ints (.fintMul d a b) .mul ∧
      ints (.fintMin d a b) .min ∧ ints (.fintMax d a b) .max) ∧
    (joins (.funiA d a b) (some .a) 3 ∧ joins (.funiB d a b) (some .b) 3 ∧ joins (.funiAdd d a b) (some .add) 3 ∧
      joins (.funiMul d a b) (some .mul) 3 ∧ joins (.funiMin d a b) (some .min) 3 ∧ joins (.funiMax d a b) (some .max) 3 ∧
      joins (.fmrg d a b) none 4) ∧
    (sorts (.fsortA d a) .a ∧ sorts (.fsortB d a) .b ∧ sorts (.fsortAdd d a) .add ∧ sorts (.fsortMul d a) .mul ∧
      sorts (.fsortMin d a) .min ∧ sorts (.fsortMax d a) .max) ∧
    (t.fibStarts v (.fsort d a) (classFI v.et) false false [] [a] →
      exec (.fsort d a) s = .next (s.setStrand c.val (t.past (t.withFibre v d (sortEntries xs)))))

/-- 11 R287: an intersection of two fibres of strictly rising coordinates has exactly the coordinates that both have, rising; 11
R290: the sort keeps every entry, puts coordinates in order, and keeps the order of entries with equal coordinates. -/
def Claims.FibreOrder : Prop :=
  (∀ (v : VView) (op : FOp) (xs ys : List FEntry),
    xs.Pairwise (fun x y => x.1.toNat < y.1.toNat) → ys.Pairwise (fun x y => x.1.toNat < y.1.toNat) →
    let out := fintGo v op (xs.length + ys.length) 0 xs ys
    out.Pairwise (fun x y => x.1.toNat < y.1.toNat) ∧
      ∀ k, k ∈ out.map (·.1) ↔ k ∈ xs.map (·.1) ∧ k ∈ ys.map (·.1)) ∧
  ∀ l : List FEntry,
    (sortEntries l).Perm l ∧ (sortEntries l).Pairwise (fun x y => x.1.toNat ≤ y.1.toNat) ∧
      ∀ k, (sortEntries l).filter (fun e => e.1 == k) = l.filter (fun e => e.1 == k)

/-- 11 R292-R296: FCPT and FCPT.Z keep entries, FFROMV builds a fibre from the dense elements, FEXP sets VL from the request and
writes the window of a fibre with zeros between, FCRD and FVAL extract coordinates and values, FCNT appends the occupancy. -/
def Claims.FibreConvert : Prop :=
  ∀ (s : State) (c : Ctx) (t : Strand), InProgram s c t →
    ∀ (d a : FReg) (vr : VReg) (mr : MReg) (g : GReg) (q : Fin 2),
    let v := t.view (s.groupsOf c)
    let es := t.f[a].entries
    let done := fun (i : Instr) (u : Strand) => exec i s = .next (s.setStrand c.val (t.past u))
    (t.fibStarts v (.fcpt d a mr) (classFI v.et) false false [] [a] →
      done (.fcpt d a mr) (t.withFibre v d ((es.zipIdx.filter fun x => t.maskBit mr x.2).map (·.1)))) ∧
    (t.fibStarts v (.fcptZ d a) (classFI v.et) false false [] [a] →
      done (.fcptZ d a) (t.withFibre v d (es.filter fun e => !v.zeroValue e.2))) ∧
    (t.fibStarts v (.ffromv d vr g) (classFI v.et) false false [v.span vr] [] → v.n ≤ 64 * v.groups →
      done (.ffromv d vr g) (t.withFibre v d ((List.range v.n).map fun k =>
        (BitVec.ofNat 32 ((t.rd g).toNat % 2 ^ 32 + k), BitVec.ofNat 64 (elemAt v.w (t.image v.regBits (v.span vr)) k))))) ∧
    (t.fibStarts v (.fexp a vr g) (classFI v.et) false false [v.span vr] [a] →
      let u := t.lengthStep v.groups (t.rd (Fin.ofNat 32 (g.val + 1)))
      let w := u.view v.groups
      let c0 := (t.rd g).toNat % 2 ^ 32
      done (.fexp a vr g) (u.withVec w (w.span vr) w.w (((List.range w.vl).map fun k => (k, 0)) ++ es.filterMap fun e =>
        if c0 ≤ e.1.toNat ∧ e.1.toNat < c0 + w.vl then some (e.1.toNat - c0, e.2.toNat) else none))) ∧
    (t.fibStarts v (.fcrd a vr) (coordType v.et) false false [v.span vr] [] →
      done (.fcrd a vr) (t.withVec v (v.span vr) v.w ((List.range v.n).map fun k => (k, (es.map fun e => e.1.toNat).getD k 0)))) ∧
    (t.fibStarts v (.fval a vr) (classFI v.et) false false [v.span vr] [a] →
      done (.fval a vr) (t.withVec v (v.span vr) v.w ((List.range v.n).map fun k => (k, (es.map fun e => e.2.toNat).getD k 0)))) ∧
    (t.qr[q].length < 16 →
      done (.fcnt q a) { t with qr := t.qr.set q.val (t.qr[q] ++ [.value (BitVec.ofNat 64 es.length)]) })

/-- Intersections, unions, merges, sorts and conversions of fibres. -/
def Obligations.FibreCombine : Prop :=
  Claims.FibreCombine ∧ Claims.FibreOrder ∧ Claims.FibreConvert

/-- 11 R281-R285: FLD reads n coordinates and n values, FST writes them, FLDLV reads the children of a parent position, and FSCAT
adds each entry's value to the dense element that its coordinate names, in entry order. -/
def Obligations.FibreMemory : Prop :=
  ∀ (s : State) (c : Ctx) (t : Strand), InProgram s c t → ∀ (d a : FReg) (g : GReg) (place : MUnit → Parts),
    let v := t.view (s.groupsOf c)
    let e := v.w / 8
    let es := t.f[a].entries
    let reg := fun (k : Nat) => t.rd (Fin.ofNat 32 (g.val + k))
    let get := fun (u : MUnit) => bytesAt s.mem (place u) u.va.toNat u.len
    (s.core (coreNum c)).coherent s.mem →
    (t.fibStarts v (.fld d g) (classFI v.et) true false [] [] → v.n ≤ 64 * v.groups →
      UnitsReach s .load place (entryUnits (reg 0) (reg 1) e 0 v.n true) →
      ∃ u, exec (.fld d g) s = .next u ∧ Beside s u ∧ u.mem = s.mem ∧
        u.strands = (s.setStrand c.val (t.past (t.withFibre v d ((List.range v.n).map fun j =>
          (BitVec.ofNat 32 (get (fibUnit j (itemVa (reg 0) j 4) 4 0)),
            BitVec.ofNat 64 (get (fibUnit j (itemVa (reg 1) j e) e 1))))))).strands) ∧
    (t.fibStarts v (.fst a g) (classFI v.et) true false [] [a] → es.length ≤ 64 * v.groups →
      UnitsReach s .store place (entryUnits (reg 0) (reg 1) e 0 es.length true) →
      ∃ u t', exec (.fst a g) s = .next u ∧ u.strand? c.val = some t' ∧ t'.unlinked = (t.past t).unlinked ∧
        u.mem = (entryUnits (reg 0) (reg 1) e 0 es.length true).foldl (fun (m : Cells) (w : MUnit) =>
          storedAt m (place w) w.va.toNat w.len
            (if w.sub = 0 then (es.getD w.lo (0, 0)).1.toNat else (es.getD w.lo (0, 0)).2.toNat % 2 ^ v.w)) s.mem) ∧
    (t.fibStarts v (.fldlv d g) (classFI v.et) true false [] [] → t.stoppedAt 5 = false → reg 2 ≠ 0 →
      let at0 := reg 0 + BitVec.ofNat 64 (4 * ((reg 3).toNat % 2 ^ 32))
      let p0 := fibUnit 0 at0 4 0
      let p1 := fibUnit 1 (at0 + 4) 4 0
      let lo := get p0
      let cnt := Nat.min (get p1 - lo) (64 * v.groups)
      lo ≤ get p1 → UnitsReach s .load place [p0, p1] →
      UnitsReach s .load place (entryUnits (reg 1) (reg 2) e lo cnt true) →
      ∃ u, exec (.fldlv d g) s = .next u ∧ Beside s u ∧ u.mem = s.mem ∧
        let w := t.withFibre v d ((List.range cnt).map fun j =>
          (BitVec.ofNat 32 (get (fibUnit j (itemVa (reg 1) (lo + j) 4) 4 0)),
            BitVec.ofNat 64 (get (fibUnit j (itemVa (reg 2) (lo + j) e) e 1))))
        u.strands = (s.setStrand c.val (t.past
          (if lo + cnt < get p1 then { w with vprog := vprogWord true 5 cnt (cnt / 65536) } else w))).strands) ∧
    (t.fibStarts v (.fscat a g) (classFI v.et) true true [] [a] → t.cm = 0 → t.stoppedAt 0 = false →
      let us := (List.range es.length).map fun k => fibUnit k (t.rd g + BitVec.ofNat 64 ((es.getD k (0, 0)).1.toNat * e)) e 1
      UnitsReach s .rw place us →
      let r := us.foldl (fun (x : Cells × List (Nat × Res)) (w : MUnit) =>
        let z := elemAdd v.ty (v.mode w.lo) (bytesAt x.1 (place w) w.va.toNat w.len) ((es.getD w.lo (0, 0)).2.toNat % 2 ^ v.w)
        (storedAt x.1 (place w) w.va.toNat w.len z.bits, x.2 ++ [(w.lo, z)])) (s.mem, [])
      (t.trapsAt false r.2 = none →
        ∃ u t', exec (.fscat a g) s = .next u ∧ u.mem = r.1 ∧ u.strand? c.val = some t' ∧
          t'.unlinked = (t.past (t.settled v false r.2)).unlinked))

/-- 12 R309-R314, 05 R105-R107: the accumulator instructions on a placed tile of at most 128 by 128 elements: ACCZ zeroes it, ACCRD
and ACCWR copy it to and from a vector register, ACCCVT converts it, ACCRED combines partial tiles; with no rows or no columns they
change nothing.  ACCRD.D and ACCWR.D move descriptors. -/
def Claims.AccumulatorTiles : Prop :=
  ∀ (s : State) (c : Ctx) (t : Strand), InProgram s c t → ∀ (d : DReg) (a : VReg) (g : GReg) (q : Fin 2),
    let v := t.view (s.groupsOf c)
    let k := coreNum c
    let acc := (s.core k).acc
    let w := t.rd g
    let rows := fieldOf w 7 0
    let cols := fieldOf w 15 8
    let x := t.tileAt k d 0
    let next := fun (i : Instr) (s' : State) (u : Strand) => exec i s = .next (s'.setStrand c.val (t.past u))
    (s.core k).lost = [] → (Instr.accz d g).wf = true → rows ≤ 128 → cols ≤ 128 →
    (fieldOf w 63 16 = 0 →
      (rows = 0 ∨ cols = 0 → next (.accz d g) s t) ∧
      (0 < rows → 0 < cols → t.tilePlaced d rows cols 0 →
        next (.accz d g) (s.withAcc k (x.put acc (List.replicate rows (List.replicate cols 0)))) t ∧
        (t.starts v (.accrd d a g) (classXCode v.et) (v.span a).ok false → v.et = accEt x.kind →
          next (.accrd d a g) s (t.withVec v (v.span a) v.w ((List.range v.n).map fun r =>
            (r, if r < rows * cols then matGet (x.get acc rows cols) (r / cols) (r % cols) else 0)))) ∧
        (t.starts v (.accwr d a g) (classXCode v.et) (v.span a).ok false → v.et = accEt x.kind → v.n ≠ 0 →
          next (.accwr d a g) (s.withAcc k (x.put acc (chunksOf cols (rows + 1)
            ((List.range (Nat.min v.n (rows * cols))).map (elemAt v.w (t.image v.regBits (v.span a))))))) t) ∧
        (t.starts v (.acccvt d a g) (classXCode v.et) (v.span a).ok (!(classI v.et || v.et == 0x10) || x.kind != 2) →
          let n := Nat.min v.n (rows * cols)
          let rs := (List.range n).map fun r => (r, v.ty.round (v.modeXY (r % cols) (r / cols + 1))
            ((accTy x.kind).num (matGet (x.get acc rows cols) (r / cols) (r % cols))))
          vecEnds s c t (.acccvt d a g) false rs ((t.settled v false rs).withVec v (v.span a) v.w
            (t.codes false rs ++ (List.range (v.n - n)).map fun r => (n + r, 0)))))) ∧
    (0 < rows → 0 < cols → fieldOf w 31 16 ≠ 0 →
      (∀ p, p < fieldOf w 31 16 → t.tilePlaced d rows cols (p * fieldOf w 63 32)) →
      let ms := (List.range (fieldOf w 31 16)).map fun p => (t.tileAt k d (p * fieldOf w 63 32)).get acc rows cols
      let out := (List.range rows).map fun i => (List.range cols).map fun j =>
        combinePartials x.kind (ms.map fun m => matGet m i j)
      next (.accred d g) (s.withAcc k (x.put acc (out.map fun row => row.map (·.1)))) (t.raise (tileFlags out))) ∧
    (t.qr[q].length < 16 →
      next (.accrdD d q) s { t with qr := t.qr.set q.val (t.qr[q] ++ [.value ((t.d[d]).zeroExtend 64)]) }) ∧
    next (.accwrD d g) s { t with d := t.d.set d.val (w.truncate 32) }

/-- 12 R311: ACCLD loads a tile from rows PITCH bytes apart, ACCST stores one in row-major order. -/
def Claims.AccumulatorMemory : Prop :=
  ∀ (s : State) (c : Ctx) (t : Strand), InProgram s c t → ∀ (d : DReg) (g : GReg) (place : MUnit → Parts),
    let k := coreNum c
    let acc := (s.core k).acc
    let w := t.rd (pairReg g)
    let rows := fieldOf w 7 0
    let cols := fieldOf w 15 8
    let x := t.tileAt k d 0
    let us := tileUnits ⟨w, rows, cols, 0, fieldOf w 63 32⟩ x.w (t.rd g)
    (s.core k).lost = [] → t.prompt → 0 < rows → rows ≤ 128 → 0 < cols → cols ≤ 128 → fieldOf w 31 16 = 0 →
    t.tilePlaced d rows cols 0 →
    ((Instr.accld d g).wf = true → (s.core k).coherent s.mem → UnitsReach s .load place us →
      ∃ u, exec (.accld d g) s = .next u ∧ Beside (s.withAcc k (u.core k).acc) u ∧ u.mem = s.mem ∧
        (u.core k).acc = x.put acc (chunksOf cols (rows + 1) (us.map fun y => bytesAt s.mem (place y) y.va.toNat y.len)) ∧
        u.strands = (s.setStrand c.val (t.past t)).strands) ∧
    ((Instr.accst d g).wf = true → UnitsReach s .store place us →
      ∃ u t', exec (.accst d g) s = .next u ∧ Beside { s with ccs := u.ccs } u ∧
        u.mem = us.foldl (fun (m : Cells) (y : MUnit) => storedAt m (place y) y.va.toNat y.len
          (matGet (x.get acc rows cols) (y.lo / cols) (y.lo % cols))) s.mem ∧
        u.strand? c.val = some t' ∧ t'.unlinked = (t.past t).unlinked)

/-- The accumulator instructions on a placed tile. An empty tile changes nothing (log 60). -/
def Obligations.AccumulatorMoves : Prop :=
  Claims.AccumulatorTiles ∧ Claims.AccumulatorMemory

/-- 12 R300-R308: a multiply whose grants, operands and tile pass their checks adds the product into the tile, raises the flags,
and is counted on MOF; with a zero extent it only counts. -/
def Claims.MatrixMultiply : Prop :=
  ∀ (s : State) (c : Ctx) (t : Strand), InProgram s c t → ∀ (d : DReg) (a b : VReg) (g : GReg),
    let v := t.view (s.groupsOf c)
    let k := coreNum c
    let acc := (s.core k).acc
    let eff := fun (w : Word) => Nat.min (fieldOf w 63 32) (fieldOf w 31 0)
    let me := eff t.tm
    let ne := eff t.tn
    let ke := eff t.tk
    let bits4 := ((matQuantum v.et).getD (16, 64)).2
    let addr := t.rd g
    let x := t.tileAt k d 0
    let multiplies := fun (i : Instr) (form : MulForm) (mem : Bool) =>
      t.starts v i (form.accepts v.et) (match form with | .gathered b => (v.spanOf b 32).ok | _ => true) false →
      t.outstanding pMof < Config.maxOutstanding →
      (me = 0 ∨ ne = 0 ∨ ke = 0 → exec i s = .next (s.setStrand c.val (t.past (t.multiplied 0)))) ∧
      (0 < me → 0 < ne → 0 < ke → (if mem then addr.toNat else fieldOf addr 18 0) % matAlign v.et = 0 →
        fieldOf t.tm 31 0 * fieldOf t.tk 31 0 * bits4 ≤ 8 * v.groups * 2048 * 4 →
        t.tilePlaced d me ne 0 → x.kind = accKindOf v.et → (s.core k).lost = [] →
        (form.isGathered = true → v.n ≤ ke ∧ v.n ≠ 0) →
        (mem = true → bitOf s.hub.fubase 0 = false) →
        ∀ raw s1, (fetchOperand mem v.et addr (form.lines t v ne ke bits4)).run s = .ok raw s1 →
        let out := form.product t v a x.kind ne ke bits4 raw (x.get acc me ne)
        exec i s = .next ((s1.withAcc k (x.put acc (out.map fun row => row.map (·.1)))).setStrand c.val
          (t.past (t.multiplied (tileFlags out)))))
    multiplies (.mmaT d a g) .dense false ∧ multiplies (.mmaM d a g) .dense true ∧
    multiplies (.mmaxT d a b g) (.gathered b) false ∧ multiplies (.mmaxM d a b g) (.gathered b) true ∧
    multiplies (.mmasT d a b g) (.sparse b) false ∧ multiplies (.mmasM d a b g) (.sparse b) true

/-- 12 R306, R314, 04 R96: an INT32 accumulator element after a multiply is its value plus the exact sum of the products, modulo
2^32, and raises nothing; INT32 partials combine to their sum modulo 2^32. -/
def Claims.IntegerAccumulate : Prop :=
  (∀ (e : Nat) (l : List (Nat × Int × Int)), e < 2 ^ 32 →
    mulElem 2 e (l.map fun x => (x.1, numOfInt x.2.1, numOfInt x.2.2)) =
      (ofSigned 32 (e + (l.map fun x => x.2.1 * x.2.2).sum), 0)) ∧
  ∀ l : List Nat, combinePartials 2 l = (l.sum % 2 ^ 32, 0)

/-- Multiplies add the product into their tile and are counted; integer accumulation is exact modulo 2^32. The order of a multiply's checks follows log 59. -/
def Obligations.MatrixMultiply : Prop :=
  Claims.MatrixMultiply ∧ Claims.IntegerAccumulate

/-- 12 R316-R323: a solver whose tiles pass the checks of R317 works on them in place, raises its flags, and leaves its code in
STATUS.SOLV, raised to NONFINITE where it wrote a value that is not finite; TRES and TITER append their results to q6 or q7. Corners of the listed algorithms follow log 61. -/
def Obligations.Solvers : Prop :=
  ∀ (s : State) (c : Ctx) (t : Strand), InProgram s c t → ∀ (d b xd : DReg) (f : Fin 4) (a : VReg) (g : GReg) (q : Fin 2),
    let v := t.view (s.groupsOf c)
    let k := coreNum c
    let acc := (s.core k).acc
    let w := t.rd g
    let n := fieldOf w 7 0
    let r := fieldOf w 15 8
    let ended := fun (u : Strand) (code : Nat) (out : List Nat) (fl : FlagSet) =>
      ({ u with hart := { u.hart with
        status := setField u.hart.status 31 29 (if out.any nonFinite then Nat.max code 3 else code) } }).raise fl
    let pivots := (List.range n).map fun j => elemAt 32 (t.image v.regBits ⟨a.val, 2⟩) j
    let next := fun (i : Instr) (m : Cells) (u : Strand) =>
      exec i s = .next ((s.withAcc k m).setStrand c.val (t.past u))
    let at0 := fun (y : DReg) => t.tileAt k y 0
    let push := fun (u : Strand) (z : Nat) => { u with qr := u.qr.set q.val (u.qr[q] ++ [.value (BitVec.ofNat 64 z)]) }
    (s.core k).lost = [] → 0 < n → n ≤ 128 → 0 < r → r ≤ 128 →
    (fieldOf w 63 16 = 0 →
      (∀ ts pf, (solverTiles [(d, n, n)]).run s = .ok (ts, pf) s → r = n →
        (let z := (lufGo n pf n 0 ⟨(at0 d).get acc n n, [], 0⟩).run 0
         let u := t.setImage v.regBits ⟨a.val, 2⟩
          (z.1.piv.zipIdx.foldl (fun (y : Nat) (e : Nat × Nat) => setElem 32 y e.2 e.1) (t.image v.regBits ⟨a.val, 2⟩))
         (Instr.tluf d a g).wf = true → next (.tluf d a g) ((at0 d).put acc z.1.a) (ended u z.1.code z.1.a.flatten z.2)) ∧
        (let lower := (List.range n).map fun i => (List.range n).map fun j =>
          if j ≤ i then acc.read ((at0 d).at' i j) (at0 d).w else 0
         let z := (cholGo n pf n 0 ⟨lower, [], 0⟩).run 0
         let out := z.1.a.zipIdx.map fun row => row.1.take (row.2 + 1)
         (Instr.tchol d g).wf = true → next (.tchol d g) ((at0 d).put acc out) (ended t z.1.code out.flatten z.2))) ∧
      (∀ ts pf, (solverTiles [(d, n, n), (b, n, r)]).run s = .ok (ts, pf) s →
        let solves := fun (i : Instr) (upper unit : Bool) (ps : List Nat) =>
          let m := (List.range n).map fun i => (List.range n).map fun j =>
            if (if i = j then !unit else decide (i < j) == upper) then acc.read ((at0 d).at' i j) (at0 d).w else 0
          let z := (triangular upper unit m n r (interchange ps ((at0 b).get acc n r))).run 0
          i.wf = true → next i ((at0 b).put acc z.1) (ended t 0 z.1.flatten z.2)
        solves (.ttrsL d b g) false false [] ∧ solves (.ttrsU d b g) true false [] ∧
        solves (.ttrsL1 d b g) false true [] ∧ solves (.ttrsU1 d b g) true true [] ∧
        ((∀ p ∈ pivots, p < n) → solves (.ttrsLp d a b g) false false pivots ∧ solves (.ttrsL1p d a b g) false true pivots)) ∧
      (∀ ts pf, (solverTiles [(d, n, n), (xd, n, r), (b, n, r)]).run s = .ok (ts, pf) s → t.qr[q].length < 16 →
        let z := (residual n r ((at0 d).get acc n n) ((at0 xd).get acc n r) ((at0 b).get acc n r)).run 0
        let y := (normOf z.1).run z.2
        (Instr.tres d b xd g q).wf = true →
        next (.tres d b xd g q) ((at0 b).put acc z.1) (ended (push t y.1) 0 (y.1 :: z.1.flatten) y.2))) ∧
    (∀ ts pf, (solverTiles [(descAt f 0, n, n), (descAt f 1, n, n), (descAt f 2, n, r), (descAt f 3, n, r), (descAt f 4, n, r)]).run s
        = .ok (ts, pf) s → fieldOf w 63 32 = 0 → (∀ p ∈ pivots, p < n) → t.qr[q].length < 15 →
      (t.stop = none → s.preemptedNext c = false) →
      let z := (refineGo n r ((at0 (descAt f 0)).get acc n n) ((at0 (descAt f 1)).get acc n n) ((at0 (descAt f 3)).get acc n r)
        pivots (t.rd (pairReg g)).toNat (fieldOf w 31 16) (t.stop.map fun _ => 0) (fieldOf w 31 16 + 1)
        ⟨(at0 (descAt f 2)).get acc n r, [], 0, 0, 2⟩).run 0
      (Instr.titer f a g q).wf = true →
      next (.titer f a g q) ((at0 (descAt f 4)).put ((at0 (descAt f 2)).put acc z.1.x) z.1.w)
        (ended (push (push t z.1.it) z.1.nrm) z.1.code (z.1.nrm :: (z.1.x.flatten ++ z.1.w.flatten)) z.2))

/-- 07 R177-R179, 08 R195: a Sirmal block whose headers, body words and extents are as R195 asks, and whose points all complete, leaves
what its points did, with the temporaries zero and no block point, and goes on at the word after its body. A block is one step, and unwritten temporaries are free values (logs 48 and 62). -/
def Obligations.SirmalBlock : Prop :=
  ∀ (s : State) (c : Ctx) (t : Strand), InProgram s c t → ∀ (count len : Fin 32),
    let i := Instr.sblk count len
    let v := t.view (s.groupsOf c)
    ∀ hs body s1, (allStreams (t.hart.pc + 4) count.val).run s = .ok (hs, body) s1 →
    let shapes : List BlockStream := hs.map fun h => { base := 0, et := h.et, out := h.out, extents := [], strides := [] }
    ∀ ws s2, ((List.range (len.val + 1)).mapM fun n => codeWord (body + BitVec.ofNat 64 (4 * n))).run s1 = .ok ws s2 →
    (∀ w ∈ ws, bodyWordOk shapes v.et w = true) →
    let ops := ws.filterMap fun w => (decodeBody w).bind bodyOf
    i.wf = true → t.mayRound v (ops.any (fun o => o.rounds v.et) || shapes.any fun h => h.et != v.et && convRounds h.et v.et) →
    ∀ streams, (hs.mapM StreamWords.values).run s2 = .ok streams s2 →
    let extents := (streams.head?.map (·.extents)).getD []
    (∀ x ∈ streams, x.extents = extents) → (∀ n ∈ extents, 0 < n ∧ n ≤ 2 ^ 32) →
    ∀ e s3, (expansionOf t.hart.pc v ws).run s2 = .ok e s2 → (holdExpansion e).run s2 = .ok () s3 →
    let first := match t.blkpt with | some xs => pointNumber extents xs | none => 0
    ∀ s4, ((BlockEnv.mk v streams ops).run extents (extents.foldl (· * ·) 1 - first) first).run s3 = .ok () s4 →
    ∃ t4, s4.strand? c.val = some t4 ∧ exec i s = .next (s4.setStrand c.val
      ({ t4 with blkpt := none }.dropTemps.continueAt (body + BitVec.ofNat 64 (4 * (len.val + 1)))))

/-- 10 R241-R243, 12 R301: VSETL of an image that VTYPE accepts writes VTYPE, VL and VPAD and answers the granted length, at most VLMAX
and a multiple of 32 under MX; any other image traps.  VSETMF writes MFMT, or traps.  TSHAPE writes the three shape registers. -/
def Claims.LengthAndShape : Prop :=
  ∀ (s : State) (c : Ctx) (t : Strand), InProgram s c t → ∀ (d a b g : GReg),
    let p := s.groupsOf c
    let r := (t.rd a).toNat
    let w := t.rd b
    let most := Nat.min r (vlmaxOf p (fieldOf w 4 0) (2 ^ fieldOf w 13 12))
    let granted := if bitOf w 5 then (most + 31) / 32 * 32 else most
    let req := fun (i : Nat) => Nat.min (t.rd (Fin.ofNat 32 (g.val + i))).toNat 0xFFFFFFFF
    let bad := fun (i : Instr) (w : Word) => exec i s = .next (takeStrandTrap c i { cause := 0x01, tval := w } s)
    (vtypeOk w = true → exec (.vsetl d a b) s = .next (s.setStrand c.val (t.past
      ({ t with vtype := w, vl := BitVec.ofNat 64 (Nat.min r 0xFFFFFFFF * 2 ^ 32 + granted),
                vpad := BitVec.ofNat 64 (granted - most) }.putG d (BitVec.ofNat 64 granted))))) ∧
    (vtypeOk w = false → bad (.vsetl d a b) w) ∧
    ((t.rd a).toNat ≤ 0xC → exec (.vsetmf a) s = .next (s.setStrand c.val (t.past { t with mfmt := t.rd a }))) ∧
    (0xC < (t.rd a).toNat → bad (.vsetmf a) (t.rd a)) ∧
    ((Instr.tshape g).wf = true →
      (∀ m n k, grantShape p (fieldOf t.vtype 4 0) (req 0) (req 1) (req 2) = some (m, n, k) →
        exec (.tshape g) s = .next (s.setStrand c.val (t.past
          { t with tm := BitVec.ofNat 64 (req 0 * 2 ^ 32 + m), tn := BitVec.ofNat 64 (req 1 * 2 ^ 32 + n),
                   tk := BitVec.ofNat 64 (req 2 * 2 ^ 32 + k) }))) ∧
      (grantShape p (fieldOf t.vtype 4 0) (req 0) (req 1) (req 2) = none → bad (.tshape g) (wordOf (.tshape g))))

/-- 10 R244, 07 R167-R169, 09 R212: once no strand of the core has older work queued, VSPLIT and VFUSE write LGMAP; a strand whose
partition changes loses its lane state (a strand with a fault frame does not), every reservation of the core is cleared, and the
other cores' strands and memory stay. -/
def Claims.LaneSplit : Prop :=
  ∀ (s : State) (c : Ctx) (t : Strand), InProgram s c t → ∀ (a b : GReg),
    let k := coreNum c
    let old := (s.core k).lgmap
    let after := fun (new : Word) (j : Nat) (x : Strand) =>
      if new = old ∨ j / 8 ≠ k then x
      else if partitionOf old j = partitionOf new j ∨ x.frame.isSome then x.unlinked
      else x.unlinked.loseLanes (partitionOf new j).length
    let splits := fun (i : Instr) (new : Word) =>
      (s.splitPeers k c.val = [] →
        ∃ u, exec i s = .next u ∧ u.mem = s.mem ∧ (u.core k) = { s.core k with lgmap := new } ∧
          u.strand? c.val = some ((after new c.val t).continueAt (t.hart.pc + 4)) ∧
          ∀ j, j ≠ c.val → u.strand? j = (s.strand? j).map (after new j)) ∧
      (s.splitPeers k c.val ≠ [] → exec i s = .next (s.setStrand c.val { t with cond := .asleep (.others (s.splitPeers k c.val)) }))
    (fieldOf (t.rd a) 63 2 = 0 → fieldOf (t.rd b) 63 24 = 0 →
      splits (.vsplit a b) (setField (setField old 41 40 (fieldOf (t.rd a) 1 0)) 23 0 (fieldOf (t.rd b) 23 0))) ∧
    (fieldOf (t.rd a) 63 2 ≠ 0 →
      exec (.vsplit a b) s = .next (takeStrandTrap c (.vsplit a b) { cause := 0x0B, tval := t.rd a } s)) ∧
    splits .vfuse (setField old 41 40 3)

/-- 05 R127, R128: CTAS takes a bit of its quad that is free, and for which no other strand has waited longest (log entry 80), as a
QUAD-scope acquire; else it sleeps in the wait order; CCLR clears the bit; CRD
and CWR read and write a data register of the quad. -/
def Claims.QuadRegisters : Prop :=
  ∀ (s : State) (c : Ctx) (t : Strand), InProgram s c t → ∀ (d a : GReg) (b : Fin 32) (r : Fin 16),
    let q := c.val / 32
    let k := s.quad q
    let on := fun (s' : State) (u : Strand) => (Host.Outcome.next (s'.setStrand c.val u) : Host.Outcome State Fault Refusal)
    let taken := k.sem.getLsbD b.val = true ∨ ∃ w rest, k.waiting.filter (fun w => w.2 == b) = w :: rest ∧ w.1 ≠ c
    (¬taken → exec (.ctas b) s = on
      ((s.setQuad q { k with sem := k.sem ||| (1#32 <<< b.val), waiting := k.waiting.filter fun w => w.1 != c }).setCore (coreNum c)
        (s.core (coreNum c)).l1Flush) (t.past (t.acquired s c 1))) ∧
    (taken → exec (.ctas b) s = on
      (s.setQuad q { k with waiting := if (c, b) ∈ k.waiting then k.waiting else k.waiting ++ [(c, b)] })
      { t with cond := .asleep (.ctas b) }) ∧
    exec (.cclr b) s = on (s.setQuad q { k with sem := k.sem &&& ~~~(1#32 <<< b.val) }) (t.past t) ∧
    exec (.crd d r) s = wroteG s c t d k.data[r] ∧
    exec (.cwr a r) s = on (s.setQuad q { k with data := k.data.set r.val (t.rd a) }) (t.past t)

/-- VSETL, VSETMF, TSHAPE, VSPLIT, VFUSE, and the registers of a quad. -/
def Obligations.LanesAndLength : Prop :=
  Claims.LengthAndShape ∧ Claims.LaneSplit ∧ Claims.QuadRegisters

/-- 13 R328, R329: BAR arrives at its episode, whose count the first arrival fixes, and sleeps; the last arrival ends the episode, and
it and every participant that slept there continue.  A count of 0, one above the contexts of the scope, or another than the
episode's takes the shape trap. -/
def Obligations.Barriers : Prop :=
  ∀ (s : State) (c : Ctx) (t : Strand), InProgram s c t → ∀ (a : GReg) (b : Fin 16) (scope : Fin 8),
    let i := Instr.bar a b scope
    let n := (t.rd a).toNat
    let limit := [8, 32, 2048, 32768].getD scope.val 134217728
    let at' := if scope.val = 0 then c.val / 8 else if scope.val = 1 then c.val / 32 else if scope.val = 2 then c.val / 2048 else 0
    let here := fun (e : Episode) => e.isAt scope at' b (BitVec.ofNat 16 (jobOf t.hart.ptbase))
    let ep := s.hub.episodes.find? here
    let arrived := (ep.map (·.arrived)).getD [] ++ [c]
    let shape := exec i s = .next (takeStrandTrap c i { cause := 0x0B, tval := t.rd a } s)
    i.wf = true →
    (n = 0 ∨ limit < n → shape) ∧
    (0 < n → n ≤ limit →
      ((∃ e, ep = some e ∧ e.count ≠ n) → shape) ∧
      ((∀ e, ep = some e → e.count = n) →
        (arrived.length < n →
          ∃ u, exec i s = .next u ∧ u.strands = (s.setStrand c.val { t with cond := .asleep (.bar scope at' b) }).strands ∧
            u.mem = s.mem ∧ (u.hub.episodes.find? here).map (fun e => (e.count, e.arrived)) = some (n, arrived)) ∧
        (n ≤ arrived.length →
          ∃ u, exec i s = .next u ∧ u.strand? c.val = some (t.past (t.acquired s c scope.val)) ∧ u.mem = s.mem ∧
            u.hub.episodes = s.hub.episodes.filter (fun e => !here e) ∧
            (∀ j ∈ arrived, j ≠ c → ∀ x sc m y, s.strand? j.val = some x → x.cond = .asleep (.bar sc m y) → x.fromQueue = none →
              u.strand? j.val = some { (x.acquired s j scope.val).continueAt (x.hart.pc + 4) with cond := .runnable }) ∧
            ∀ j : Nat, (∀ x ∈ arrived, x.val ≠ j) → u.strand? j = s.strand? j)))

/-- 06 R141, R143, R146, 05 R113: the resynchronising fences only go on; XFENCE goes on when no operation of its producer path within
its scope is outstanding (nor, for BNK at POD scope, a reply of another module), emptying the core's L1 where the consumer reads through
it and closing the multicast windows where it is the matrix operand fetch, and else sleeps. -/
def Claims.Fences : Prop :=
  ∀ (s : State) (c : Ctx) (t : Strand), InProgram s c t → ∀ (p k scope : Fin 8),
    let i := Instr.xfence p k scope
    let n := coreNum c
    let pending := t.ops.find? fun (o : PathOp) =>
      o.path.val == p.val && !o.complete && o.work.inScope s.moduleNum.val n scope.val
    exec .fenceAv s = .next (s.setStrand c.val (t.past t)) ∧ exec .fenceVa s = .next (s.setStrand c.val (t.past t)) ∧
    exec .fenceVv s = .next (s.setStrand c.val (t.past t)) ∧ exec .fenceAll s = .next (s.setStrand c.val (t.past t)) ∧
    (i.wf = true →
      (pending = none → (p.val = 5 ∧ scope.val = 4 → t.awaitsBank = []) →
        (k.val < 6 → exec i s = .next (s.setStrand c.val (t.past (if k.val = 4 then t.acquired s c 1 else t)))) ∧
        (6 ≤ k.val → exec i s = .next ((s.setCore n (s.core n).l1Flush).setStrand c.val (t.past t)))) ∧
      (pending = none → p.val = 5 → scope.val = 4 → t.awaitsBank ≠ [] →
        exec i s = .next (s.setStrand c.val { t with cond := .asleep .replies })) ∧
      ∀ o, pending = some o → exec i s = .next (s.setStrand c.val
        { t with cond := .asleep (if o.work = .forwarded then .performed o.path o.n else .opDone o.path o.n) }))

/-- 13 R332-R334: SIGINC and SIGINC.R add gb to an aligned word of their own module; to another module they issue a REM operation, and
SIGINC.R, but at CORE scope after all earlier ones, waits until it is performed.
SIGWAIT answers the word once it has reached gb, else sleeps; TIMERD answers TIME, and WAITT does once TIME has reached ga. -/
def Claims.SignalsAndTime : Prop :=
  ∀ (s : State) (c : Ctx) (t : Strand), InProgram s c t → ∀ (d a b : GReg) (scope : Fin 8) (p : PageTr),
    let va := t.rd a
    let cell := p.cell va.toNat
    let word := s.mem.read cell 8
    let adds := fun (i : Instr) =>
      ∃ u t', exec i s = .next u ∧ Beside { s with ccs := u.ccs } u ∧ u.mem = s.mem.write cell 8 ((word + (t.rd b).toNat) % 2 ^ 64) ∧
        u.strand? c.val = some t' ∧ t'.unlinked = (t.past t).unlinked
    let far := fun (release : Bool) => t.issue 3 (.remoteSignal cell (t.rd b) release)
    (va.toNat % 8 = 0 → Resident s .rw va 8 8 [(p, va.toNat, 8)] →
      adds (.siginc a b) ∧ ((Instr.sigincR a b scope).wf = true → adds (.sigincR a b scope))) ∧
    (va.toNat % 8 = 0 → (translate .rw va).run s = .ok p s → p.converts = false → leafMod p.leaf ≠ s.moduleNum.val →
      (t.outstanding 3 < Config.maxOutstanding → exec (.siginc a b) s = .next (s.setStrand c.val (t.past (far false)))) ∧
      ((Instr.sigincR a b scope).wf = true →
        (if scope = 0 then t.outstanding 3 < Config.maxOutstanding else t.outstanding 3 = 0) →
        exec (.sigincR a b scope) s = .next (s.setStrand c.val { t.past (far true) with cond := .asleep (.opDone 3 (far true).cpl[3].1) }))) ∧
    (va.toNat % 8 = 0 → Resident s .load va 8 8 [(p, va.toNat, 8)] →
      (Instr.sigwait d a b scope).wf = true →
      ∃ u, exec (.sigwait d a b scope) s = .next u ∧ Beside s u ∧ u.mem = s.mem ∧ u.strands =
        (s.setStrand c.val (if (BitVec.ofNat 64 word - t.rd b).toNat < 2 ^ 63 then
          t.past ((t.putG d (BitVec.ofNat 64 word)).acquired s c scope.val)
          else { t with cond := .asleep (.sigwait d va (t.rd b) scope) })).strands) ∧
    exec (.timerd d) s = wroteG s c t d s.time ∧
    exec (.waitt d a) s =
      (if va.toNat ≤ s.time.toNat then wroteG s c t d s.time
      else .next (s.setStrand c.val { t with cond := .asleep (.waitt d va) }))

/-- Fences wait for their producer path; SIGINC adds, SIGWAIT, TIMERD and WAITT answer. That the non-remote fences only go on follows log 13. -/
def Obligations.FencesAndSignals : Prop :=
  Claims.Fences ∧ Claims.SignalsAndTime

/-- 13 R335, 05 R130, R131: a BNKOP on an aligned target of bank memory issues an operation of the BNK path with its operands; the
FADD forms are illegal in a Reproducible launch. -/
def Claims.BankOperationIssue : Prop :=
  ∀ (s : State) (c : Ctx) (t : Strand), InProgram s c t → ∀ (d a b : GReg) (p : PageTr),
    let va := t.rd a
    let issues := fun (i : Instr) (o : BankOp) (n : Nat) =>
      (va.toNat % n = 0 → BankAt s .rw va p → t.outstanding 5 < Config.maxOutstanding →
        exec i s = .next (s.setStrand c.val (t.past (t.issue 5 (.bank o (p.cell va.toNat) (t.rd b) (t.rd d) d))))) ∧
      (va.toNat % n ≠ 0 → exec i s = .next (takeStrandTrap c i { cause := 0x04, tval := va } s))
    issues (.bnkopAdd d a b) .add 8 ∧ issues (.bnkopMin d a b) .min 8 ∧ issues (.bnkopMax d a b) .max 8 ∧
    issues (.bnkopMinn d a b) .minn 8 ∧ issues (.bnkopMaxn d a b) .maxn 8 ∧ issues (.bnkopAnd d a b) .and 8 ∧
    issues (.bnkopOr d a b) .or 8 ∧ issues (.bnkopXor d a b) .xor 8 ∧ issues (.bnkopSwap d a b) .swap 8 ∧
    issues (.bnkopCas d a b) .cas 8 ∧
    (t.hart.repro = false → issues (.bnkopFadd32 d a b) .fadd32 4 ∧ issues (.bnkopFadd64 d a b) .fadd64 8) ∧
    (t.hart.repro = true →
      exec (.bnkopFadd32 d a b) s =
        .next (takeStrandTrap c (.bnkopFadd32 d a b) { cause := 0x01, tval := wordOf (.bnkopFadd32 d a b) } s) ∧
      exec (.bnkopFadd64 d a b) s =
        .next (takeStrandTrap c (.bnkopFadd64 d a b) { cause := 0x01, tval := wordOf (.bnkopFadd64 d a b) } s))

/-- 05 R124, R125, 13 R335: when a bank operation is performed, its target takes the value that its operation gives from the old one
(a CAS whose compare fails writes nothing), the old value goes to gd, and the operation completes. -/
def Claims.BankOperationResult : Prop :=
  ∀ (s : State) (c : Ctx) (t : Strand) (n : BitVec 32) (op : PathOp) (o : BankOp) (cell : Nat) (x ex : Word) (d : GReg),
    s.strand? c.val = some t → t.opAt 5 n = some op → op.work = .bank o cell x ex d → op.complete = false →
    t.blockedOp c op = false → s.lostAt cell o.bytes = [] →
    let old := BitVec.ofNat 64 (s.mem.read cell o.bytes)
    let new : Word :=
      match o with
      | .add => old + x
      | .min => if old.toInt < x.toInt then old else x
      | .max => if x.toInt < old.toInt then old else x
      | .minn => if old.toNat < x.toNat then old else x
      | .maxn => if x.toNat < old.toNat then old else x
      | .and => old &&& x
      | .or => old ||| x
      | .xor => old ^^^ x
      | .swap => x
      | .cas => if old = ex then x else old
      | .fadd32 => BitVec.ofNat 64 (fp32.addRne old.toNat (x.toNat % 2 ^ 32))
      | .fadd64 => BitVec.ofNat 64 (fp64.addRne old.toNat x.toNat)
    leaves s c (.pathOperationComplete c 5 n) (if o = .cas ∧ old ≠ ex then s.mem else s.mem.write cell o.bytes new.toNat)
      ((t.putG d old).complete 5 n none)

/-- 05 R126, 13 R336, R337: BNKRD hands back the slot as its format reads it, and its .Z form zeroes the slot; BNKEXA of FP32 or BF16
elements, or of FP64, issues the adds of its selected elements at base + index.  A value from a bank then arrives in its register. -/
def Claims.ExactSlots : Prop :=
  ∀ (s : State) (c : Ctx) (t : Strand), InProgram s c t → ∀ (d a : GReg) (r b : VReg) (mk : MReg) (me : Bool) (p : PageTr),
    let v := t.view (s.groupsOf c)
    let va := t.rd a
    let cell := p.cell va.toNat
    let reads := fun (i : Instr) (f64 : Bool) (fmt : FFmt) (zero : Bool) =>
      let n := if f64 then 320 else 64
      va.toNat % 64 = 0 → (f64 = true → va.toNat % 512 + 320 ≤ 512) → BankAt s (if zero then .rw else .load) va p →
      s.lostAt cell n = [] → t.ops = [] →
      leaves s c i (if zero then s.mem.write cell n 0 else s.mem)
        (t.past { t with returns := t.returns ++ [(d, BitVec.ofNat 64 (exaRead f64 (s.mem.read cell n) fmt))] })
    reads (.bnkrdF32 d a) false fp32 false ∧ reads (.bnkrdBf16 d a) false bf16 false ∧ reads (.bnkrdF64 d a) true fp64 false ∧
    reads (.bnkrdF32Z d a) false fp32 true ∧ reads (.bnkrdBf16Z d a) false bf16 true ∧ reads (.bnkrdF64Z d a) true fp64 true ∧
    (∀ f64, exaKind v.et = some f64 → (Instr.bnkexa r a b mk me).wf = true → (me = true ∨ mk.val = 0) →
      (v.span r).ok = true → (v.spanOf b 32).ok = true → t.outstanding 5 < Config.maxOutstanding →
      let sel := t.selected v (modsOf mk me)
      ∀ cells, (exaCells f64 (sel.map fun k =>
          va + BitVec.ofInt 64 (toSigned 32 (elemAt 32 (t.image v.regBits (v.spanOf b 32)) k)))).run s = .ok cells s →
      let adds := cells.zip (sel.map fun k => BitVec.ofNat 64 (elemAt v.w (t.image v.regBits (v.span r)) k))
      let u := t.issue 5 (.exact adds f64 (v.et == 3))
      exec (.bnkexa r a b mk me) s = .next (s.setStrand c.val
        (t.past (if adds = [] then u.complete 5 u.cpl[5].1 none else u)))) ∧
    (∀ x rest, t.returns = (d, x) :: rest →
      exec (.bankResultReturn c) s = .next (s.setStrand c.val ({ t with returns := rest }.putG d x)))

/-- Bank operations are issued on their path, change their target by their operation, and answer the old value. -/
def Obligations.BankOperations : Prop :=
  Claims.BankOperationIssue ∧ Claims.BankOperationResult ∧ Claims.ExactSlots

/-- 05 R126: an exact-accumulate slot holds the sum whatever the order of the adds, and read back it is the exact sum of the finite
values added, rounded once, as long as that sum is within the slot. -/
def Obligations.ExactSum : Prop :=
  (∀ (f64 : Bool) (slot : Nat) (l l' : List Machine.Num), l.Perm l' → l.foldl (exaAdd f64) slot = l'.foldl (exaAdd f64) slot) ∧
  ∀ (f64 : Bool) (fmt : FFmt) (l : List (Bool × Nat × Int)),
    (∀ x ∈ l, -(exaL f64 : Int) ≤ x.2.2) →
    let total : Int := (l.map fun (x : Bool × Nat × Int) => signedSig x.1 (x.2.1 * 2 ^ (x.2.2 + (exaL f64 : Int)).toNat)).sum
    total.natAbs < 2 ^ (exaW f64 - 1) →
    exaRead f64 (l.foldl (fun (slot : Nat) (x : Bool × Nat × Int) => exaAdd f64 slot (.fin x.1 x.2.1 x.2.2)) 0) fmt =
      if total = 0 then 0 else (fmt.round .rne (.fin (decide (total < 0)) total.natAbs (-(exaL f64 : Int)))).bits

/-- 13 R341-R345, 05 R130, R131: GSTR reads its descriptor, and for an affine descriptor within Table 3 issues a stream over the
addresses of its elements (for a fibre descriptor, over its children; no frame-use table is kept), answering the operation's number; a descriptor outside the table
takes the shape trap, an address that is no multiple of 64 the misalignment trap.  GSTOP ends the numbered stream. -/
def Claims.Streams : Prop :=
  ∀ (s : State) (c : Ctx) (t : Strand), InProgram s c t → ∀ (d a : GReg),
    let va := t.rd a
    let i := Instr.gstr d a
    let starts := fun (s' : State) (w : OpWork) =>
      exec i s = .next (s'.setStrand c.val (t.past ((t.issue 0 w).putG d ((t.cpl[0].1 + 1).zeroExtend 64))))
    (va.toNat % 64 ≠ 0 → exec i s = .next (takeStrandTrap c i { cause := 0x04, tval := va } s)) ∧
    (va.toNat % 64 = 0 → bitOf s.hub.fubase 0 = false → ∀ x s1, (loadBytes va 64).run s = .ok x s1 →
      (le x 16 1 = 0 → affineOk (s1.groupsOf c) x = true → t.outstanding 0 < Config.maxOutstanding →
        let e := 2 ^ le x 17 1
        let dims := (descDims x).take (le x 18 1 + 1)
        let total := dims.foldl (fun (n : Nat) (y : Nat × Int) => n * y.1) 1
        let dest := le64 x 8
        destOk dest (total * e) = true → (bitOf dest 63 = true → t.activeStream (destQueue dest) = false) →
        ∀ ps s2, (enumOp .load ((List.range total).map fun k => (affineVa (le64 x 0) dims k, e)) []).run s1 = .ok ps s2 →
          starts s2 (.affine (le64 x 0) dest e dims total (le x 20 4) 0 ps)) ∧
      (le x 16 1 = 1 → fibreOk x = true → t.outstanding 0 < Config.maxOutstanding →
        ∀ w s2, (gstrFibre va x).run s1 = .ok w s2 → starts s2 w) ∧
      ((le x 16 1 = 0 → affineOk (s1.groupsOf c) x = false) → (le x 16 1 = 1 → fibreOk x = false) →
        exec i s = .next (takeStrandTrap c i { cause := 0x0B, tval := va } s1))) ∧
    exec (.gstop a) s = .next (s.setStrand c.val (t.past
      (if (t.opAt 0 (BitVec.ofNat 32 va.toNat)).any (fun o => !o.complete) then t.complete 0 (BitVec.ofNat 32 va.toNat) none else t)))

/-- 13 R342, 07 R164: a stream into q4 or q5 that has room places its next elements as one entry, and completes with its last; where the
queue is full it waits. -/
def Claims.StreamDelivery : Prop :=
  ∀ (s : State) (c : Ctx) (t : Strand) (n : BitVec 32) (op : PathOp) (base dest : Word) (e : Nat) (dims : List (Nat × Int))
      (total qlen pos : Nat) (ps : List PageTr),
    s.strand? c.val = some t → t.opAt 0 n = some op → op.complete = false → t.blockedOp c op = false →
    op.work = .affine base dest e dims total qlen pos ps → bitOf dest 63 = true →
    let q := destQueue dest
    let k := Nat.min qlen (total - pos)
    (4 ≤ t.qv[q].length → exec (.geyserEntryDeliver c n) s = .next s) ∧
    (t.qv[q].length < 4 → bitOf s.hub.fubase 0 = false → ∀ x s1, (streamRead c base e dims ps pos k).run s = .ok (.ok x) s1 →
      let u : Strand := { t with qv := t.qv.set q.val (t.qv[q] ++ [{ count := k, width := 8 * e, bits := x, awaits := none }]) }
      let v := u.modOp 0 n fun (o : PathOp) => ({ o with work := .affine base dest e dims total qlen (pos + k) ps } : PathOp)
      exec (.geyserEntryDeliver c n) s = .next (s1.setStrand c.val (if total ≤ pos + k then v.complete 0 n none else v)))

/-- GSTR issues a stream over its elements, which delivers while its queue has room; GSTOP ends it. -/
def Obligations.Streams : Prop :=
  Claims.Streams ∧ Claims.StreamDelivery

/-- 13 R347, 05 R109, R130, R131: a COPY whose tile-store operands are well formed and whose pages are there issues an operation of
the CPY path; one of length 0 is complete at once. -/
def Claims.CopyIssue : Prop :=
  ∀ (s : State) (c : Ctx) (t : Strand), InProgram s c t → ∀ (d a b : GReg),
    let dst := t.rd d
    let src := t.rd a
    let n := (t.rd b).toNat
    let copies := fun (i : Instr) (form : Fin 4) =>
      (2 ≤ form.val → tileOk src n = true) → (form.val % 2 = 1 → tileOk dst n = true) → t.outstanding 2 < Config.maxOutstanding →
      (n = 0 →
        let u := t.issue 2 (.copy form dst src 0 [])
        exec i s = .next (s.setStrand c.val (t.past (u.complete 2 u.cpl[2].1 none)))) ∧
      (0 < n → ∀ ps s1, (copyPages form dst src n).run s = .ok ps s1 →
        exec i s = .next (s1.setStrand c.val (t.past (t.issue 2 (.copy form dst src n ps)))))
    copies (.copy d a b) 0 ∧ copies (.copyMt d a b) 1 ∧ copies (.copyTm d a b) 2 ∧ copies (.copyTt d a b) 3

/-- 13 R347, 05 R109, R111: a COPY.TT that its engine performs leaves in its destination tile store the bytes that its source held, and no
other byte changes, however the two overlap. -/
def Claims.CopyResult : Prop :=
  ∀ (s : State) (c : Ctx) (t : Strand) (n : BitVec 32) (op : PathOp) (dst src : Word) (len : Nat) (ps : List PageTr),
    s.strand? c.val = some t → t.opAt 2 n = some op → op.work = .copy 3 dst src len ps → op.complete = false →
    t.blockedOp c op = false → 0 < len →
    let to' := tileCore c dst
    let off := fieldOf dst 18 0
    (s.core to').lost = [] → (s.core (tileCore c src)).lost = [] →
    ∃ u, exec (.pathOperationComplete c 2 n) s = .next u ∧ u.mem = s.mem ∧ u.strand? c.val = some (t.complete 2 n none) ∧
      (∀ a, (u.core to').tile.get a = if off ≤ a ∧ a < off + len then
        (s.core (tileCore c src)).tile.get (fieldOf src 18 0 + (a - off)) else (s.core to').tile.get a) ∧
      ∀ k, k ≠ to' → (u.core k).tile = (s.core k).tile

/-- COPY issues one operation, which moves the bytes its source held and no other. The order of the checks of a COPY follows log 53. -/
def Obligations.Copies : Prop :=
  Claims.CopyIssue ∧ Claims.CopyResult

/-- 13 R346, 03 R68: GATH with well-formed operands issues an operation of the FUM path over its selected elements and sends its
requests to the entry stack; for q4 or q5 its entry takes its place. -/
def Claims.GatherIssue : Prop :=
  ∀ (s : State) (c : Ctx) (t : Strand), InProgram s c t →
    ∀ (d a : GReg) (b : VReg) (mk : MReg) (me : Bool) (x : Fin 2) (l : Fin 16),
    let i := Instr.gath d a b mk me x l
    let v := t.view (s.groupsOf c)
    let iw : Nat := if x.val = 1 then 64 else 32
    let e : Nat := 2 ^ l.val
    let base := t.rd a
    let dest := t.rd d
    let q := destQueue dest
    let vas := (List.range v.vl).map fun k => if k < v.n ∧ t.selects (modsOf mk me) k = true then
      some (base + BitVec.ofInt 64 (toSigned iw (elemAt iw (t.image v.regBits (v.spanOf b iw)) k) * e)) else none
    i.wf = true → (v.spanOf b iw).ok = true → base.toNat % e = 0 → destOk dest (v.vl * e) = true → v.vl ≠ 0 →
    t.outstanding 1 < Config.maxOutstanding →
    ∀ es s1, (gatherElems s.moduleNum.val e base vas []).run s = .ok es s1 →
    let u := t.issue 1 (.gather dest e es)
    let ends := fun (u : Strand) => ∃ s', exec i s = .next s' ∧ s'.mem = s.mem ∧ s'.strands = (s.setStrand c.val (t.past u)).strands
    (bitOf dest 63 = false → ends u) ∧
    (bitOf dest 63 = true → l.val ≤ 3 → t.activeStream q = false → t.qv[q].length < 4 →
      ends { u with qv := u.qv.set q.val (u.qv[q] ++
        [{ count := v.vl, width := 8 * e, bits := 0, awaits := some (.op (t.cpl[1].1 + 1)) }]) })

/-- 03 R70, R71: a gather request that reaches a stack which is not its home goes on round the ring, and one that has ended leaves it;
returned data that reach their entry stack arrive in their operation, and else go on the other way. -/
def Claims.RingEvents : Prop :=
  ∀ (s : State) (k : Die) (i : RingItem) (r : List RingItem) (t : Strand) (op : PathOp) (dest : Word) (e : Nat) (es : List GatherElem),
    s.strand? i.ctx.val = some t → t.opAt 1 i.op = some op → op.work = .gather dest e es →
    let st := s.stack k.val
    let next := fun (up : Bool) => if up then (k.val + 1) % 16 else (k.val + 15) % 16
    (st.ringFwd = i :: r → op.complete = false → i.home ≠ k →
      let s' := s.setStack k.val { st with ringFwd := r }
      let n := next i.ascending
      exec (.fumaroleForwardReceive k) s =
        .next (s'.setStack n { s'.stack n with ringFwd := (s'.stack n).ringFwd ++ [i] })) ∧
    (st.ringFwd = i :: r → op.complete = true →
      exec (.fumaroleForwardReceive k) s = .next (s.setStack k.val { st with ringFwd := r })) ∧
    (st.ringRet = i :: r → i.entry ≠ k →
      let s' := s.setStack k.val { st with ringRet := r }
      let n := next (!i.ascending)
      exec (.fumaroleReturnReceive k) s =
        .next (s'.setStack n { s'.stack n with ringRet := (s'.stack n).ringRet ++ [i] })) ∧
    (st.ringRet = i :: r → i.entry = k → op.complete = false →
      let es' := es.zipIdx.map fun (x : GatherElem × Nat) =>
        (i.elems.find? fun y => y.1 == x.2).elim x.1 fun y => ({ x.1 with val := some y.2.2 } : GatherElem)
      (∃ x ∈ es', x.val = none) →
      exec (.fumaroleReturnReceive k) s = .next ((s.setStack k.val { st with ringRet := r }).setStrand i.ctx.val
        (t.modOp 1 i.op fun o => { o with work := .gather dest e es' })))

/-- GATH issues one operation, and its requests and data pass round the base-die ring. The way round on a tie follows log 54. -/
def Obligations.Gathers : Prop :=
  Claims.GatherIssue ∧ Claims.RingEvents

/-- 13 R352, R353, 05 R131-R133: CPLW goes on where the wait is over, sleeps where it is not; ONCPL arms an upcall, pending at once where
the operation is complete; both take the shape trap for an operation not issued.  UPRET leaves a handler, and is illegal outside
one.  A pending upcall is entered at its handler with the path and number in g28 and g29. -/
def Obligations.Completion : Prop :=
  (∀ (s : State) (c : Ctx) (t : Strand), InProgram s c t → ∀ (p : Fin 6) (a b : GReg),
    let q : Fin 8 := Fin.ofNat 8 p.val
    let n := BitVec.ofNat 32 (t.rd a).toNat
    let h := t.rd b
    let shape := fun (i : Instr) => exec i s = .next (takeStrandTrap c i { cause := 0x0B, tval := n.zeroExtend 64 } s)
    let issued := (t.cpl[p].1 - n).toNat < 2 ^ 31
    let passed := (t.cpl[p].2 - n).toNat < 2 ^ 31
    (issued → passed → t.ede = [] → exec (.cplw q a) s = .next (s.setStrand c.val (t.past t))) ∧
    (issued → ¬passed → exec (.cplw q a) s = .next (s.setStrand c.val { t with cond := .asleep (.cplw p n) })) ∧
    (¬issued → shape (.cplw q a) ∧ (fieldOf h 1 0 = 0 → shape (.oncpl q a b))) ∧
    (issued → fieldOf h 1 0 = 0 → t.armed.length + t.pending.length < 8 →
      exec (.oncpl q a b) s = .next (s.setStrand c.val (t.past
        (if (t.opAt p n).any (fun o => !o.complete) then { t with armed := t.armed ++ [(h, p, n)] }
        else { t with pending := t.pending ++ [(h, p, n)] })))) ∧
    exec .upret s = .next (takeStrandTrap c .upret { cause := 0x01, tval := wordOf .upret } s)) ∧
  (∀ (s : State) (c : Ctx) (t : Strand), Ready s c t → t.hart.upc = true →
    let u := t.exchange
    if fieldOf t.upra 1 0 = 0 then exec .upret s = .next (s.setStrand c.val
      { u with hart := { u.hart with pc := t.upra, status := setBit t.hart.status 21 false } })
    else exec .upret s = .next (takeStrandTrap c .upret { cause := 0x04, tval := t.upra } s)) ∧
  ∀ (s : State) (c : Ctx) (t : Strand) (h : Word) (p : Fin 6) (n : BitVec 32) (r : List (Word × Fin 6 × BitVec 32)),
    s.strand? c.val = some t → t.pending = (h, p, n) :: r → t.hart.upc = false → t.cond ≠ .stopped → t.ede = [] →
    ∃ s' u, exec (.upcallEntry c) s = .next s' ∧ s'.strand? c.val = some u ∧ s'.mem = s.mem ∧ u.hart.pc = h ∧ u.upra = t.hart.pc ∧
      u.hart.upc = true ∧ u.cond = .runnable ∧ u.pending = r ∧ u.hart.rd 28 = BitVec.ofNat 64 p.val ∧
      u.hart.rd 29 = n.zeroExtend 64 ∧ (∀ k : Fin 4, u.shadow[k] = t.hart.g[28 + k.val]) ∧
      ∀ k : Fin 28, u.hart.g[k.val] = t.hart.g[k.val]

/-- 13 R355, 03 R58, R61, 13 R356: RESID of any range completes and changes no memory and no strand beside the pc; a range within one page
of this module whose bytes lie in one line of DRAM fills that line into its stack's cache as a fill through its leaf, unless it is there.
DEMOTE of a chain up to 255 completes, handing the chain to all sixteen stacks (chain 0: to none), and takes the protection trap for
a greater number. -/
def Claims.ResidAndDemote : Prop :=
  ∀ (s : State) (c : Ctx) (t : Strand), InProgram s c t → ∀ (a b : GReg),
    let va := (t.rd a).toNat
    let n := (t.rd b).toNat
    (∃ u, exec (.resid a b) s = .next u ∧ u.mem = s.mem ∧ u.strands = (s.setStrand c.val (t.past t)).strands) ∧
    (∀ p k line, 0 < n → n ≤ 256 → (translate .load (t.rd a)).run s = .ok p s → leafDead p.leaf = false →
      leafMod p.leaf = s.moduleNum.val → va + n ≤ p.vbase + p.size → p.linesOf va n = [(k, line)] →
      ∃ u, exec (.resid a b) s = .next u ∧
        u.stack k = if ((s.stack k).setLines (mscSet line)).any (fun l => l.line == line) then s.stack k
          else ((s.stack k).fill line (BitVec.ofNat 8 (leafChain p.leaf)) (currentUO s p) none).1) ∧
    (255 < va → exec (.demote a) s = .next (takeStrandTrap c (.demote a) { cause := 0x06, tval := t.rd a } s)) ∧
    (va ≤ 255 → ∃ u, exec (.demote a) s = .next u ∧ u.mem = s.mem ∧ u.strands = (s.setStrand c.val (t.past t)).strands ∧
      ∀ k, k < 16 → u.stack k = { s.stack k with demotes := (s.stack k).demotes ++ (if va = 0 then [] else [BitVec.ofNat 8 va]) })

/-- 13 R357, 02 R42, R46: DISCARD of no bytes completes and does nothing.  DISCARD of one whole page that is alive, writable and unused
completes: no line of the page is left in a memory-side cache, and where none was dirty memory changes only in the page's entry, which
gets DEAD and loses W and X. -/
def Claims.DiscardPage : Prop :=
  ∀ (s : State) (c : Ctx) (t : Strand), InProgram s c t → ∀ (a b : GReg),
    let va := (t.rd a).toNat
    let n := (t.rd b).toNat
    (n = 0 → exec (.discard a b) s = .next (s.setStrand c.val (t.past t))) ∧
    (∀ l pte, 0 < n → n ≤ 0x40000000 → va + n ≤ 2 ^ 56 → va % n = 0 → s.walkPage t.hart.ptbase va = .leaf l n pte → leafDead l = false →
      s.leafSize t.hart.ptbase va = some n → s.leafSize t.hart.ptbase (va + n - 1) = some n →
      let p : PageTr := { job := jobOf t.hart.ptbase, vbase := va, size := n, leaf := l, pte := pte }
      discardTrap s p = none → (∀ e ∈ s.strands, e.2.ops = [] ∧ e.2.awaitsBank = [] ∧ e.2.stores = []) →
      let onPage := fun (k : Nat) (x : MscLine) => p.holdsCell (s.lineCell k x.line) = true
      ∃ u t', exec (.discard a b) s = .next u ∧ u.strand? c.val = some t' ∧ t'.unlinked = (t.past t).unlinked ∧
        (∀ k, k < 16 → ∀ e ∈ (u.stack k).msc, ∀ x ∈ e.2, ¬onPage k x) ∧
        ((∀ k, k < 16 → ∀ e ∈ (s.stack k).msc, ∀ x ∈ e.2, onPage k x → x.dirty = false) →
          u.mem = s.mem.write pte 8 (setBit (setBit (setBit l 9 true) 3 false) 2 false).toNat))

/-- 13 R358, 02 R44, R45: PGHINT always completes, and changes no register and no reservation but those on the lines it writes; while no
frame-use table is kept it does nothing else.  Where the table is kept and the range lies in one page of one 64 KiB frame of this module's
DRAM that is alive, the class of the frame becomes the greater of the hint and what it was. -/
def Claims.PageHint : Prop :=
  ∀ (s : State) (c : Ctx) (t : Strand), InProgram s c t → ∀ (k : Fin 4) (a b : GReg), k.val ≠ 0 →
    let i := Instr.pghint k a b
    let va := (t.rd a).toNat
    let n := (t.rd b).toNat
    (bitOf s.hub.fubase 0 = false → exec i s = .next (s.setStrand c.val (t.past t))) ∧
    (∃ u t', exec i s = .next u ∧ u.strand? c.val = some t' ∧ t'.unlinked = (t.past t).unlinked) ∧
    (∀ p f, bitOf s.hub.fubase 0 = true → 0 < n → (translate .load (t.rd a)).run s = .ok p s → leafDead p.leaf = false →
      leafMod p.leaf = s.moduleNum.val → va + n ≤ p.vbase + p.size → 0 < leafStored p.leaf p.size →
      leafStored p.leaf p.size ≤ 0x10000 → frameIndex (leafBase p.leaf) = some f →
      p.pte / 8 ≠ frameCell s.moduleNum.val s.hub.fubase f / 8 → p.pte % 8 = 0 →
      ∃ u, exec i s = .next u ∧ u.frameClass f = Nat.max (s.frameClass f) k.val)

/-- RESID, DEMOTE, DISCARD and PGHINT. What RESID counts and which bit PGHINT moves follow log 66. -/
def Obligations.CacheHints : Prop :=
  Claims.ResidAndDemote ∧ Claims.DiscardPage ∧ Claims.PageHint

/-- 13 R348-R351: RSTV, RSTV.MC and RSTV.ADD whose pages are there issue one REM operation with the data of their selected elements, for
each copy in turn, and give their status entry its place in q6 or q7. -/
def Claims.RemoteStoreIssue : Prop :=
  ∀ (s : State) (c : Ctx) (t : Strand), InProgram s c t →
    ∀ (r : VReg) (a b : GReg) (mk : MReg) (me : Bool) (q : Fin 2) (l : Fin 4),
    let v := t.view (s.groupsOf c)
    let m := modsOf mk me
    let sel := t.selected v m
    let stores := fun (i : Instr) (add : Bool) (link : Fin 4) (spacing : Word) (copies : Nat) =>
      i.wf = true → v.formOk .other = true → (v.span r).ok = true → (link.val = 0 ∨ v.et = 0 ∨ v.et = 2 ∨ v.et = 3) →
      (add = true → classI v.et = true ∧ v.mfmt = 0) →
      t.mayRound v (v.mfmt != 0 || link.val != 0) →
      t.qr[q].length < 16 → t.outstanding 3 < Config.maxOutstanding → 1 ≤ copies → copies ≤ 64 →
      let us := remoteUnits v (t.rd a) spacing copies sel
      let rs := remoteElems v add link (t.selects m) sel (elemAt v.w (t.image v.regBits (v.span r)))
      t.trapsAt false rs = none →
      ∀ ps s1, (remoteEnum add (us.map (·.2))).run s = .ok ps s1 →
      let ws := (us.zip ps).map fun x =>
        { copy := x.1.1, parts := x.2.2, va := x.1.2.va.toNat, len := x.1.2.len, link := link
          data := (((t.codes false rs).find? fun y => y.1 == x.1.2.lo).map (·.2)).getD 0 : RemoteWrite }
      let u := (t.settled v false rs).issue 3 (.remoteStore add ws q false)
      exec i s = .next (s1.setStrand c.val (t.past { u with qr := u.qr.set q.val (u.qr[q] ++ [.awaits 3 (t.cpl[3].1 + 1)]) }))
    stores (.rstv r a mk me q l) false l 0 1 ∧
    stores (.rstvMc r a b mk me q l) false l (t.rd b) (t.rd (Fin.ofNat 32 (b.val + 1))).toNat ∧
    stores (.rstvAdd r a mk me q) true 0 0 1

/-- 13 R350, R339: an RSTV that its destinations take reserves the receive buffer of this module, answers 0 and is accepted; one that
does not fit answers 1 with its lowest copy of this module, and is complete with nothing stored. -/
def Claims.RemoteStoreOutcome : Prop :=
  ∀ (s : State) (c : Ctx) (t : Strand) (n : BitVec 32) (op : PathOp) (add : Bool) (ws : List RemoteWrite) (q : Fin 2),
    s.strand? c.val = some t → t.opAt 3 n = some op → op.complete = false → op.work = .remoteStore add ws q false →
    (∀ m ∈ op.work.modules, s.cutOff m = none) →
    let need := localBytes s.moduleNum.val ws
    let filled := fun (x : Word) => { t with qr := t.qr.set q.val (t.qr[q].map fun (e : REntry) => if e = REntry.awaits 3 n then REntry.value x else e) }
    (s.hub.recvUsed + need ≤ Config.recvBytes →
      exec (.rstvOutcome c n none) s = .next { s.setStrand c.val
        ((filled 0).modOp 3 n fun o => { o with work := .remoteStore add ws q true }) with
        hub := { s.hub with recvUsed := s.hub.recvUsed + need } }) ∧
    (∀ w, Config.recvBytes < s.hub.recvUsed + need → ws.find? (fun w => w.goesTo s.moduleNum.val) = some w →
      exec (.rstvOutcome c n none) s = .next (s.setStrand c.val
        ((filled (BitVec.ofNat 64 (1 + w.copy * 256))).complete 3 n none)))

/-- RSTV forms issue one operation with their data, and their outcome answers its status. Acceptance and acknowledgement follow log 55. -/
def Obligations.RemoteStores : Prop :=
  Claims.RemoteStoreIssue ∧ Claims.RemoteStoreOutcome

/-- 14 R360, R361: CAP claims the next position of a record, CAP.P the position it is given; a full record answers all ones and counts
the refusal.  The answer returns to gd from the bank.  CAP is illegal in a Reproducible launch. -/
def Claims.CapacityRecords : Prop :=
  ∀ (s : State) (c : Ctx) (t : Strand), InProgram s c t → ∀ (d a b : GReg) (p : PageTr),
    let va := t.rd a
    let cell := p.cell va.toNat
    let limit := s.mem.read cell 4
    let used := s.mem.read (cell + 4) 4
    let nref := s.mem.read (cell + 8) 4
    let x := (t.rd b).toNat % 2 ^ 32
    let ends := fun (i : Instr) (v : Word) (used nref : Nat) =>
      leaves s c i ((s.mem.write (cell + 4) 4 used).write (cell + 8) 4 nref) (t.past { t with returns := t.returns ++ [(d, v)] })
    va.toNat % 16 = 0 → BankAt s .rw va p → s.lostAt cell 16 = [] → t.ops = [] →
    (t.hart.repro = false → used < limit → ends (.cap d a b) (BitVec.ofNat 64 used) (used + 1) nref) ∧
    (t.hart.repro = false → limit ≤ used → ends (.cap d a b) 0xFFFFFFFFFFFFFFFF used ((nref + 1) % 2 ^ 32)) ∧
    (x < limit → ends (.capP d a b) (BitVec.ofNat 64 x) (Nat.max used (x + 1)) nref) ∧
    (limit ≤ x → ends (.capP d a b) 0xFFFFFFFFFFFFFFFF used ((nref + 1) % 2 ^ 32)) ∧
    (t.hart.repro = true →
      exec (.cap d a b) s = .next (takeStrandTrap c (.cap d a b) { cause := 0x01, tval := wordOf (.cap d a b) } s))

/-- 14 R366, R370, R371: CSLOT, CSLOT.FREE, CTAKE and CSTAT act on the Caldera at their address, and their answers return to gd: the
lowest free slot with its generation, 0 or 1, a released slot with what it misses, a counter.  Where none is configured they take the
shape trap; an address that is no multiple of 512 is misaligned. -/
def Claims.CalderaRequests : Prop :=
  ∀ (s : State) (c : Ctx) (t : Strand), InProgram s c t → ∀ (d a b : GReg) (n : Fin 32) (p : PageTr),
    let va := t.rd a
    let cell := p.cell va.toNat
    let asks := fun (i : Instr) (act : Caldera → M Word) (answer : Caldera → Word → Prop) =>
      i.wf = true →
      (va.toNat % 512 ≠ 0 → exec i s = .next (takeStrandTrap c i { cause := 0x04, tval := va } s)) ∧
      (va.toNat % 512 = 0 → BankAt s .rw va p → t.ops = [] →
        (s.calderaAt cell = none → exec i s = .next (takeStrandTrap c i { cause := 0x0B, tval := va } s)) ∧
        ∀ k, s.calderaAt cell = some k → (∀ x ∈ k.cells 0 256, s.lostAt x.2.1 x.2.2 = []) →
          ∀ v s1, (act k).run (s.bumpMix (s.ccOpen cell)) = .ok v s1 → answer k v ∧
            ∃ t1, s1.strand? c.val = some t1 ∧ t1.unlinked = t.unlinked ∧
              exec i s = .next (s1.setStrand c.val (t.past { t1 with returns := t.returns ++ [(d, v)] })))
    let free := fun (k : Caldera) (i : Nat) => i < k.slots ∧ k.stateOf s i = 0
    (fieldOf (t.rd b) 31 0 ≠ 0xFFFFFFFF →
      asks (.cslot d a b) (fun k => cslotAtBank k (fieldOf (t.rd b) 31 0)) (fun k v =>
        ((∀ i, ¬free k i) → v = 0xFFFFFFFFFFFFFFFF) ∧
        ∀ i, free k i → (∀ j, j < i → ¬free k j) → v = BitVec.ofNat 64 (i + k.genOf s i * 65536))) ∧
    asks (.cslotFree d a b) (fun k => freeAtBank k (t.rd b)) (fun k v =>
      let i := fieldOf (t.rd b) 15 0
      v = if i < k.slots ∧ k.stateOf s i = 3 ∧ k.genOf s i = fieldOf (t.rd b) 31 16 then 0 else 1) ∧
    asks (.ctake d a) ctakeAtBank (fun k v =>
      ((∀ i, i < k.slots → k.stateOf s i ≠ 2) → v = 0xFFFFFFFFFFFFFFFF) ∧
      ∀ i, k.pick s = some i → ∃ y, y < 1024 ∧ v = BitVec.ofNat 64 (i + y * 2 ^ 16 + k.tokenOf s i * 2 ^ 32)) ∧
    asks (.cstat d a n) (fun k => cstatAtBank k n.val) (fun k v =>
      (n.val = 0 → v = BitVec.ofNat 64 ((List.range k.slots).filter fun i => k.stateOf s i == 0).length) ∧
      (2 ≤ n.val → v = BitVec.ofNat 64 (k.read s (8 + 8 * n.val) 8)))

/-- Capacity records and the requests to a Caldera. The alignment of a Caldera's address follows log 57. -/
def Obligations.CapacityAndRequests : Prop :=
  Claims.CapacityRecords ∧ Claims.CalderaRequests

/-- 14 R363-R365: CCFG of a region that lies in the bank memory of one die of its module completes: with no slots it removes the Caldera at
its address and answers 0, and with slots it adds one, owned by the issuer's rank, and answers the bytes of its region; a seventeenth on
the die takes the shape trap.  So does a malformed word; a misaligned address takes the misalignment trap. -/
def Claims.CalderaConfigure : Prop :=
  ∀ (s : State) (c : Ctx) (t : Strand), InProgram s c t → ∀ (d a b : GReg),
    let i := Instr.ccfg d a b
    let va := t.rd a
    let w := t.rd b
    let slots := fieldOf w 31 16
    let good := fieldOf w 43 35 = 0 ∧ fieldOf w 47 46 ≠ 3 ∧ fieldOf w 15 0 ≠ 0
    (va.toNat % 512 ≠ 0 → exec i s = .next (takeStrandTrap c i { cause := 0x04, tval := va } s)) ∧
    (va.toNat % 512 = 0 → slots ≠ 0 → ¬good → exec i s = .next (takeStrandTrap c i { cause := 0x0B, tval := w } s)) ∧
    (va.toNat % 512 = 0 → t.ops = [] → ∀ (ps : List PageTr) (p : PageTr),
      ps.find? (fun p => decide (p.vbase ≤ va.toNat) && decide (va.toNat < p.vbase + p.size)) = some p →
      let cell := p.cell va.toNat
      let die := dieOfCell cell
      ∀ s1, (regionPages va (if slots = 0 then 256 else regionBytes w)).run s = .ok ps s1 →
      let others := (s1.die die).calderas.filter fun k => k.base != cell
      (slots = 0 →
        exec i s = .next ((s1.setDie die { s1.die die with calderas := others }).setStrand c.val (t.past (t.putG d 0)))) ∧
      (slots ≠ 0 → good →
        (others.length < 16 → ∃ u t', exec i s = .next u ∧ u.strand? c.val = some t' ∧
          t'.unlinked = (t.past (t.putG d (BitVec.ofNat 64 (regionBytes w)))).unlinked ∧
          (u.die die).calderas = others ++
            [{ base := cell, va := va.toNat, pages := ps, word := w, owner := (t.launchMod, t.launchNum, t.rank)
               job := BitVec.ofNat 16 (jobOf t.hart.ptbase), timedOut := [] }]) ∧
        (16 ≤ others.length → exec i s = .next (takeStrandTrap c i { cause := 0x0B, tval := 16 } s1))))

/-- 14 R367: CDEP of a BF16 or FP32 row to a bank of its own module completes: it issues an operation of the BNK path, puts the row rounded
to BF16 into the intake of its die, and gives its status entry its place.  The Caldera then takes the oldest deposit, and the entry gets its
code: 4 without a Caldera at the address, 2 for a slot that is not open under its generation, 3 for a position or columns beyond the row,
else 0, and the operation is complete. -/
def Claims.CalderaDeposit : Prop :=
  (∀ (s : State) (c : Ctx) (t : Strand), InProgram s c t → ∀ (r : VReg) (a : GReg) (b : Fin 16) (q : Fin 2) (p : PageTr),
    let i := Instr.cdep r a b q
    let v := t.view (s.groupsOf c)
    let va := t.rd a
    let cell := p.cell va.toNat
    let die := dieOfCell cell
    let ticket := t.rd (Fin.ofNat 32 (2 * b.val))
    let gate := t.rd (Fin.ofNat 32 (2 * b.val + 1))
    let row := (List.range v.n).map fun k =>
      BitVec.ofNat 16 (bf16.round .rne (v.ty.num (elemAt v.w (t.image v.regBits (v.span r)) k))).bits
    i.wf = true → (v.et = 0 ∨ v.et = 3) → (v.span r).ok = true → t.qr[q].length < 16 → t.outstanding 5 < Config.maxOutstanding →
    BankAt s .rw va p → (s.die die).intake.length < 256 → s.hub.recvUsed ≤ Config.recvBytes →
    let u := t.issue 5 (.deposit cell ticket gate row q)
    ∃ s', exec i s = .next s' ∧ s'.mem = s.mem ∧
      s'.strands = (s.setStrand c.val (t.past ({ u with qr := u.qr.set q.val (u.qr[q] ++ [.awaits 5 (t.cpl[5].1 + 1)]) }))).strands ∧
      (s'.die die).intake = (s.die die).intake ++
        [{ ctx := some c, op := t.cpl[5].1 + 1, src := s.moduleNum, addr := cell, ticket := ticket, gate := gate, row := row }]) ∧
  ∀ (s : State) (die : Die) (x : Deposit) (r : List Deposit) (c : Ctx) (t : Strand) (op : PathOp) (y : Nat) (tk g : Word)
      (row : List (BitVec 16)) (q : Fin 2),
    (s.die die.val).intake = x :: r → x.ctx = some c → s.strand? c.val = some t → t.opAt 5 x.op = some op →
    op.work = .deposit y tk g row q → ∀ code s1,
      (depositRun x false).run { s.setDie die.val { s.die die.val with intake := r } with turn := .strand c } = .ok code s1 →
      ∃ u t', exec (.calderaDeposit die) s = .next u ∧ u.mem = s1.mem ∧ u.strand? c.val = some t' ∧
        code = (match s.calderaAt x.addr with
          | none => 4
          | some k =>
            let slot := fieldOf x.ticket 15 0
            let n := fieldOf x.ticket 34 32
            if k.slots ≤ slot ∨ k.genOf s slot ≠ fieldOf x.ticket 31 16 ∨ k.stateOf s slot ≠ 1 then 2
            else if k.positions ≤ n ∨ fieldOf x.ticket 39 35 ≠ 0 ∨ k.rowb < fieldOf x.gate 63 32 + x.row.length ∨
              k.rowb < k.read s (k.slotOff slot + 40 + 2 * n) 2 + x.row.length then 3
            else 0) ∧
        t'.unlinked = ({ t with qr := t.qr.set q.val (t.qr[q].map fun (e : REntry) =>
          if e = REntry.awaits 5 x.op then REntry.value (BitVec.ofNat 64 code) else e) }.complete 5 x.op none).unlinked

/-- 14 R368, 16 R396: an open slot whose time has come is released as timed out, and not before, and one whose bitmap a
write has filled is released as complete; the strand that configured the Caldera takes
the Caldera time-out trap with the token in TVAL, once its queue is empty. -/
def Claims.CalderaTimeouts : Prop :=
  (∀ (s : State) (die : Die) (base : Nat) (slot : Fin 65536) (k : Caldera), s.calderaAt base = some k →
    let isOpen := dieOfCell base = die.val ∧ slot.val < k.slots ∧ k.stateOf s slot.val = 1
    let full := k.bitmapOf s slot.val % 2 ^ k.positions = 2 ^ k.positions - 1
    let due := k.tmo ≠ 0 ∧ k.read s (k.slotOff slot.val + 96) 8 + 1000 * k.tmo ≤ s.time.toNat
    let releases := fun (timed : Bool) =>
      ∃ u, (releaseSlot k slot.val timed).run s = .ok () u ∧ exec (.calderaTimeoutRelease die base slot) s = .next u
    (¬isOpen ∨ (¬full ∧ ¬due) → exec (.calderaTimeoutRelease die base slot) s = .next s) ∧
    (isOpen → full → releases false) ∧ (isOpen → ¬full → due → releases true)) ∧
  ∀ (s : State) (c : Ctx) (t : Strand) (x : BitVec 32) (r : List (BitVec 32)), s.strand? c.val = some t → t.timeouts = x :: r →
    t.cond = .runnable → t.iq = [] → exec (.calderaTimeoutTrap c) s =
      .next (takeStrandTrap c .yield { cause := 0x10, tval := x.zeroExtend 64 } (s.setStrand c.val { t with timeouts := r }))

/-- Configuring a Caldera, deposits and their codes, time-outs and their trap. -/
def Obligations.CalderaUnits : Prop :=
  Claims.CalderaConfigure ∧ Claims.CalderaDeposit ∧ Claims.CalderaTimeouts

/-- 09 R233-R235, 15 R382: SETPRI sets the priority of a resident launch of the module and answers 0, or 1 where there is none; IDLE sleeps at
the next word unless an upcall is pending; XLINV of an unused page leaves no translation of it in the scope.  Reserved bits take the
protection trap. -/
def Claims.SystemControl : Prop :=
  ∀ (s : State) (c : Ctx) (t : Strand), InProgram s c t → t.hart.sysh = true → ∀ (d a b : GReg) (scope : Fin 8),
    let n := BitVec.ofNat 32 (t.rd a).toNat
    let p := t.rd b
    let i := Instr.setpri d a b
    let x := Instr.xlinv a b scope
    (fieldOf p 63 3 ≠ 0 → exec i s = .next (takeStrandTrap c i { cause := 0x06, tval := p } s)) ∧
    (fieldOf p 63 3 = 0 → s.launch? s.moduleNum n = none → exec i s = wroteG s c t d 1) ∧
    (fieldOf p 63 3 = 0 → s.launch? s.moduleNum n ≠ none →
      ∃ u, exec i s = .next u ∧ u.mem = s.mem ∧ u.strands = (s.setStrand c.val (t.past (t.putG d 0))).strands ∧
        u.hub.launches = s.hub.launches.map fun l =>
          if l.issuer == s.moduleNum && l.number == n then { l with prio := Fin.ofNat 8 p.toNat } else l) ∧
    exec .idle s = .next (s.setStrand c.val (if t.pending = [] then { t.past t with cond := .asleep .idle } else t.past t)) ∧
    (x.wf = true → fieldOf p 63 16 ≠ 0 → exec x s = .next (takeStrandTrap c x { cause := 0x06, tval := p } s)) ∧
    (x.wf = true → fieldOf p 63 16 = 0 → (∀ e ∈ s.strands, e.2.ops = [] ∧ e.2.awaitsBank = [] ∧ e.2.stores = []) →
      ∃ u, exec x s = .next u ∧ u.mem = s.mem ∧ u.strands = (s.setStrand c.val (t.past t)).strands ∧
        ∀ k, (coresIn (.strand c) scope.val).all (fun f => f k) = true → ∀ e ∈ (u.core k).tlb, e.maps p.toNat (t.rd a).toNat = false)

/-- 09 R230, 18 R424: TRET on a control complex core in a handler restores privilege, IE and LACT and continues at TPC (misaligned:
it takes the misalignment trap, log 78); where no trap is handled, and on a device strand, it is illegal. -/
def Claims.TrapReturn : Prop :=
  (∀ (s : State) (n : Fin 32), s.turn = .cc n →
    let k := s.cc n.val
    bitOf k.ccstat 0 = true →
    (k.handling ≠ 0 → fieldOf k.hart.tpc 1 0 ≠ 0 → exec .tret s = .next (takeCcTrap n.val { cause := 0x04, tval := k.hart.tpc } s)) ∧
    (k.handling ≠ 0 → fieldOf k.hart.tpc 1 0 = 0 → exec .tret s = .next (s.setCc n.val
      { k with
        ccstat := setBit (setBit k.ccstat 0 (bitOf k.ccstat 1)) 2 (bitOf k.ccstat 3), handling := k.handling - 1
        hart := { k.hart with pc := k.hart.tpc, lact := bitOf k.ccstat 5 } })) ∧
    (k.handling = 0 → exec .tret s = .next (takeCcTrap n.val { cause := 0x01, tval := wordOf .tret } s))) ∧
  ∀ (s : State) (c : Ctx) (t : Strand), InProgram s c t → t.hart.sysh = true →
    exec .tret s = .next (takeStrandTrap c .tret { cause := 0x01, tval := wordOf .tret } s)

/-- 18 R435-R437, 17 R417: the module reset, losing power, the warm reset and an image that the boot ROM takes. -/
def Claims.Resets : Prop :=
  ∀ (s : State) (image : List Byte),
    let cold := fun (u : State) => u.strands = [] ∧ u.cores = [] ∧ u.dies = [] ∧ u.quads = [] ∧ u.mem = [] ∧ u.flash = s.flash ∧
      u.moduleNum = s.moduleNum ∧ u.hub.launches = [] ∧ u.hub.tuffSeq = 0 ∧ u.hub.collector = s.hub.collector
    (∃ u, exec .moduleReset s = .next u ∧ cold u ∧ u.powered = true ∧ u.boot = .rom) ∧
    (∃ u, exec .powerLoss s = .next u ∧ cold u ∧ u.powered = false) ∧
    (∃ u, exec .thermalPowerOff s = .next u ∧ cold u ∧ u.powered = false) ∧
    (bitOf s.hub.rstctl 1 = false ∨ s.hub.frz = true → exec .warmReset s = .next s) ∧
    (bitOf s.hub.rstctl 1 = true → s.hub.frz = false →
      (∀ e ∈ s.strands, e.1 < 32768 ∧ e.2.cond = .stopped ∧ e.2.busy = false) →
      ∃ u, exec .warmReset s = .next u ∧ u.strands = [] ∧ u.cores = [] ∧ u.hub.launches = [] ∧ bitOf u.hub.rstctl 1 = false ∧
        u.flash = s.flash ∧
        ∀ a, cellModule a = s.moduleNum.val → (regionOf (cellAddr a)).isBank = true → u.mem.get a = 0) ∧
    (s.boot ≠ .waitImage → exec (.tftpImageReceive image) s = .next s) ∧
    (s.boot = .waitImage → imageOk (Config.fusedMinimum s.fresh) (image.take 4096) (image.drop 4096) = false →
      exec (.tftpImageReceive image) s = .next s) ∧
    (s.boot = .waitImage → imageOk (Config.fusedMinimum s.fresh) (image.take 4096) (image.drop 4096) = true →
      ∃ u, exec (.tftpImageReceive image) s = .next u ∧ u.boot = .running ∧ u.flash = flashWith image ∧
        u.hub.measCount = s.hub.measCount + 1 ∧ (u.cc 0).held = false ∧ bitOf (u.cc 0).ccstat 0 = true ∧ u.strands = s.strands)

/-- SETPRI, IDLE, XLINV, TRET and the resets. What a reset keeps follows log 73, and reserved operand bits log 29. -/
def Obligations.SystemControl : Prop :=
  Claims.SystemControl ∧ Claims.TrapReturn ∧ Claims.Resets

/-- 09 R231, R232, 16 R400-R404, R399: the context operations on another context, with their codes of Table 9: PREEMPT asks a running
strand to stop and waits; CTXSAVE writes the layout of a stopped strand and frees its context; CTXLOAD loads a layout into a free
context; FRESTORE with gb = 0 resumes a stopped strand in place, else from its frame. Implicit parts of the layout follow logs 26 and 28. -/
def Obligations.ContextOperations : Prop :=
  ∀ (s : State) (c : Ctx) (t : Strand), InProgram s c t → t.hart.sysh = true → ∀ (d a b : GReg),
    let va := t.rd b
    let save := Instr.ctxsave d a b
    let load := Instr.ctxload d a b
    let rest := Instr.frestore d a b
    let bad := fun (i : Instr) => exec i s = .next (takeStrandTrap c i { cause := 0x06, tval := t.rd a } s)
    (fieldOf (t.rd a) 63 15 ≠ 0 → bad (.preempt d a) ∧ bad save ∧ bad load ∧ bad rest) ∧
    (∀ j : Ctx, j ≠ c → (t.rd a).toNat = j.val →
      (bitOf s.hub.fubase 0 = false → ∀ len img s1, (readLayout va).run s = .ok (len, img) s1 →
        exec load s = wroteG (if s1.loadCode j img len = 0 then s1.load j img va else s1) c t d
          (BitVec.ofNat 64 (s1.loadCode j img len))) ∧
      (s.strand? j.val = none →
        exec (.preempt d a) s = wroteG s c t d 1 ∧ exec save s = wroteG s c t d 1 ∧
        (va = 0 → exec rest s = wroteG s c t d 1)) ∧
      ∀ x, s.strand? j.val = some x →
        (x.cond = .stopped → exec (.preempt d a) s = wroteG s c t d 0) ∧
        (x.cond ≠ .stopped →
          exec (.preempt d a) s = .next ((s.askStop j .preempt).fallAsleep (.others [j])) ∧
          exec save s = wroteG s c t d 2 ∧ (va = 0 → exec rest s = wroteG s c t d 2)) ∧
        (x.cond = .stopped → x.frame ≠ none → exec save s = wroteG s c t d 3 ∧ (va = 0 → exec rest s = wroteG s c t d 3)) ∧
        (x.cond = .stopped → x.frame = none →
          (x.busy = false → ∀ ok s1, (saveContext j va).run s = .ok ok s1 → ∃ u t', exec save s = .next u ∧ u.mem = s1.mem ∧
            u.strand? c.val = some t' ∧ t'.unlinked = (t.past (t.putG d (if ok then 0 else 5))).unlinked ∧
            (u.strand? j.val = none ↔ ok = true)) ∧
          (va = 0 → ∃ u, exec rest s = .next u ∧ u.mem = s.mem ∧ u.strand? c.val = some (t.past (t.putG d 0)) ∧
            u.strand? j.val = some { x with cond := .runnable, stop := none, hart := { x.hart with pc := x.hart.tpc } })) ∧
        (∀ f hdr s1 p s2, va ≠ 0 → (loadBytes va 32).run s = .ok hdr s1 → (translate .load va).run s1 = .ok p s2 →
          s2.frameCode j hdr = 0 → s2.frameAt (mapGet s2.frames (p.cell va.toNat)) (le hdr 24 8) = some (j.val, x, f) →
          ∃ u, exec rest s = .next u ∧ u.strand? c.val = some (t.past (t.putG d 0)) ∧ u.strand? j.val = some (x.fromFrame f)))

/-- 09 R233, 15 R373-R378: LAUNCH of a descriptor with OP = 0 answers its refusal code with bit 63 set, or makes the launch resident and
answers its number; with OP = 1 it refuses a launch that is not resident, retires at once one that has no strand, and else asks its strands
to stop and waits. -/
def Claims.Launching : Prop :=
  ∀ (s : State) (c : Ctx) (t : Strand), InProgram s c t → t.hart.sysh = true → ∀ (d a : GReg),
    let va := t.rd a
    (va.toNat % 64 ≠ 0 → exec (.launch d a) s = .next (takeStrandTrap c (.launch d a) { cause := 0x04, tval := va } s)) ∧
    (va.toNat % 64 = 0 → bitOf s.hub.fubase 0 = false → ∀ x s1, (loadBytes va 128).run s = .ok x s1 →
      let l := launchOf s.moduleNum x
      let code := s1.launchCode x false
      let n := BitVec.ofNat 32 (le x 96 4)
      (le x 0 1 = 0 → code ≠ 0 → exec (.launch d a) s = wroteG s1 c t d (BitVec.ofNat 64 (2 ^ 63 + code))) ∧
      (le x 0 1 = 0 → code = 0 →
        exec (.launch d a) s = wroteG (s1.accept l).2 c t d ((s1.accept l).1.zeroExtend 64) ∧
        (s1.hub.nextLaunch ≠ 0 → s1.launch? s1.moduleNum s1.hub.nextLaunch = none → (s1.accept l).1 = s1.hub.nextLaunch) ∧
        ∃ y, (s1.accept l).2.hub.launches = s1.hub.launches ++ [y] ∧ y.number = (s1.accept l).1 ∧ y.issuer = s.moduleNum ∧
          y.prio = l.prio ∧ y.dispatched = false ∧ y.handle = l.handle ∧ y.strands = l.strands) ∧
      (2 ≤ le x 0 1 → exec (.launch d a) s = wroteG s1 c t d (BitVec.ofNat 64 (2 ^ 63 + 1))) ∧
      (le x 0 1 = 1 → le x 100 28 = 0 →
        (s1.launch? s1.moduleNum n = none → exec (.launchAbort d a) s = wroteG s1 c t d (BitVec.ofNat 64 (2 ^ 63 + 4))) ∧
        ∀ y, s1.launch? s1.moduleNum n = some y →
          ((∀ e ∈ s1.strands, e.2.ofLaunch y.issuer y.number = false) → (y.dispatched = true → y.here = true ∧ y.othersLeft = 0) →
            ∃ u t', exec (.launchAbort d a) s = .next u ∧ u.launch? s1.moduleNum n = none ∧ u.hub.outcome n = some 2 ∧
              u.strand? c.val = some t' ∧ t'.unlinked = (t.past (t.putG d (n.zeroExtend 64))).unlinked) ∧
          ((∃ e ∈ s1.strands, e.1 < 32768 ∧ e.1 ≠ c.val ∧ s1.strand? e.1 = some e.2 ∧ e.2.ofLaunch y.issuer y.number = true ∧
              e.2.cond ≠ .stopped) →
            ∃ u t' js, exec (.launchAbort d a) s = .next u ∧ u.strand? c.val = some t' ∧ t'.cond = .asleep (.others js) ∧
              js ≠ [] ∧ t'.hart = t.hart)))

/-- 09 R236, 16 R409, 10 R243: LGRETIRE of a lane group that is not live answers 1, of the last live group of its core 6; where no strand's
partition changes it clears the group in LGMAP and answers 0. -/
def Claims.LaneRetire : Prop :=
  ∀ (s : State) (c : Ctx) (t : Strand), InProgram s c t → t.hart.sysh = true → ∀ (d a b : GReg),
    let i := Instr.lgretire d a b
    let g := (t.rd b).toNat
    let k := (t.rd a).toNat / 8
    let old := (s.core k).lgmap
    (fieldOf (t.rd a) 63 15 ≠ 0 → exec i s = .next (takeStrandTrap c i { cause := 0x06, tval := t.rd a } s)) ∧
    (fieldOf (t.rd a) 63 15 = 0 → 8 ≤ g → exec i s = .next (takeStrandTrap c i { cause := 0x06, tval := t.rd b } s)) ∧
    (fieldOf (t.rd a) 63 15 = 0 → g < 8 →
      (bitOf old (32 + g) = false → exec i s = wroteG s c t d 1) ∧
      (bitOf old (32 + g) = true → (liveGroups old).length = 1 → exec i s = wroteG s c t d 6) ∧
      (bitOf old (32 + g) = true → (liveGroups old).length ≠ 1 → s.splitBy k (setBit old (32 + g) false) = [] →
        ∃ u t', exec i s = .next u ∧ u.mem = s.mem ∧ (u.core k).lgmap = setBit old (32 + g) false ∧
          u.strand? c.val = some t' ∧ t'.unlinked = (t.past (t.putG d 0)).unlinked))

/-- 15 R374, R380: a strand starts at its entry with its rank, the gang's size, the parameter, the launch number and the module in g2 to g6, every
other register zero, and the launch's mode bits in STATUS. -/
def Claims.StrandStart : Prop :=
  ∀ (s : State) (l : Launch) (h : Handle) (c rank : Nat), s.handle? l.handle = some h →
    let t := s.newStrand l c rank
    t.hart.rd 2 = BitVec.ofNat 64 rank ∧ t.hart.rd 3 = BitVec.ofNat 64 l.gang ∧ t.hart.rd 4 = l.param ∧
      t.hart.rd 5 = l.number.zeroExtend 64 ∧ t.hart.rd 6 = BitVec.ofNat 64 s.moduleNum.val ∧
      (∀ r : GReg, r.val < 2 ∨ 6 < r.val → t.hart.rd r = 0) ∧
      t.hart.pc = h.code + BitVec.ofNat 64 (h.entries.getD l.entry 0) ∧ t.hart.sysh = h.system ∧ t.hart.repro = l.repro ∧
      t.v = Vector.replicate 32 0 ∧ t.m = Vector.replicate 16 0 ∧ t.vl = 0 ∧ t.cond = .runnable ∧ t.rank = rank

/-- 15 R376, R379-R381: a launch whose predecessors have succeeded enters the queues; the dispatch unit places its head share whole, or asks
victims to stop for it; a quantum's end looks again; and a launch retires with its outcome once its share here has ended and
the other modules have reported (log 30). -/
def Claims.DispatchEvents : Prop :=
  ∀ (s : State) (d : Die) (c : Ctx) (t : Strand) (m : ModNum) (n : BitVec 32) (l : Launch),
    (s.launch? m n = some l → l.dispatched = false → l.aborted = false → l.preds = [] → l.predFailed = false →
      ∃ u, exec (.launchEnterDispatch m n) s = .next u ∧ u.mem = s.mem ∧ u.strands = s.strands ∧
        u.hub.launches = s.hub.launches.map (fun x => if x.issuer == m && x.number == n then { x with dispatched := true } else x) ∧
        ∀ k, k < 16 → (u.die k).shares = (s.die k).shares ++ (if l.ranksOn s.moduleNum.val k = [] then [] else
          [{ issuer := m, number := n, prio := l.prio, age := (s.die k).nextAge
             ranks := (l.ranksOn s.moduleNum.val k).map fun r => (r, false), placed := none }])) ∧
    ((s.die d.val).head = none → exec (.dispatchPlace d) s = .next s) ∧
    (∀ sh, (s.die d.val).head = some sh →
      (s.placeShare d.val sh = none → exec (.dispatchPlace d) s = .next s) ∧
      ∀ s', s.placeShare d.val sh = some s' → ∃ u, exec (.dispatchPlace d) s = .next u ∧ u.mem = s'.mem ∧ u.strands = s'.strands ∧
        u.cores = s'.cores ∧ (u.die d.val).shares = (s'.die d.val).shares.map fun x =>
          if x.issuer == sh.issuer && x.number == sh.number then { x with ranks := [], placed := some (s'.die d.val).nextPlace } else x) ∧
    (∀ sh, (s.die d.val).head = some sh → s.placeShare d.val sh = none →
      (∀ e ∈ s.strands, e.2.stop ≠ some .dispatch) →
      let cands := (s.die d.val).shares.filter (s.candidate d.val sh.prio.val)
      (s.victims d.val sh cands.length cands [] = none → exec (.dispatchPreempt d) s = .next s) ∧
      ∀ cs, s.victims d.val sh cands.length cands [] = some cs → exec (.dispatchPreempt d) s =
        .next (cs.foldl (fun (s : State) (c : Ctx) => s.askStop c .dispatch) s)) ∧
    (s.strand? c.val = some t →
      (s.time.toNat < t.placedAt.toNat + Config.quantumNs → exec (.quantumExpiry c) s = .next s) ∧
      ∀ u, t.placedAt.toNat + Config.quantumNs ≤ s.time.toNat → dieNum c = d.val → exec (.dispatchPlace d) s = .next u →
        exec (.quantumExpiry c) s = exec (.dispatchPreempt d) u) ∧
    (s.launch? m n = some l → l.here = true →
      (s.outcomeNow l = none → exec (.launchRetire m n) s = .next { s with hub := { s.hub with
        launches := s.hub.launches.map fun x =>
          if x.issuer == m && x.number == n then { x with othersLeft := x.othersLeft - 1 } else x } }) ∧
      ∀ o, s.outcomeNow l = some o →
        (m = s.moduleNum → l.dispatched = true → l.othersLeft ≠ 0 → ∃ u y, exec (.launchRetire m n) s = .next u ∧
          u.launch? m n = some y ∧ y.here = false ∧ y.othersLeft = l.othersLeft ∧ u.hub.outcome n = s.hub.outcome n) ∧
        ((m = s.moduleNum → l.dispatched = true → l.othersLeft = 0) → ∃ u, exec (.launchRetire m n) s = .next u ∧
          u.launch? m n = none ∧ (m = s.moduleNum → u.hub.outcome n = some o)))

/-- LAUNCH and its refusals, lane retirement, the start of a strand, and dispatch. How strands are asked to stop follows log 22. -/
def Obligations.Launching : Prop :=
  Claims.Launching ∧ Claims.LaneRetire ∧ Claims.StrandStart ∧ Claims.DispatchEvents

/-- 08 R189, 09 R228, 05 R134, 18 R422: on a strand without the system bit every system instruction takes the privilege trap, and in an
upcall handler every instruction that R134 does not allow is illegal; on a control complex core at user privilege a system instruction
takes the privilege trap, and one that the core does not execute is illegal. -/
def Claims.Privilege : Prop :=
  (∀ (s : State) (c : Ctx) (t : Strand), Ready s c t → ∀ i : Instr,
    ((klass i).system = true → t.hart.sysh = false →
      exec i s = .next (takeStrandTrap c i { cause := 0x03, tval := wordOf i } s)) ∧
    ((klass i).side ≠ .event → (klass i).handler = false → t.hart.upc = true → i.wf = true →
      ((klass i).system = true → t.hart.sysh = true) →
      exec i s = .next (takeStrandTrap c i { cause := 0x01, tval := wordOf i } s))) ∧
  ∀ (s : State) (n : Fin 32), s.turn = .cc n → ∀ i : Instr,
    ((klass i).system = true → bitOf (s.cc n.val).ccstat 0 = false →
      exec i s = .next (takeCcTrap n.val { cause := 0x03, tval := wordOf i } s)) ∧
    ((klass i).side ≠ .event → (klass i).system = false → (klass i).cc = false →
      exec i s = .next (takeCcTrap n.val { cause := 0x01, tval := wordOf i } s))

/-- 02 R26, R30-R33, R46, 08 R189 row 7: an access of a mapped page takes the traps in their order: a dead page allows loads only, then
system pages and permissions, then read-duplicate pages; an address above 2^56 takes the protection trap. -/
def Claims.TranslationChecks : Prop :=
  ∀ (s : State) (c : Ctx) (t : Strand) (acc : Acc) (va : Word) (p : PageTr), s.strand? c.val = some t →
    let a := Agent.strand c
    let l := p.leaf
    let tr := s.translate a t.hart.ptbase acc va
    let may := match acc with
      | .fetch => leafX l
      | .load => leafR l
      | .store => leafW l
      | .rw => leafR l && leafW l
    let unmapped := pageUnmapped (leafBase l) (leafStored l p.size) (fun k => (s.stack k).act) (leafMod l == s.moduleNum.val)
    let hidden := leafSYS l && !(t.hart.sysh && !t.hart.upc)
    (2 ^ 56 ≤ va.toNat → tr = (.error 0x06, s)) ∧
    (va.toNat < 2 ^ 56 → (s.tlb a).find? (fun p => p.maps (jobOf t.hart.ptbase) va.toNat) = some p →
      (leafDead l = true → acc ≠ .load → tr = (.error 0x05, s)) ∧
      (leafDead l = false →
        (unmapped = true ∨ hidden = true ∨ may = false → tr = (.error 0x06, s)) ∧
        (unmapped = false → hidden = false → may = true →
          (leafRD l = true → acc = .store ∨ acc = .rw → tr = (.error 0x07, s)) ∧
          (leafRD l = false ∨ acc = .load ∨ acc = .fetch → tr = (.ok p, s))))) ∧
    (va.toNat < 2 ^ 56 → (∀ p ∈ s.tlb a, p.maps (jobOf t.hart.ptbase) va.toNat = false) →
      let s' := s.touchWalk t.hart.ptbase va.toNat
      s'.walkLost t.hart.ptbase va.toNat = none →
      (s'.walkPage t.hart.ptbase va.toNat = .invalid → tr = (.error 0x05, s')) ∧
      (s'.walkPage t.hart.ptbase va.toNat = .malformed → tr = (.error 0x06, s')))

/-- Who may execute what, and which pages an access may touch. -/
def Obligations.Privilege : Prop :=
  Claims.Privilege ∧ Claims.TranslationChecks

/-- 16 R387, R389-R391, R407, 08 R212: a precise trap of a strand, whose stores have been performed, writes TCAUSE, TPC and TVAL, clears TFRAME and
the reservations, stops the strand at TPC, and gives its die a notice; nothing else of the strand or of memory changes. -/
def Claims.PreciseTrap : Prop :=
  ∀ (s : State) (c : Ctx) (t : Strand) (i : Instr) (r : TrapReq), s.strand? c.val = some t → t.fromQueue = none → t.saved = none →
    t.stores = [] → isHeld i r = false → r.cause < 256 → r.acc < 4 → r.lost = false → r.blk = none →
    let at' := r.tpc.getD t.hart.pc
    let rpl := t.ract = true ∧ t.hart.upc = false ∧ t.rbeg.toNat ≤ at'.toNat ∧ at'.toNat < t.rend.toNat
    ∃ w : Word, fieldOf w 7 0 = r.cause ∧ bitOf w 9 = false ∧ fieldOf w 11 10 = r.acc ∧ bitOf w 12 = t.hart.upc ∧
      (bitOf w 13 = true ↔ rpl) ∧ (bitOf w 14 = true ↔ t.blkpt ≠ none ∧ t.hart.upc = false) ∧ fieldOf w 63 15 = 0 ∧
      let u := { t with
        hart := { t.hart with tcause := w, tpc := at', tval := r.tval, tframe := 0, resv := none, pc := at' }
        vresv := [], cond := .stopped, stop := none, delay := false, dataErr := none }
      let d := s.die (dieNum c)
      takeStrandTrap c i r s = { (s.setStrand c.val u).setDie (dieNum c) { d with notices := d.notices ++ [u.notice c false] } with
        hub := s.hub.forget (.strand c) }

/-- 18 R424, 16 R387: a trap of a control complex core enters its handler: privilege, IE and LACT are kept in CCSTAT, TCAUSE, TPC and TVAL are
written, and control goes to TVEC at supervisor privilege with interrupts off. -/
def Claims.ControlComplexTrap : Prop :=
  ∀ (s : State) (n : Fin 32) (i : Instr) (r : TrapReq), s.turn = .cc n → r.cause < 256 → r.acc < 4 → r.blk = none → r.lost = false →
    let c := s.cc n.val
    ∃ k, takeTrap i r s = s.setCc n.val k ∧ k.hart.pc = c.tvec ∧ k.hart.tpc = r.tpc.getD c.hart.pc ∧ k.hart.tval = r.tval ∧
      k.hart.tcause = BitVec.ofNat 64 (r.cause + r.acc * 2 ^ 10) ∧ k.hart.g = c.hart.g ∧ k.hart.lact = false ∧ k.hart.resv = none ∧
      bitOf k.ccstat 0 = true ∧ bitOf k.ccstat 1 = bitOf c.ccstat 0 ∧ bitOf k.ccstat 2 = false ∧
      bitOf k.ccstat 3 = bitOf c.ccstat 2 ∧ bitOf k.ccstat 5 = c.hart.lact ∧ k.handling = c.handling + 1 ∧ k.tvec = c.tvec ∧ k.irqs = c.irqs

/-- Taking a precise trap: what it saves, what it clears, and where control goes. -/
def Obligations.TrapEntry : Prop :=
  Claims.PreciseTrap ∧ Claims.ControlComplexTrap

/-- 16 R392-R394, R398: a held trap of an execute-side instruction keeps it and everything forwarded after it in a fault frame; the access
side goes on past it, TPC names it, and TCAUSE.HELD is 1. -/
def Claims.HeldTrap : Prop :=
  ∀ (s : State) (c : Ctx) (t : Strand) (i : Instr) (r : TrapReq), s.strand? c.val = some t → t.fromQueue = none → t.saved = none →
    t.stores = [] → isHeld i r = true → t.forwardWait i = none → r.cause < 256 → r.acc < 4 → r.tpc = none →
    let s' := takeStrandTrap c i r s
    ∃ u f, s'.strand? c.val = some u ∧ u.cond = .stopped ∧ u.frame = some f ∧ f.head.instr = i ∧ f.head.pc = t.hart.pc ∧
      f.rest = t.iq ∧ f.cm = r.cm ∧ u.iq = [] ∧ u.hart.tpc = t.hart.pc ∧ u.hart.tval = r.tval ∧ fieldOf u.hart.tcause 7 0 = r.cause ∧
      bitOf u.hart.tcause 9 = true ∧ u.v = t.v ∧ u.m = t.m ∧ u.hart.resv = none ∧
      (∀ j, j ≠ c.val → ∀ x, s.strand? j = some x → ∃ y, s'.strand? j = some y ∧ y.unlinked = x.unlinked)

/-- 07 R162: the execute side performs the oldest instruction of its queue with the registers captured when it was forwarded, and the
access side's own registers stand again afterwards. -/
def Claims.ForwardedInstruction : Prop :=
  ∀ (s : State) (c : Ctx) (t : Strand) (f : Forwarded) (rest : List Forwarded) (as : List Act),
    s.agenda = .execute c false :: as → s.powered = true → s.strand? c.val = some t → t.iq = f :: rest → t.prompt →
    let t1 := { t.withCaptured f.cap with fromQueue := some f, saved := some t.capture, cond := .runnable, iq := rest, delay := false }
    let s1 := { s with agenda := as, turn := .strand c, strands := (s.setStrand c.val t1).strands }
    ∀ u v, exec f.instr s1 = .next u → u.strand? c.val = some v → v.cond = .runnable →
      ∃ s' w, step s = .next s' ∧ s'.mem = u.mem ∧ s'.turn = s.turn ∧ s'.strand? c.val = some w ∧ w.v = v.v ∧ w.m = v.m ∧
        w.cond = t.cond ∧ w.fromQueue = none ∧ (v.saved = some t.capture → w.hart.g = t.hart.g ∧ w.vl = t.vl ∧ w.vtype = t.vtype)

/-- A held trap keeps its instruction in a frame; the execute side performs forwarded instructions with captured values. Forwarding follows log 9, and the room of a frame log 28. -/
def Obligations.HeldTrapsAndQueue : Prop :=
  Claims.HeldTrap ∧ Claims.ForwardedInstruction

/-- 17 R417-R421, 18 R427, R432, R434, R435, R438, 03 R74-R76: the events that writes of the hub's registers are.  Each changes the
fields its register's table gives and no memory; FRZ writes FATAL and FREEZE and stops the compute dies once, TUFFPUT commits an entry of
the types 0x10 to 0x1F, the eighth store to MEXT extends the measurement. -/
def Claims.HubRegisterWrites : Prop :=
  ∀ (s : State) (b : Bool) (v : Word) (q : Fin 4) (cons : BitVec 10) (k : Die) (carve : Fin 8),
    let h := s.hub
    let on := fun (i : Instr) (u : Hub) => exec i s = .next { s with hub := u }
    (h.frz = true → on .tuffctlFrzSet h) ∧
    (h.frz = false → ∃ u, on .tuffctlFrzSet u ∧ u.frz = true ∧ u.frozen = true ∧ u.tuffSeq = h.tuffSeq + 2) ∧
    on .tuffctlFrzClear { h with tuffctl := setBit h.tuffctl 0 false } ∧
    on (.tuffctlStreamWrite b) { h with tuffctl := setBit h.tuffctl 1 b } ∧
    (h.frz = false → 0x10 ≤ fieldOf h.tuffput[0] 7 0 → fieldOf h.tuffput[0] 7 0 ≤ 0x1F →
      ∃ u, on (.tuffputCommit v) u ∧ u.tuffSeq = h.tuffSeq + 1 ∧ u.tuffput = h.tuffput.set 3 v ∧
        ∃ e, mapGet u.tuff (h.tuffSeq % 8192) = some e ∧ e.seq = BitVec.ofNat 64 h.tuffSeq ∧ e.time = s.time ∧
          e.type = BitVec.ofNat 8 (fieldOf h.tuffput[0] 7 0) ∧ e.payload = h.tuffput[1]) ∧
    (h.mext.length < 7 → on (.mextExtend v) { h with mext := h.mext ++ [v] }) ∧
    (h.mext.length = 7 → on (.mextExtend v) { h with
      mext := [], measCount := h.measCount + 1
      meas := BitVec.ofNat 512 (ofBytes (sha512 (bytesOf 64 h.meas.toNat ++ (h.mext ++ [v]).flatMap fun w => bytesOf 8 w.toNat))) }) ∧
    on .rstctlWarmWrite { h with rstctl := setBit h.rstctl 1 true } ∧
    on .timectlRelWrite { h with timectl := setBit h.timectl 9 true, diesReleased := true } ∧
    (∃ u, exec (.timectlGmWrite b) s = .next u ∧ u.mem = s.mem ∧ u.strands = s.strands ∧ bitOf u.hub.timectl 8 = b ∧
      (b = true → bitOf h.timectl 8 = false → u.hub.gmSince = some s.time ∧ bitOf u.hub.timestat 0 = true ∧
        fieldOf u.hub.timestat 63 32 = 0)) ∧
    (q.val = 3 → on (.pwrctlReqWrite q) h) ∧
    (q.val ≠ 3 → on (.pwrctlReqWrite q) { h with pwrctl := setBit (setField h.pwrctl 1 0 q.val) 9 true }) ∧
    on (.nqptrConsWrite cons) { h with nqptr := setField h.nqptr 41 32 cons.toNat } ∧
    on (.nqctlWrite v) { h with nqctl := v &&& 0x0000FFFFFFFF9F01 } ∧
    (4 < carve.val → on (.scfgCarveWrite k carve) h) ∧
    (carve.val ≤ 4 → s.noneResident = false → exec (.scfgCarveWrite k carve) s =
      .next (s.setStack k.val { s.stack k.val with scfg := setBit (setField (s.stack k.val).scfg 2 0 carve.val) 11 true })) ∧
    exec (.hrctlWrite k v) s = .next (s.setStack k.val { s.stack k.val with
      hrctl := setField (v &&& 0x80010000) 15 0 (Nat.max 32 (fieldOf v 15 0)) }) ∧
    on (.registerWrite 0x01C000000018 v) { h with fubase := v &&& 0x0000FFFFFFFF0001 } ∧
    on (.registerWrite 0x01C00000001C v) h

/-- 18 R438: a write of ATTEST at an aligned address of a page that is there fills the request after its nonce with the measurement, the
count of extensions and the signature; one that is not a multiple of 64 is only recorded. -/
def Claims.Attestation : Prop :=
  ∀ (s : State) (n : Fin 32) (va : Word) (p : PageTr), s.turn = .cc n →
    let s' := { s with hub := { s.hub with attest := va } }
    (va.toNat % 64 ≠ 0 → exec (.attestRequest va) s = .next s') ∧
    (va.toNat % 64 = 0 → Resident s' .rw va 704 1 [(p, va.toNat, 704)] → (translate .rw (va + 703)).run s' = .ok p s' →
      ∃ u, exec (.attestRequest va) s = .next u ∧
        u.mem = (attestFill s.hub ((List.range 64).map fun i => s.mem.get (p.cell (va.toNat + i)))).zipIdx.foldl
          (fun (m : Cells) (x : Byte × Nat) => m.set (p.cell (va.toNat + 64 + x.2)) x.1) s.mem)

/-- The events that writes of hub registers are, and attestation. A misaligned ATTEST follows log 14. -/
def Obligations.HubRegisters : Prop :=
  Claims.HubRegisterWrites ∧ Claims.Attestation

/-- 18 R429, R432-R434, 17 R419: the clocks, the power modes, the temperature and the management port. -/
def Claims.TimeAndPower : Prop :=
  ∀ (s : State) (offset : BitVec 32) (adjust : Int) (up : Bool) (frame : List Byte),
    let h := s.hub
    let on := fun (i : Instr) (u : Hub) => exec i s = .next { s with hub := u }
    let irq := fun (u : State) (src : Fin 8) => (u.cc 0).irqs = (s.cc 0).irqs ++ [(src, 0)]
    (h.gmSince = none → on .gmReleaseTimeout h) ∧
    (∀ t, h.gmSince = some t → t.toNat + 1000000000 ≤ s.time.toNat →
      on .gmReleaseTimeout { h with gmSince := none, diesReleased := true, timectl := setBit h.timectl 9 true }) ∧
    (bitOf h.timectl 8 = true → on (.timeEventMessage offset adjust) h ∧ on .timeLockChange h) ∧
    (bitOf h.timectl 8 = false → ∃ u, exec (.timeEventMessage offset adjust) s = .next u ∧ u.mem = s.mem ∧ u.strands = s.strands ∧
      u.hub.timeKnown = true ∧
      (h.diesReleased = true ∨ bitOf h.timestat 0 = true → u.time = s.time ∧ fieldOf u.hub.timestat 63 32 = offset.toNat)) ∧
    (bitOf h.timectl 8 = false → h.timeKnown = true → ∃ u, exec .timeLockChange s = .next u ∧ u.mem = s.mem ∧ u.strands = s.strands ∧
      bitOf u.hub.timestat 0 = h.near ∧ (bitOf h.timestat 0 ≠ h.near → irq u 3) ∧ (h.near = true → u.hub.diesReleased = true)) ∧
    (bitOf h.pwrctl 9 = true → ∃ u, exec .powerModeChangeEnd s = .next u ∧ u.mem = s.mem ∧ irq u 4 ∧
      u.hub = { h with pwrctl := setBit (setField h.pwrctl 11 10 (fieldOf h.pwrctl 1 0)) 9 false }) ∧
    (bitOf h.pwrctl 8 = false → ∃ u, exec .thermalThrottle s = .next u ∧ u.mem = s.mem ∧ irq u 4 ∧
      u.hub = { h with pwrctl := setBit h.pwrctl 8 true }) ∧
    (bitOf h.pwrctl 8 = true → ∃ u, exec .thermalUnthrottle s = .next u ∧ u.mem = s.mem ∧ irq u 4 ∧
      u.hub = { h with pwrctl := setBit h.pwrctl 8 false }) ∧
    on (.managementPortLinkChange up) { h with mgmtUp := up } ∧
    (s.boot = .running → h.mgmtUp = true → ∃ u, exec (.managementPortReceive frame) s = .next u ∧ u.mem = s.mem ∧ irq u 5 ∧
      u.hub = { h with mgmtFrames := h.mgmtFrames ++ [frame] }) ∧
    (bitOf h.tuffctl 1 = false → on .tuffStreamSend h) ∧
    (bitOf h.tuffctl 1 = true → h.mgmtUp = true → h.tuffLost = 0 → h.unsent ≠ [] → on .tuffStreamSend
      { h with collector := h.collector ++ [(h.tuffSent, h.unsent)], tuffSent := h.tuffSent + h.unsent.length })

/-- 18 R428: while no frame-use table is kept, an inbound DMA write to memory of the module stores its bytes before its MSI-X is raised; an address that is no memory is left
alone, and a read changes no memory. -/
def Claims.InboundDma : Prop :=
  ∀ (s : State) (port : Fin 2) (addr len : Nat) (bytes : List Byte) (vec : BitVec 16), bitOf s.hub.fubase 0 = false →
    (s.dmaOk addr bytes.length = true →
      (∀ i, i < bytes.length → s.hasMemory (addr + i) = true ∧ s.lostAt (s.cellHere (addr + i)) 1 = []) →
      ∃ u, exec (.pcieInboundDma port addr len (some bytes) (some vec)) s = .next u ∧
        u.mem = bytes.zipIdx.foldl (fun (m : Cells) (x : Byte × Nat) => m.set (s.cellHere (addr + x.2)) x.1) s.mem ∧
        (u.cc 0).irqs.getLast? = some (Fin.ofNat 8 (port.val + 1), vec)) ∧
    (s.dmaOk addr bytes.length = false → exec (.pcieInboundDma port addr len (some bytes) none) s = .next s) ∧
    ∃ u, exec (.pcieInboundDma port addr len none none) s = .next u ∧ u.mem = s.mem ∧ u.strands = s.strands

/-- Clocks, power modes, temperature, management port and inbound DMA. Clock corners follow log 72, and DMA bounds log 71. -/
def Obligations.TimePowerAndDma : Prop :=
  Claims.TimeAndPower ∧ Claims.InboundDma

/-- 07 R165, R182, 05 R128, 13 R329, R333-R335, R352, 09 R235: the events that wake a sleeping strand: it may issue again, or the instruction
in which it slept completes, as an acquire where it is one; a deadlock takes the watchdog trap, with the execute side held in a frame. -/
def Claims.WakeUps : Prop :=
  ∀ (s : State) (c : Ctx) (t : Strand), s.strand? c.val = some t → t.fromQueue = none →
    let up := fun (u : Strand) => { u with cond := Cond.runnable }
    let past := up (t.past t)
    (∀ r, t.cond = .asleep r → s.sleepOver t r = true → exec (.queueWake c) s = .next (s.setStrand c.val (up t))) ∧
    (∀ r, t.cond = .asleep r → s.sleepOver t r = false → exec (.queueWake c) s = .next s) ∧
    (∀ q r f rest, t.accessWait = some q → t.executeWait = some r → t.iq = f :: rest → f.before = none →
      ∃ u v x, exec (.queueDeadlock c) s = .next u ∧ u.turn = s.turn ∧ u.strand? c.val = some v ∧ v.cond = .stopped ∧
        v.frame = some x ∧ x.head = f ∧ x.rest = rest ∧ v.iq = [] ∧ v.hart.tpc = t.hart.pc ∧ v.hart.pc = t.hart.pc ∧
        v.hart.tval = BitVec.ofNat 64 (2 ^ 63 + q.val + 8 * r.val) ∧ fieldOf v.hart.tcause 7 0 = 0x11 ∧ bitOf v.hart.tcause 9 = true) ∧
    (∀ (n : Fin 1024) (b : Fin 32), (s.quad n.val).sem.getLsbD b.val = false →
      ((s.quad n.val).waiting.find? fun w => w.2 == b) = some (c, b) →
      ∃ u, exec (.semaphoreGrant n b) s = .next u ∧ (u.quad n.val).sem.getLsbD b.val = true ∧ u.strand? c.val = some (up (t.past (t.acquired s c 1))) ∧
        (∀ w ∈ (u.quad n.val).waiting, w.1 ≠ c) ∧ u.mem = s.mem ∧ (u.core (coreNum c)).l1main = []) ∧
    (∀ (d : GReg) (target : Word), t.cond = .asleep (.waitt d target) → target.toNat ≤ s.time.toNat →
      exec (.waittWake (.strand c)) s = .next (s.setStrand c.val (up (t.past (t.putG d s.time))))) ∧
    (∀ (p : Fin 6) (n : BitVec 32), t.cond = .asleep (.cplw p n) → t.waitOver p n = true → t.ede = [] →
      exec (.cplwWake c) s = .next (s.setStrand c.val past)) ∧
    (t.cond = .asleep .idle → t.pending ≠ [] → exec (.idleWake c) s = .next (s.setStrand c.val (up t))) ∧
    (∀ (sc : Fin 5) (n : Nat) (b : Fin 16) (j : BitVec 16) (e : Episode) (x : Fin 8) (m : Nat) (y : Fin 16),
      (s.hub.episodes.find? fun e => e.isAt (Fin.ofNat 8 sc.val) n b j) = some e → e.count ≤ e.arrived.length → c ∈ e.arrived →
      t.cond = .asleep (.bar x m y) →
      ∃ u, exec (.barrierEpisodeComplete sc n b j) s = .next u ∧ u.strand? c.val = some (up (t.past (t.acquired s c sc.val))) ∧
        u.mem = s.mem) ∧
    (∀ (d : GReg) (va ref : Word) (sc : Fin 8) (p : PageTr), t.cond = .asleep (.sigwait d va ref sc) → va.toNat % 8 = 0 →
      Resident { s with turn := .strand c } .load va 8 8 [(p, va.toNat, 8)] → leafMod p.leaf = s.moduleNum.val →
      let x := BitVec.ofNat 64 (s.mem.read (p.cell va.toNat) 8)
      (x - ref).toNat < 2 ^ 63 →
      ∃ u, exec (.sigwaitWake (.strand c)) s = .next u ∧ u.mem = s.mem ∧
        u.strand? c.val = some (up (t.past ((t.putG d x).acquired s c sc.val))))

/-- 18 R424, R427: a control complex core that enables interrupts takes the oldest one: CAUSE 0, its source and vector in TVAL, and control
at TVEC; a die's oldest notice enters an open ring, PROD advances and source 0 is raised. -/
def Claims.InterruptsAndNotices : Prop :=
  (∀ (s : State) (n : Fin 32) (src : Fin 8) (vec : BitVec 16) (r : List (Fin 8 × BitVec 16)),
    let c := s.cc n.val
    c.irqs = (src, vec) :: r → c.held = false → bitOf c.ccstat 2 = true →
    ∃ u, exec (.ccInterruptEntry n) s = .next u ∧ u.mem = s.mem ∧ u.strands = s.strands ∧
      let k := u.cc n.val
      k.irqs = r ∧ k.hart.pc = c.tvec ∧ k.hart.tpc = c.hart.pc ∧ k.hart.tcause = 0 ∧
      k.hart.tval = BitVec.ofNat 64 (src.val + vec.toNat * 65536) ∧ k.hart.g = c.hart.g ∧ k.hart.lact = false ∧
      bitOf k.ccstat 0 = true ∧ bitOf k.ccstat 1 = bitOf c.ccstat 0 ∧ bitOf k.ccstat 2 = false ∧ bitOf k.ccstat 3 = true ∧
      bitOf k.ccstat 5 = c.hart.lact ∧ k.handling = c.handling + 1) ∧
  ∀ (s : State) (die : Die) (x : Notice) (r : List Notice),
    (s.die die.val).notices = x :: r → s.hub.ringOpen = true → bitOf s.hub.fubase 0 = false →
    let prod := fieldOf s.hub.nqptr 9 0
    let core := fieldOf s.hub.nqctl 12 8
    ∃ u, exec (.trapNoticeDeliver die) s = .next u ∧ (u.die die.val).notices = r ∧
      u.mem = s.mem.write (cellOf s.moduleNum.val (fieldOf s.hub.nqctl 47 15 * 32768 + prod * 32)) 32
        (x.w0.toNat + x.cause.toNat * 2 ^ 64 + x.tpc.toNat * 2 ^ 128 + x.tval.toNat * 2 ^ 192) ∧
      fieldOf u.hub.nqptr 9 0 = (prod + 1) % 1024 ∧ (u.cc core).irqs = (s.cc core).irqs ++ [(0, 0)]

/-- The events that wake a strand, interrupt entry and trap notices. Waking follows logs 17 and 18, and the core of an interrupt log 12. -/
def Obligations.WakeUpsAndInterrupts : Prop :=
  Claims.WakeUps ∧ Claims.InterruptsAndNotices

/-- 02 R29, R41, 03 R58, R61, R62, R67, R74: table walks, fills, refresh windows, demotions, scrubs and carve-out changes as events. Counting follows log 67. -/
def Obligations.MemorySideEvents : Prop :=
  ∀ (s : State) (k : Die) (line : Nat) (chain : BitVec 8) (uo : Bool),
    let st := s.stack k.val
    let on := fun (i : Instr) (u : Stack) => exec i s = .next (s.setStack k.val u)
    (∀ (c : Ctx) (t : Strand) (va l : Word) (size pte : Nat), s.strand? c.val = some t → fieldOf va 63 56 = 0 →
      (∀ p ∈ s.tlb (.strand c), p.maps (jobOf t.hart.ptbase) va.toNat = false) →
      let s' := s.touchWalk t.hart.ptbase va.toNat
      s'.walkLost t.hart.ptbase va.toNat = none → s'.walkPage t.hart.ptbase va.toNat = .leaf l size pte →
      exec (.pageWalk c va) s = .next (s'.tlbAdd (.strand c)
        { job := jobOf t.hart.ptbase, vbase := va.toNat / size * size, size := size, leaf := l, pte := pte })) ∧
    (line < 0x18000000 → (∀ l ∈ st.setLines (mscSet line), l.line ≠ line) →
      ∃ u, exec (.mscFill k line chain uo) s = .next u ∧ u.mem = s.mem ∧ u.strands = s.strands ∧
        u.stack k.val = (st.fill line chain uo none).1) ∧
    (∃ u, on (.refreshWindowEnd k) u ∧ u.acts = [] ∧ u.captured = [] ∧ ∀ e ∈ u.msc, ∀ l ∈ e.2, l.prio ≠ .pinned) ∧
    (∀ c r, st.demotes = c :: r → c ∉ st.scrubs → on (.demoteApply k)
      { st with demotes := r, gens := st.gens.set c.toNat (st.gens[c.toNat] + 1), scrubs := st.scrubs ++ [c] }) ∧
    (chain ∈ st.scrubs → chain ≠ 0 → ∃ u, on (.demoteScrubEnd k chain) u ∧ chain ∉ u.scrubs ∧
      ∀ e ∈ u.msc, ∀ l ∈ e.2, l.chain = chain → l.gen = st.gens[chain.toNat]) ∧
    (bitOf st.scfg 11 = true → s.noneResident = true → ∃ u, exec (.carveChange k) s = .next u ∧ u.strands = s.strands ∧
      (u.stack k.val).act = fieldOf st.scfg 2 0 ∧ bitOf (u.stack k.val).scfg 11 = false ∧ (u.stack k.val).acts = []) ∧
    (bitOf st.scfg 11 = false ∨ s.noneResident = false → exec (.carveChange k) s = .next s)

/-- 13 R350, R351, R332, 18 R430, R431, 02 R43: packets of other modules on memory of this one, while no frame-use table is kept: stores, adds
and signals are performed and acknowledged, a train that finds no receive buffer is refused, reads are answered, and read data go to the
oldest read that waits for them, whose agent goes on once it has them all. -/
def Claims.MemoryPackets : Prop :=
  ∀ (s : State) (src : ModNum) (op : BitVec 32) (x : Word) (b : Bool) (addr len : Nat) (ws : List (Nat × Byte)), bitOf s.hub.fubase 0 = false →
    let ack := fun (a : Nat) (l : List Word) => ({ type := 5, dst := src, addr := a, op := op, data := [], operands := l } : Packet)
    let first := (ws.head?.map (·.1)).getD 0
    let here := fun (a : Nat) (n : Nat) => s.hasMemory a = true ∧ s.lostAt (s.cellHere a) n = []
    let cell := s.cellHere addr
    let sent := fun (u : State) (p : Packet) => u.hub.outbox = s.hub.outbox ++ [p]
    (Config.recvBytes < s.hub.recvUsed + ws.length → exec (.remoteStorePacket src op ws) s =
      .next { s with hub := { s.hub with outbox := s.hub.outbox ++ [ack first [1]] } }) ∧
    (s.hub.recvUsed + ws.length ≤ Config.recvBytes → (∀ w ∈ ws, here w.1 1) → ws ≠ [] →
      ∃ u, exec (.remoteStorePacket src op ws) s = .next u ∧ sent u (ack first [0]) ∧
        u.mem = ws.foldl (fun (m : Cells) (w : Nat × Byte) => m.set (s.cellHere w.1) w.2) s.mem) ∧
    (here addr len → s.hub.recvUsed + len ≤ Config.recvBytes →
      ∃ u, exec (.remoteAddPacket src op len [(addr, x)]) s = .next u ∧ sent u (ack addr [0]) ∧
        u.mem = s.mem.write cell len ((s.mem.read cell len + x.toNat) % 256 ^ len)) ∧
    (here addr 8 → ∃ u, exec (.signalPacket src op addr x b) s = .next u ∧ sent u (ack addr [0]) ∧
      u.mem = s.mem.write cell 8 ((s.mem.read cell 8 + x.toNat) % 2 ^ 64)) ∧
    ((∀ i, i < len → here (addr + i) 1) → ∃ u, exec (.remoteReadPacket src addr len) s = .next u ∧ u.mem = s.mem ∧
      sent u { type := 7, dst := src, addr := addr, op := 0, operands := []
               data := (List.range len).map fun i => s.mem.get (s.cellHere (addr + i)) }) ∧
    let bytes := ws.map (·.2)
    let at' := cellOf src.val (addr % 2 ^ 48)
    ((∀ r ∈ s.hub.fabric, r.answeredBy at' bytes.length = false) → exec (.readDataPacket src addr bytes) s = .next s) ∧
    ∀ pre r post, s.hub.fabric = pre ++ r :: post → (∀ x ∈ pre, x.answeredBy at' bytes.length = false) →
      r.answeredBy at' bytes.length = true →
      let r' := r.filled at' bytes
      let u := { s with hub := { s.hub with fabric := pre ++ r' :: post } }
      exec (.readDataPacket src addr bytes) s =
        .next (if r'.value.isSome && s.sleepOf r.who = some (.fabric r.who r.cell r.len) then u.rouse r.who else u)

/-- 13 R350, 14 R367, R372: packets for the operations of strands and for the Calderas: an acknowledgement ends a remote deposit with its code
and accepts a remote store, a token row enters an intake that has room, and bank requests and their answers
pass; the strand that waits for its last answer goes on, or is told that no Caldera is there (log 84). -/
def Claims.OperationPackets : Prop :=
  ∀ (s : State) (src : ModNum) (c : Ctx) (t : Strand) (n : BitVec 32) (x : Word) (op : PathOp) (q : Fin 2) (addr : Nat),
    s.strand? c.val = some t →
    (∀ p y tk g row, t.opAt p n = some op → op.complete = false → op.work = .deposit y tk g row q → cellModule y ≠ s.moduleNum.val →
      exec (.ackPacket c p n x) s = .next (s.setStrand c.val ({ t with qr := t.qr.set q.val (t.qr[q].map fun (e : REntry) =>
        if e = REntry.awaits p n then REntry.value x else e) }.complete p n none))) ∧
    (∀ add ws, t.opAt 3 n = some op → op.complete = false → op.work = .remoteStore add ws q false →
      exec (.ackPacket c 3 n 0) s = exec (.rstvOutcome c n none) s) ∧
    (∀ tk g row, let cell := s.cellHere addr
      let die := dieOfCell cell
      (s.die die).intake.length < 256 → s.hub.recvUsed + rowBytes row.length ≤ Config.recvBytes →
      ∃ u, exec (.tokenRowPacket src n addr tk g row) s = .next u ∧ u.mem = s.mem ∧ u.strands = s.strands ∧
        u.hub.recvUsed = s.hub.recvUsed + rowBytes row.length ∧ (u.die die).intake = (s.die die).intake ++
          [{ ctx := none, op := n, src := src, addr := cell, ticket := tk, gate := g, row := row }]) ∧
    (∀ (k : Fin 6) v s1, (regionOf (cellAddr (s.cellHere addr))).isBank = true →
      (bankRequest k.val (s.cellHere addr) x).run s = .ok (some v) s1 → exec (.remoteBankRequest src k addr x) s = .next { s1 with
        hub := { s1.hub with outbox := s1.hub.outbox ++
          [{ type := 0x0A, dst := src, addr := s.cellHere addr, op := 0, data := [], operands := [v] }] } }) ∧
    (∀ (k : Fin 6) s1, (regionOf (cellAddr (s.cellHere addr))).isBank = true →
      (bankRequest k.val (s.cellHere addr) x).run s = .ok none s1 → exec (.remoteBankRequest src k addr x) s = .next { s1 with
        hub := { s1.hub with outbox := s1.hub.outbox ++
          [{ type := 5, dst := src, addr := s.cellHere addr, op := 0, data := [], operands := [4] }] } }) ∧
    (t.opAt 5 0 = none → exec (.ackPacket c 5 0 4) s = .next (s.setStrand c.val t.unanswered)) ∧
    ∀ d r, t.awaitsBank = d :: r → exec (.remoteBankReply c x) s =
      .next (s.setStrand c.val { t with awaitsBank := r, returns := t.returns ++ [(d, x)] }.answered)

/-- 02 R48-R51, Table 8: the home of a read-duplicate page collapses it for a writer, ends the collapse with the last ACK, transfers it
to the next writer; a holder invalidates, splits or points its leaf as it is told, and answers ACK. -/
def Claims.ReadDuplicates : Prop :=
  ∀ (s : State) (page key : Nat) (r : RdPage) (w h x : ModNum) (q : List ModNum) (ptbase va : Word) (table frame pte : Nat) (l : Word)
      (n : Nat),
    let told := fun (u : State) (ps : List (ModNum × Word)) => u.hub.outbox = s.hub.outbox ++ ps.map fun p =>
      { type := 9, dst := p.1, addr := key, op := 0, data := [], operands := [p.2] }
    let ack := fun (u : State) => u.hub.outbox = s.hub.outbox ++
      [{ type := 9, dst := h, addr := page, op := 0, data := [], operands := [1] }]
    let quiet := ∀ e ∈ s.strands, e.2.ops = [] ∧ e.2.awaitsBank = [] ∧ e.2.stores = []
    (s.hub.rdAt page = some (key, r) →
      (r.state = .shared →
        let others := (r.holders.map (·.1)).filter fun y => y != w
        others ≠ [] → ∃ u, exec (.rdWriteFaultReport page w false) s = .next u ∧ told u (others.map fun y => (y, 0)) ∧
          mapGet u.hub.rd key = some { r with state := .collapsing w, acks := others } ∧ u.mem = s.mem) ∧
      (r.state = .collapsing w → r.acks = [h] → r.of w = some (frame, pte) → cellModule pte = s.moduleNum.val →
        ∃ u, exec (.rdAckReceive page h) s = .next u ∧
          u.mem = s.mem.write pte 8 (setBit (BitVec.ofNat 64 (s.mem.read pte 8)) 7 false).toNat ∧
          mapGet u.hub.rd key = some { r with state := .owned w, acks := [], released := [w] }) ∧
      (r.state = .owned w → r.queue = x :: q →
        ∃ u, exec (.rdReleasedRetired page w) s = .next u ∧ told u [(w, 0)] ∧ u.mem = s.mem ∧
          (mapGet u.hub.rd key).map (fun y => (y.state, y.queue, y.acks)) = some (.transfer w x, q, [w])) ∧
      (r.state = .owned w → h ≠ w → r.of h = some (table, pte) → r.of w = some (frame, n) →
        cellModule pte = s.moduleNum.val → leafV (BitVec.ofNat 64 (s.mem.read pte 8)) = false →
        ∃ u, exec (.rdFormerHolderFault page h ptbase va) s = .next u ∧
          u.mem = s.mem.write pte 8 (pointTo (BitVec.ofNat 64 (s.mem.read pte 8)) w frame).toNat)) ∧
    (quiet → s.walkPage ptbase va.toNat = .leaf l n pte → cellModule pte = s.moduleNum.val →
      (∃ u, exec (.rdInvReceive h page ptbase va) s = .next u ∧ u.mem = s.mem.write pte 8 (setBit l 0 false).toNat ∧ ack u) ∧
      (n = 0x200000 → tableOk table 256 = true →
        ∃ u, exec (.rdSplitReceive h page ptbase va table) s = .next u ∧ u.mem.read pte 8 = (table + 1) % 2 ^ 64 ∧ ack u))

/-- Packets of other modules on this one, and read-duplicate pages. Packet operands and answers follow logs 52, 55, 68 and 69. -/
def Obligations.PacketsOfOtherModules : Prop :=
  Claims.MemoryPackets ∧ Claims.OperationPackets ∧ Claims.ReadDuplicates

/-- 17 R411-R416, R418: an uncorrectable error waits for its retry; a transient one is recorded; a lasting one in DRAM makes its line lost
under the SEQ of its LOSTUNIT entry; a link that retrains loses a lane, and one that cannot is disabled, or stops the dies. Corners follow logs 50, 51 and 52. -/
def Obligations.ErrorEvents : Prop :=
  ∀ (s : State) (st : BitVec 8) (place : BitVec 32) (addr : Nat) (c : Option Ctx) (el : BitVec 16) (e : ErrorEvent)
      (r : List ErrorEvent) (port : BitVec 8),
    let h := s.hub
    let out := mapGetD h.links port.toNat 0
    (st = 0 ∨ 0x0F < st.toNat → exec (.uncorrectableError st place addr c el) s = .next s) ∧
    (st ≠ 0 → st.toNat ≤ 0x0F → ∃ u, exec (.uncorrectableError st place addr c el) s = .next u ∧ u.mem = s.mem ∧
      u.strands = s.strands ∧ u.hub.errors = h.errors ++
        [{ struct := st, place := place, addr := addr, ctx := c, elem := el, seq := none }]) ∧
    (h.errors = e :: r → e.seq = none → h.frz = false → h.tuff = [] →
      (∃ u, exec (.errorRetryResult true) s = .next u ∧ u.mem = s.mem ∧ u.strands = s.strands ∧ u.hub.errors = r ∧
        ∃ y, mapGet u.hub.tuff (h.tuffSeq % 8192) = some y ∧ y.type = 1 ∧ y.sev = 1 ∧ y.struct = e.struct ∧ y.place = e.place ∧
          y.time = s.time) ∧
      ∀ k off, e.struct = 8 → e.ctx = none → regionOf (cellAddr (s.cellHere e.addr / 256 * 256)) = .dram k off →
        (s.stack k).lost = [] →
        ∃ u, exec (.errorRetryResult false) s = .next u ∧ u.mem = s.mem ∧ u.strands = s.strands ∧ u.hub.errors = r ∧
          (u.stack k).lost = [(s.cellHere e.addr / 256 * 256, 8, h.tuffSeq + 1)]) ∧
    (h.frz = false → h.tuff = [] → ∃ u, exec (.linkCrcResend port) s = .next u ∧ u.mem = s.mem ∧ u.strands = s.strands ∧
      u.hub.tuffSeq = h.tuffSeq + 1) ∧
    (out < 256 → ∃ u, exec (.linkRetrain port true) s = .next u ∧ u.mem = s.mem ∧ u.strands = s.strands ∧
      mapGetD u.hub.links port.toNat 0 = out + 1) ∧
    (out < 256 → port.toNat < 24 → (∀ y ∈ s.strands, y.1 < 32768) → ∃ u, exec (.linkRetrain port false) s = .next u ∧ u.mem = s.mem ∧
      256 ≤ mapGetD u.hub.links port.toNat 0) ∧
    (out < 256 → 24 ≤ port.toNat → h.frz = false → ∃ u, exec (.linkRetrain port false) s = .next u ∧ u.mem = s.mem ∧ u.hub.frozen = true)
end

