-- ==== Sys2Proof/Laws/State.lean ====
section
/-! SUPPORT. What reading a part of State gives after a change of a part: one lemma for each accessor over each setter, and the
laws of the maps that hold the parts. -/

namespace Sys2Proof.Machine

/-! The maps. -/

@[simp] theorem mapGet_mapSet_same {α : Type} (m : List (Nat × α)) (k : Nat) (v : α) : mapGet (mapSet m k v) k = some v := by
  induction m with
  | nil => simp [mapSet, mapGet]
  | cons e r ih =>
    unfold mapSet
    split
    · simp [mapGet]
    · split
      · simp [mapGet]
      · rename_i h _
        simp [mapGet, h, ih]

theorem mapGet_mapSet_other {α : Type} (m : List (Nat × α)) {k j : Nat} (v : α) (h : j ≠ k) :
    mapGet (mapSet m k v) j = mapGet m j := by
  induction m with
  | nil => simp [mapSet, mapGet, Ne.symm h]
  | cons e r ih =>
    unfold mapSet
    split
    · rename_i he
      have : e.1 ≠ j := by rw [he]; exact Ne.symm h
      simp [mapGet, this, Ne.symm h]
    · split
      · simp [mapGet, Ne.symm h]
      · simp only [mapGet, ih]

@[simp] theorem mapSet_mapSet_same {α : Type} (m : List (Nat × α)) (k : Nat) (v w : α) :
    mapSet (mapSet m k v) k w = mapSet m k w := by
  induction m with
  | nil => simp [mapSet]
  | cons e r ih =>
    by_cases h1 : e.1 = k
    · simp [mapSet, h1]
    · by_cases h2 : k < e.1
      · simp [mapSet, h1, h2]
      · simp [mapSet, h1, h2, ih]

/-! The strands. -/

@[simp] theorem State.strand?_setStrand (s : State) (c : Nat) (t : Strand) : (s.setStrand c t).strand? c = some t :=
  mapGet_mapSet_same _ _ _

theorem State.strand?_setStrand_other (s : State) {c j : Nat} (t : Strand) (h : j ≠ c) :
    (s.setStrand c t).strand? j = s.strand? j := mapGet_mapSet_other _ _ h

@[simp] theorem State.setStrand_setStrand (s : State) (c : Nat) (t u : Strand) :
    (s.setStrand c t).setStrand c u = s.setStrand c u := by
  simp [State.setStrand]

@[simp] theorem State.setStrand_turn (s : State) (c : Nat) (t : Strand) : (s.setStrand c t).turn = s.turn := rfl
@[simp] theorem State.setStrand_mem (s : State) (c : Nat) (t : Strand) : (s.setStrand c t).mem = s.mem := rfl
@[simp] theorem State.setStrand_flash (s : State) (c : Nat) (t : Strand) : (s.setStrand c t).flash = s.flash := rfl
@[simp] theorem State.setStrand_hub (s : State) (c : Nat) (t : Strand) : (s.setStrand c t).hub = s.hub := rfl
@[simp] theorem State.setStrand_time (s : State) (c : Nat) (t : Strand) : (s.setStrand c t).time = s.time := rfl
@[simp] theorem State.setStrand_fresh (s : State) (c : Nat) (t : Strand) : (s.setStrand c t).fresh = s.fresh := rfl
@[simp] theorem State.setStrand_agenda (s : State) (c : Nat) (t : Strand) : (s.setStrand c t).agenda = s.agenda := rfl
@[simp] theorem State.setStrand_moduleNum (s : State) (c : Nat) (t : Strand) :
    (s.setStrand c t).moduleNum = s.moduleNum := rfl
@[simp] theorem State.setStrand_core (s : State) (c : Nat) (t : Strand) (n : Nat) :
    (s.setStrand c t).core n = s.core n := rfl
@[simp] theorem State.setStrand_quad (s : State) (c : Nat) (t : Strand) (n : Nat) :
    (s.setStrand c t).quad n = s.quad n := rfl
@[simp] theorem State.setStrand_die (s : State) (c : Nat) (t : Strand) (n : Nat) : (s.setStrand c t).die n = s.die n := rfl
@[simp] theorem State.setStrand_stack (s : State) (c : Nat) (t : Strand) (n : Nat) :
    (s.setStrand c t).stack n = s.stack n := rfl
@[simp] theorem State.setStrand_cc (s : State) (c : Nat) (t : Strand) (n : Nat) : (s.setStrand c t).cc n = s.cc n := rfl

/-! The cores. -/

@[simp] theorem State.core_setCore (s : State) (n : Nat) (k : Core) : (s.setCore n k).core n = k := by
  simp [State.core, State.setCore, mapGetD]

theorem State.core_setCore_other (s : State) {n j : Nat} (k : Core) (h : j ≠ n) : (s.setCore n k).core j = s.core j := by
  simp [State.core, State.setCore, mapGetD, mapGet_mapSet_other _ _ h]

@[simp] theorem State.setCore_setCore (s : State) (n : Nat) (k l : Core) : (s.setCore n k).setCore n l = s.setCore n l := by
  simp [State.setCore]

@[simp] theorem State.setCore_strand? (s : State) (n : Nat) (k : Core) (c : Nat) :
    (s.setCore n k).strand? c = s.strand? c := rfl
@[simp] theorem State.setCore_turn (s : State) (n : Nat) (k : Core) : (s.setCore n k).turn = s.turn := rfl
@[simp] theorem State.setCore_mem (s : State) (n : Nat) (k : Core) : (s.setCore n k).mem = s.mem := rfl
@[simp] theorem State.setCore_hub (s : State) (n : Nat) (k : Core) : (s.setCore n k).hub = s.hub := rfl
@[simp] theorem State.setCore_quad (s : State) (n : Nat) (k : Core) (j : Nat) : (s.setCore n k).quad j = s.quad j := rfl
@[simp] theorem State.setCore_die (s : State) (n : Nat) (k : Core) (j : Nat) : (s.setCore n k).die j = s.die j := rfl
@[simp] theorem State.setCore_stack (s : State) (n : Nat) (k : Core) (j : Nat) : (s.setCore n k).stack j = s.stack j := rfl
@[simp] theorem State.setCore_cc (s : State) (n : Nat) (k : Core) (j : Nat) : (s.setCore n k).cc j = s.cc j := rfl
@[simp] theorem State.setCore_moduleNum (s : State) (n : Nat) (k : Core) : (s.setCore n k).moduleNum = s.moduleNum := rfl

/-! The quads. -/

@[simp] theorem State.quad_setQuad (s : State) (n : Nat) (q : Quad) : (s.setQuad n q).quad n = q := by
  simp [State.quad, State.setQuad, mapGetD]

theorem State.quad_setQuad_other (s : State) {n j : Nat} (q : Quad) (h : j ≠ n) : (s.setQuad n q).quad j = s.quad j := by
  simp [State.quad, State.setQuad, mapGetD, mapGet_mapSet_other _ _ h]

@[simp] theorem State.setQuad_strand? (s : State) (n : Nat) (q : Quad) (c : Nat) :
    (s.setQuad n q).strand? c = s.strand? c := rfl
@[simp] theorem State.setQuad_turn (s : State) (n : Nat) (q : Quad) : (s.setQuad n q).turn = s.turn := rfl
@[simp] theorem State.setQuad_mem (s : State) (n : Nat) (q : Quad) : (s.setQuad n q).mem = s.mem := rfl
@[simp] theorem State.setQuad_hub (s : State) (n : Nat) (q : Quad) : (s.setQuad n q).hub = s.hub := rfl
@[simp] theorem State.setQuad_core (s : State) (n : Nat) (q : Quad) (j : Nat) : (s.setQuad n q).core j = s.core j := rfl

/-! The dies. -/

@[simp] theorem State.die_setDie (s : State) (n : Nat) (d : DieState) : (s.setDie n d).die n = d := by
  simp [State.die, State.setDie, mapGetD]

theorem State.die_setDie_other (s : State) {n j : Nat} (d : DieState) (h : j ≠ n) : (s.setDie n d).die j = s.die j := by
  simp [State.die, State.setDie, mapGetD, mapGet_mapSet_other _ _ h]

@[simp] theorem State.setDie_strand? (s : State) (n : Nat) (d : DieState) (c : Nat) :
    (s.setDie n d).strand? c = s.strand? c := rfl
@[simp] theorem State.setDie_turn (s : State) (n : Nat) (d : DieState) : (s.setDie n d).turn = s.turn := rfl
@[simp] theorem State.setDie_mem (s : State) (n : Nat) (d : DieState) : (s.setDie n d).mem = s.mem := rfl
@[simp] theorem State.setDie_hub (s : State) (n : Nat) (d : DieState) : (s.setDie n d).hub = s.hub := rfl
@[simp] theorem State.setDie_core (s : State) (n : Nat) (d : DieState) (j : Nat) : (s.setDie n d).core j = s.core j := rfl

/-! The stacks. -/

@[simp] theorem State.stack_setStack (s : State) (n : Nat) (k : Stack) : (s.setStack n k).stack n = k := by
  simp [State.stack, State.setStack, mapGetD]

theorem State.stack_setStack_other (s : State) {n j : Nat} (k : Stack) (h : j ≠ n) :
    (s.setStack n k).stack j = s.stack j := by
  simp [State.stack, State.setStack, mapGetD, mapGet_mapSet_other _ _ h]

@[simp] theorem State.setStack_strand? (s : State) (n : Nat) (k : Stack) (c : Nat) :
    (s.setStack n k).strand? c = s.strand? c := rfl
@[simp] theorem State.setStack_turn (s : State) (n : Nat) (k : Stack) : (s.setStack n k).turn = s.turn := rfl
@[simp] theorem State.setStack_mem (s : State) (n : Nat) (k : Stack) : (s.setStack n k).mem = s.mem := rfl
@[simp] theorem State.setStack_hub (s : State) (n : Nat) (k : Stack) : (s.setStack n k).hub = s.hub := rfl
@[simp] theorem State.setStack_core (s : State) (n : Nat) (k : Stack) (j : Nat) :
    (s.setStack n k).core j = s.core j := rfl

/-! The control complex. -/

@[simp] theorem State.cc_setCc (s : State) (n : Nat) (k : CcCore) : (s.setCc n k).cc n = k := by
  simp [State.cc, State.setCc, mapGetD]

theorem State.cc_setCc_other (s : State) {n j : Nat} (k : CcCore) (h : j ≠ n) : (s.setCc n k).cc j = s.cc j := by
  simp [State.cc, State.setCc, mapGetD, mapGet_mapSet_other _ _ h]

@[simp] theorem State.setCc_setCc (s : State) (n : Nat) (k l : CcCore) : (s.setCc n k).setCc n l = s.setCc n l := by
  simp [State.setCc]

@[simp] theorem State.setCc_strand? (s : State) (n : Nat) (k : CcCore) (c : Nat) :
    (s.setCc n k).strand? c = s.strand? c := rfl
@[simp] theorem State.setCc_turn (s : State) (n : Nat) (k : CcCore) : (s.setCc n k).turn = s.turn := rfl
@[simp] theorem State.setCc_mem (s : State) (n : Nat) (k : CcCore) : (s.setCc n k).mem = s.mem := rfl
@[simp] theorem State.setCc_hub (s : State) (n : Nat) (k : CcCore) : (s.setCc n k).hub = s.hub := rfl
@[simp] theorem State.setCc_core (s : State) (n : Nat) (k : CcCore) (j : Nat) : (s.setCc n k).core j = s.core j := rfl

end Sys2Proof.Machine
end

