-- ==== Sys2Proof/Laws/Cells.lean ====
section
/-! SUPPORT. Memory as a list of cells: every operation keeps the canonical form, a byte written is read back, and a write
leaves every other byte alone. -/

namespace Sys2Proof.Machine

/-- The canonical form in words: addresses rising, no zero listed. -/
theorem Cells.wf_iff (m : Cells) :
    m.wf = true ↔ m.Pairwise (fun x y => x.1 < y.1) ∧ ∀ e ∈ m, e.2 ≠ 0 := by
  induction m with
  | nil => simp [Cells.wf]
  | cons e r ih =>
    cases r with
    | nil => simp [Cells.wf]
    | cons f q =>
      simp only [Cells.wf, Bool.and_eq_true, bne_iff_ne, ne_eq, decide_eq_true_eq] at ih ⊢
      rw [ih]
      constructor
      · rintro ⟨⟨h0, h1⟩, hp, hn⟩
        refine ⟨List.pairwise_cons.2 ⟨fun y hy => ?_, hp⟩, fun y hy => ?_⟩
        · rcases List.mem_cons.1 hy with rfl | hy
          · exact h1
          · exact Nat.lt_trans h1 ((List.pairwise_cons.1 hp).1 y hy)
        · rcases List.mem_cons.1 hy with rfl | hy
          · exact h0
          · exact hn y hy
      · rintro ⟨hp, hn⟩
        have hp' := List.pairwise_cons.1 hp
        exact ⟨⟨hn e (by simp), hp'.1 f (by simp)⟩, hp'.2, fun y hy => hn y (List.mem_cons_of_mem _ hy)⟩

/-- Dropping entries keeps the form. -/
theorem Cells.wf_filter {m : Cells} (h : m.wf = true) (p : Nat × Byte → Bool) : Cells.wf (m.filter p) = true := by
  rw [Cells.wf_iff] at h ⊢
  exact ⟨h.1.filter p, fun e he => h.2 e (List.mem_filter.1 he).1⟩

theorem Cells.mem_mapSet {α : Type} {m : List (Nat × α)} {k : Nat} {v : α} {e : Nat × α} (h : e ∈ mapSet m k v) :
    e = (k, v) ∨ e ∈ m := by
  induction m with
  | nil => exact Or.inl (by simpa [mapSet] using h)
  | cons f r ih =>
    simp only [mapSet] at h
    split at h
    · rcases List.mem_cons.1 h with h | h
      · exact Or.inl h
      · exact Or.inr (List.mem_cons_of_mem _ h)
    · split at h
      · rcases List.mem_cons.1 h with h | h
        · exact Or.inl h
        · exact Or.inr h
      · rcases List.mem_cons.1 h with h | h
        · exact Or.inr (by simp [h])
        · exact (ih h).imp_right (List.mem_cons_of_mem _)

theorem Cells.wf_mapSet {m : Cells} (h : m.wf = true) (k : Nat) {v : Byte} (hv : v ≠ 0) : Cells.wf (mapSet m k v) = true := by
  rw [Cells.wf_iff] at h ⊢
  refine ⟨?_, fun e he => ?_⟩
  · obtain ⟨h, -⟩ := h
    induction m with
    | nil => simp [mapSet]
    | cons f r ih =>
      have hc := List.pairwise_cons.1 h
      simp only [mapSet]
      split
      · next hk => exact List.pairwise_cons.2 ⟨fun y hy => hk ▸ hc.1 y hy, hc.2⟩
      · split
        · next hk =>
          refine List.pairwise_cons.2 ⟨fun y hy => ?_, h⟩
          rcases List.mem_cons.1 hy with rfl | hy
          · exact hk
          · exact Nat.lt_trans hk (hc.1 y hy)
        · next h1 h2 =>
          refine List.pairwise_cons.2 ⟨fun y hy => ?_, ih hc.2⟩
          rcases Cells.mem_mapSet hy with rfl | hy
          · show f.1 < k
            omega
          · exact hc.1 y hy
  · rcases Cells.mem_mapSet he with rfl | he
    · exact hv
    · exact h.2 e he

/-- Writing a byte keeps the form. -/
theorem Cells.wf_set {m : Cells} (h : m.wf = true) (a : Nat) (b : Byte) : (m.set a b).wf = true := by
  unfold Cells.set
  split
  · exact Cells.wf_filter h _
  · next hb => exact Cells.wf_mapSet h a hb

/-- Writing bytes keeps the form. -/
theorem Cells.wf_write {m : Cells} (h : m.wf = true) (a n v : Nat) : (m.write a n v).wf = true := by
  induction n generalizing m a v with
  | zero => exact h
  | succ n ih => exact ih (Cells.wf_set h a _) _ _

/-- Writing bytes one after the other keeps the form. -/
theorem Cells.wf_foldl {α : Type} {m : Cells} (h : m.wf = true) (l : List α) {f : Cells → α → Cells}
    (hf : ∀ (m : Cells) (x : α), m.wf = true → (f m x).wf = true) : (l.foldl f m).wf = true := by
  induction l generalizing m with
  | nil => exact h
  | cons x r ih => exact ih (hf m x h)

theorem mapGet_mapErase_same {α : Type} (m : List (Nat × α)) (k : Nat) : mapGet (mapErase m k) k = none := by
  induction m with
  | nil => rfl
  | cons e r ih =>
    unfold mapErase at ih ⊢
    by_cases h : e.1 = k
    · simpa [h] using ih
    · simpa [h, mapGet] using ih

theorem mapGet_mapErase_other {α : Type} (m : List (Nat × α)) {k j : Nat} (h : j ≠ k) :
    mapGet (mapErase m k) j = mapGet m j := by
  induction m with
  | nil => rfl
  | cons e r ih =>
    unfold mapErase at ih ⊢
    by_cases he : e.1 = k
    · have : e.1 ≠ j := fun hj => h (hj.symm.trans he)
      simpa [he, mapGet, this, h.symm] using ih
    · by_cases hj : e.1 = j
      · simp [mapGet, hj, h]
      · simpa [he, mapGet, hj] using ih

/-- A byte written is read back. -/
@[simp] theorem Cells.get_set_same (m : Cells) (a : Nat) (b : Byte) : (m.set a b).get a = b := by
  unfold Cells.set Cells.get mapGetD
  split
  · next h => simp [mapGet_mapErase_same, h]
  · simp

/-- A write leaves every other byte alone. -/
theorem Cells.get_set_other (m : Cells) {a j : Nat} (b : Byte) (h : j ≠ a) : (m.set a b).get j = m.get j := by
  unfold Cells.set Cells.get mapGetD
  split
  · rw [mapGet_mapErase_other m h]
  · rw [mapGet_mapSet_other m b h]

/-- A write of n bytes leaves the bytes outside alone. -/
theorem Cells.get_write_outside (m : Cells) (a n v : Nat) {j : Nat} (h : j < a ∨ a + n ≤ j) : (m.write a n v).get j = m.get j := by
  induction n generalizing m a v with
  | zero => rfl
  | succ n ih =>
    rw [Cells.write, ih _ _ _ (by omega), Cells.get_set_other _ _ (by omega)]

/-- A write of n bytes puts the bytes of its number, least significant first (R2). -/
theorem Cells.get_write_inside (m : Cells) (a n v : Nat) {i : Nat} (h : i < n) :
    (m.write a n v).get (a + i) = BitVec.ofNat 8 (v / 256 ^ i) := by
  induction n generalizing m a v i with
  | zero => omega
  | succ n ih =>
    rw [Cells.write]
    cases i with
    | zero => rw [Cells.get_write_outside _ _ _ _ (by omega)]; simp
    | succ i =>
      have := ih (m.set a (BitVec.ofNat 8 v)) (a + 1) (v / 256) (i := i) (by omega)
      rw [show a + (i + 1) = a + 1 + i by omega, this, Nat.div_div_eq_div_mul, Nat.pow_succ, Nat.mul_comm 256]

/-- What n bytes read is below 256 to the n. -/
theorem Cells.read_lt (m : Cells) (a n : Nat) : m.read a n < 256 ^ n := by
  induction n generalizing a with
  | zero => simp [Cells.read]
  | succ n ih =>
    have h1 := ih (a + 1)
    have h2 := (m.get a).isLt
    rw [Cells.read, Nat.pow_succ]
    omega

/-- Bytes written are read back as the number's low bytes. -/
theorem Cells.read_write (m : Cells) (a n v : Nat) : (m.write a n v).read a n = v % 256 ^ n := by
  have key : ∀ (k b : Nat) (w : Nat) (m : Cells), (∀ i, i < k → m.get (b + i) = BitVec.ofNat 8 (w / 256 ^ i)) →
      m.read b k = w % 256 ^ k := by
    intro k
    induction k with
    | zero => intro b w m _; simp [Cells.read, Nat.mod_one]
    | succ k ih =>
      intro b w m h
      have h0 := h 0 (by omega)
      have hr := ih (b + 1) (w / 256) m (fun i hi => by
        rw [show b + 1 + i = b + (i + 1) by omega, h (i + 1) (by omega), Nat.div_div_eq_div_mul, Nat.pow_succ, Nat.mul_comm 256])
      rw [Cells.read, hr, show m.get b = BitVec.ofNat 8 w by simpa using h0, Nat.pow_succ, Nat.mul_comm (256 ^ k) 256,
        Nat.mod_mul]
      simp
  exact key n a v _ fun i hi => Cells.get_write_inside m a n v hi

/-- Reading bytes that a write does not touch. -/
theorem Cells.read_write_outside (m : Cells) (a n v b k : Nat) (h : b + k ≤ a ∨ a + n ≤ b) :
    (m.write a n v).read b k = m.read b k := by
  induction k generalizing b with
  | zero => rfl
  | succ k ih => rw [Cells.read, Cells.read, ih (b + 1) (by omega), Cells.get_write_outside _ _ _ _ (by omega)]

/-! The whole state. -/

/-- The memory and the flash of a module after reset are in canonical form. -/
theorem State.reset_memOk : State.reset.memOk = true := by decide

theorem State.writeCell_memOk {s : State} (h : s.memOk = true) (cell n v : Nat) : (s.writeCell cell n v).memOk = true := by
  simp only [State.memOk, Bool.and_eq_true] at h ⊢
  exact ⟨Cells.wf_write h.1 _ _ _, h.2⟩

theorem State.poke_memOk {s : State} (h : s.memOk = true) (a n v : Nat) : (s.poke a n v).memOk = true := by
  simp only [State.memOk, Bool.and_eq_true] at h ⊢
  exact ⟨Cells.wf_write h.1 _ _ _, h.2⟩

/-- The flash of a booted image is in canonical form. -/
theorem flashWith_wf (l : List Byte) : (flashWith l).wf = true :=
  Cells.wf_foldl (by decide) _ fun _ x h => Cells.wf_set h _ x.1

@[simp] theorem State.memOk_setStrand (s : State) (c : Nat) (t : Strand) : (s.setStrand c t).memOk = s.memOk := rfl
@[simp] theorem State.memOk_setCore (s : State) (n : Nat) (k : Core) : (s.setCore n k).memOk = s.memOk := rfl
@[simp] theorem State.memOk_setQuad (s : State) (n : Nat) (q : Quad) : (s.setQuad n q).memOk = s.memOk := rfl
@[simp] theorem State.memOk_setDie (s : State) (n : Nat) (d : DieState) : (s.setDie n d).memOk = s.memOk := rfl
@[simp] theorem State.memOk_setStack (s : State) (n : Nat) (k : Stack) : (s.setStack n k).memOk = s.memOk := rfl
@[simp] theorem State.memOk_setCc (s : State) (n : Nat) (k : CcCore) : (s.setCc n k).memOk = s.memOk := rfl

/-- Clearing reservations changes no memory. -/
@[simp] theorem State.clearResv_mem (s : State) (cell n : Nat) : (s.clearResv cell n).mem = s.mem := rfl
@[simp] theorem State.clearResv_hub (s : State) (cell n : Nat) : (s.clearResv cell n).hub = s.hub := rfl
@[simp] theorem State.writeCell_mem (s : State) (cell n v : Nat) : (s.writeCell cell n v).mem = s.mem.write cell n v := rfl
@[simp] theorem State.writeCell_hub (s : State) (cell n v : Nat) : (s.writeCell cell n v).hub = s.hub := rfl
@[simp] theorem State.writeCell_core (s : State) (cell n v k : Nat) : (s.writeCell cell n v).core k = s.core k := rfl
@[simp] theorem State.writeCell_turn (s : State) (cell n v : Nat) : (s.writeCell cell n v).turn = s.turn := rfl

end Sys2Proof.Machine
end

