-- ==== Sys2Proof/Laws/PerInstr.lean ====
section
/-! SUPPORT. Encoding and decoding agree, one lemma per constructor of Instr (R184-R189). -/

set_option linter.unusedSimpArgs false

namespace Sys2Proof.Laws

open Sys2Proof.Machine

/-- The family: an instruction that has a word of its own and whose operands its encoding admits is read back, with every
operand, from that word. -/
def Roundtrip.Statement (i : Instr) : Prop :=
  hasOwnWord i = true → i.wf = true → decodeWord (encode i) = .ok i

theorem Roundtrip.of_raw (i : Instr) (h : decodeRaw (encode i) = some i) : Roundtrip.Statement i := by
  intro _ hw
  simp only [decodeWord, h, hw, if_true]

theorem Roundtrip.of_none (i : Instr) (h : hasOwnWord i = false) : Roundtrip.Statement i := by
  intro hw
  rw [h] at hw
  cases hw

/-- Every value of a list of fields fits its width. -/
def packFits : List (Nat × Nat) → Prop
  | [] => True
  | f :: r => f.1 < 2 ^ f.2 ∧ packFits r

/-- Every field of a list reads back from a word. -/
def packReads (w : Nat) : List (Nat × Nat) → Prop
  | [] => True
  | f :: r => wordBits w (packWidth r) f.2 = f.1 ∧ packReads w r

theorem pack_lt {l : List (Nat × Nat)} (h : packFits l) : packWord l < 2 ^ packWidth l := by
  induction l with
  | nil => exact Nat.one_pos
  | cons f r ih =>
    have h1 := h.1
    have h2 := ih h.2
    show f.1 * 2 ^ packWidth r + packWord r < 2 ^ (f.2 + packWidth r)
    rw [Nat.pow_add]
    calc f.1 * 2 ^ packWidth r + packWord r < f.1 * 2 ^ packWidth r + 2 ^ packWidth r := by omega
      _ = (f.1 + 1) * 2 ^ packWidth r := by rw [Nat.add_mul, Nat.one_mul]
      _ ≤ 2 ^ f.2 * 2 ^ packWidth r := Nat.mul_le_mul_right _ h1

/-- Fields below a multiple of their room read the same. -/
theorem packReads_add {l : List (Nat × Nat)} {w : Nat} (k n : Nat) (hn : packWidth l ≤ n) (h : packReads w l) :
    packReads (k * 2 ^ n + w) l := by
  induction l with
  | nil => exact trivial
  | cons f r ih =>
    have hn' : f.2 + packWidth r ≤ n := hn
    refine ⟨?_, ih (by omega) h.2⟩
    rw [← h.1]
    unfold wordBits
    obtain ⟨m, rfl⟩ : ∃ m, n = packWidth r + (f.2 + m) := ⟨n - (f.2 + packWidth r), by omega⟩
    rw [Nat.pow_add, Nat.pow_add, show k * (2 ^ packWidth r * (2 ^ f.2 * 2 ^ m)) = 2 ^ packWidth r * (2 ^ f.2 * (2 ^ m * k)) by
      rw [Nat.mul_comm k]; simp only [Nat.mul_assoc], Nat.mul_add_div (Nat.two_pow_pos _), Nat.mul_add_mod]

theorem pack_fields {l : List (Nat × Nat)} (h : packFits l) : packReads (packWord l) l := by
  induction l with
  | nil => exact trivial
  | cons f r ih =>
    have hr := pack_lt h.2
    refine ⟨?_, packReads_add f.1 _ (Nat.le_refl _) (ih h.2)⟩
    show (f.1 * 2 ^ packWidth r + packWord r) / 2 ^ packWidth r % 2 ^ f.2 = f.1
    rw [Nat.mul_comm, Nat.mul_add_div (Nat.two_pow_pos _), Nat.div_eq_of_lt hr, Nat.add_zero, Nat.mod_eq_of_lt h.1]

theorem ofNat_bits {n w : Nat} (x : BitVec n) (h : w = x.toNat) : BitVec.ofNat n w = x := by
  rw [h]; simp

theorem bool_bits {w : Nat} (x : Bool) (h : w = x.toNat) : (w == 1) = x := by
  rw [h]; cases x <;> rfl

theorem decodeRaw_00 {w : Nat} (h : wordBits w 25 7 = 0x00) : decodeRaw w = decodeMajor00 w := by
  unfold decodeRaw; rw [h]; try rfl

theorem decodeRaw_01 {w : Nat} (h : wordBits w 25 7 = 0x01) : decodeRaw w = decodeMajor01 w := by
  unfold decodeRaw; rw [h]; try rfl

theorem decodeRaw_02 {w : Nat} (h : wordBits w 25 7 = 0x02) : decodeRaw w = decodeMajor02 w := by
  unfold decodeRaw; rw [h]; try rfl

theorem decodeRaw_03 {w : Nat} (h : wordBits w 25 7 = 0x03) : decodeRaw w = decodeMajor03 w := by
  unfold decodeRaw; rw [h]; try rfl

theorem decodeRaw_04 {w : Nat} (h : wordBits w 25 7 = 0x04) : decodeRaw w = decodeMajor04 w := by
  unfold decodeRaw; rw [h]; try rfl

theorem decodeRaw_05 {w : Nat} (h : wordBits w 25 7 = 0x05) : decodeRaw w = decodeMajor05 w := by
  unfold decodeRaw; rw [h]; try rfl

theorem decodeRaw_06 {w : Nat} (h : wordBits w 25 7 = 0x06) : decodeRaw w = decodeMajor06 w := by
  unfold decodeRaw; rw [h]; try rfl

theorem decodeRaw_07 {w : Nat} (h : wordBits w 25 7 = 0x07) : decodeRaw w = decodeMajor07 w := by
  unfold decodeRaw; rw [h]; try rfl

theorem decodeRaw_08 {w : Nat} (h : wordBits w 25 7 = 0x08) : decodeRaw w = decodeMajor08 w := by
  unfold decodeRaw; rw [h]; try rfl

theorem decodeRaw_09 {w : Nat} (h : wordBits w 25 7 = 0x09) : decodeRaw w = decodeMajor09 w := by
  unfold decodeRaw; rw [h]; try rfl

theorem decodeRaw_0A {w : Nat} (h : wordBits w 25 7 = 0x0A) : decodeRaw w = decodeMajor0A w := by
  unfold decodeRaw; rw [h]; try rfl

theorem decodeRaw_0B {w : Nat} (h : wordBits w 25 7 = 0x0B) : decodeRaw w = decodeMajor0B w := by
  unfold decodeRaw; rw [h]; try rfl

theorem decodeRaw_0C {w : Nat} (h : wordBits w 25 7 = 0x0C) : decodeRaw w = decodeMajor0C w := by
  unfold decodeRaw; rw [h]; try rfl

theorem decodeRaw_0D {w : Nat} (h : wordBits w 25 7 = 0x0D) : decodeRaw w = decodeMajor0D w := by
  unfold decodeRaw; rw [h]; try rfl

theorem decodeRaw_0E {w : Nat} (h : wordBits w 25 7 = 0x0E) : decodeRaw w = decodeMajor0E w := by
  unfold decodeRaw; rw [h]; try rfl

theorem decodeRaw_0F {w : Nat} (h : wordBits w 25 7 = 0x0F) : decodeRaw w = decodeMajor0F w := by
  unfold decodeRaw; rw [h]; try rfl

theorem decodeRaw_10 {w : Nat} (h : wordBits w 25 7 = 0x10) : decodeRaw w = decodeMajor10 w := by
  unfold decodeRaw; rw [h]; try rfl

theorem decodeRaw_11 {w : Nat} (h : wordBits w 25 7 = 0x11) : decodeRaw w = decodeMajor11 w := by
  unfold decodeRaw; rw [h]; try rfl

theorem decodeRaw_12 {w : Nat} (h : wordBits w 25 7 = 0x12) : decodeRaw w = decodeMajor12 w := by
  unfold decodeRaw; rw [h]; try rfl

theorem decodeRaw_13 {w : Nat} (h : wordBits w 25 7 = 0x13) : decodeRaw w = decodeMajor13 w := by
  unfold decodeRaw; rw [h]; try rfl

theorem decodeRaw_14 {w : Nat} (h : wordBits w 25 7 = 0x14) : decodeRaw w = decodeMajor14 w := by
  unfold decodeRaw; rw [h]; try rfl

theorem decodeRaw_15 {w : Nat} (h : wordBits w 25 7 = 0x15) : decodeRaw w = decodeMajor15 w := by
  unfold decodeRaw; rw [h]; try rfl

theorem decodeRaw_16 {w : Nat} (h : wordBits w 25 7 = 0x16) : decodeRaw w = decodeMajor16 w := by
  unfold decodeRaw; rw [h]; try rfl

theorem decodeRaw_17 {w : Nat} (h : wordBits w 25 7 = 0x17) : decodeRaw w = decodeMajor17 w := by
  unfold decodeRaw; rw [h]; try rfl

theorem decodeRaw_18 {w : Nat} (h : wordBits w 25 7 = 0x18) : decodeRaw w = decodeMajor18 w := by
  unfold decodeRaw; rw [h]; try rfl

theorem decodeRaw_19 {w : Nat} (h : wordBits w 25 7 = 0x19) : decodeRaw w = decodeMajor19 w := by
  unfold decodeRaw; rw [h]; try rfl

theorem decodeRaw_1A {w : Nat} (h : wordBits w 25 7 = 0x1A) : decodeRaw w = decodeMajor1A w := by
  unfold decodeRaw; rw [h]; try rfl

theorem decodeRaw_1B {w : Nat} (h : wordBits w 25 7 = 0x1B) : decodeRaw w = decodeMajor1B w := by
  unfold decodeRaw; rw [h]; try rfl

theorem decodeRaw_1C {w : Nat} (h : wordBits w 25 7 = 0x1C) : decodeRaw w = decodeMajor1C w := by
  unfold decodeRaw; rw [h]; try rfl

theorem decodeRaw_1D {w : Nat} (h : wordBits w 25 7 = 0x1D) : decodeRaw w = decodeMajor1D w := by
  unfold decodeRaw; rw [h]; try rfl

theorem decodeRaw_1E {w : Nat} (h : wordBits w 25 7 = 0x1E) : decodeRaw w = decodeMajor1E w := by
  unfold decodeRaw; rw [h]; try rfl

theorem decodeRaw_1F {w : Nat} (h : wordBits w 25 7 = 0x1F) : decodeRaw w = decodeMajor1F w := by
  unfold decodeRaw; rw [h]; try rfl

theorem decodeRaw_20 {w : Nat} (h : wordBits w 25 7 = 0x20) : decodeRaw w = decodeMajor20 w := by
  unfold decodeRaw; rw [h]; try rfl

theorem decodeRaw_21 {w : Nat} (h : wordBits w 25 7 = 0x21) : decodeRaw w = decodeMajor21 w := by
  unfold decodeRaw; rw [h]; try rfl

theorem decodeRaw_22 {w : Nat} (h : wordBits w 25 7 = 0x22) : decodeRaw w = decodeMajor22 w := by
  unfold decodeRaw; rw [h]; try rfl

theorem decodeRaw_23 {w : Nat} (h : wordBits w 25 7 = 0x23) : decodeRaw w = decodeMajor23 w := by
  unfold decodeRaw; rw [h]; try rfl

theorem decodeRaw_24 {w : Nat} (h : wordBits w 25 7 = 0x24) : decodeRaw w = decodeMajor24 w := by
  unfold decodeRaw; rw [h]; try rfl

theorem decodeRaw_25 {w : Nat} (h : wordBits w 25 7 = 0x25) : decodeRaw w = decodeMajor25 w := by
  unfold decodeRaw; rw [h]; try rfl

theorem decodeRaw_26 {w : Nat} (h : wordBits w 25 7 = 0x26) : decodeRaw w = decodeMajor26 w := by
  unfold decodeRaw; rw [h]; try rfl

theorem decodeRaw_27 {w : Nat} (h : wordBits w 25 7 = 0x27) : decodeRaw w = decodeMajor27 w := by
  unfold decodeRaw; rw [h]; try rfl

theorem decodeRaw_28 {w : Nat} (h : wordBits w 25 7 = 0x28) : decodeRaw w = decodeMajor28 w := by
  unfold decodeRaw; rw [h]; try rfl

theorem decodeRaw_30 {w : Nat} (h : wordBits w 25 7 = 0x30) : decodeRaw w = decodeMajor30 w := by
  unfold decodeRaw; rw [h]; try rfl

theorem decodeRaw_31 {w : Nat} (h : wordBits w 25 7 = 0x31) : decodeRaw w = decodeMajor31 w := by
  unfold decodeRaw; rw [h]; try rfl

theorem decodeRaw_38 {w : Nat} (h : wordBits w 25 7 = 0x38) : decodeRaw w = decodeMajor38 w := by
  unfold decodeRaw; rw [h]; try rfl

theorem decodeRaw_3A {w : Nat} (h : wordBits w 25 7 = 0x3A) : decodeRaw w = decodeMajor3A w := by
  unfold decodeRaw; rw [h]; try rfl

theorem decodeRaw_3B {w : Nat} (h : wordBits w 25 7 = 0x3B) : decodeRaw w = decodeMajor3B w := by
  unfold decodeRaw; rw [h]; try rfl

theorem decodeRaw_3C {w : Nat} (h : wordBits w 25 7 = 0x3C) : decodeRaw w = decodeMajor3C w := by
  unfold decodeRaw; rw [h]; try rfl

theorem decodeRaw_3D {w : Nat} (h : wordBits w 25 7 = 0x3D) : decodeRaw w = decodeMajor3D w := by
  unfold decodeRaw; rw [h]; try rfl

theorem decodeRaw_3E {w : Nat} (h : wordBits w 25 7 = 0x3E) : decodeRaw w = decodeMajor3E w := by
  unfold decodeRaw; rw [h]; try rfl

theorem decodeRaw_3F {w : Nat} (h : wordBits w 25 7 = 0x3F) : decodeRaw w = decodeMajor3F w := by
  unfold decodeRaw; rw [h]; try rfl

theorem decodeRaw_40 {w : Nat} (h : wordBits w 25 7 = 0x40) : decodeRaw w = decodeMajor40 w := by
  unfold decodeRaw; rw [h]; try rfl

theorem decodeRaw_41 {w : Nat} (h : wordBits w 25 7 = 0x41) : decodeRaw w = decodeMajor41 w := by
  unfold decodeRaw; rw [h]; try rfl

theorem decodeRaw_42 {w : Nat} (h : wordBits w 25 7 = 0x42) : decodeRaw w = decodeMajor42 w := by
  unfold decodeRaw; rw [h]; try rfl

theorem decodeRaw_48 {w : Nat} (h : wordBits w 25 7 = 0x48) : decodeRaw w = decodeMajor48 w := by
  unfold decodeRaw; rw [h]; try rfl

theorem decodeRaw_49 {w : Nat} (h : wordBits w 25 7 = 0x49) : decodeRaw w = decodeMajor49 w := by
  unfold decodeRaw; rw [h]; try rfl

theorem decodeRaw_4A {w : Nat} (h : wordBits w 25 7 = 0x4A) : decodeRaw w = decodeMajor4A w := by
  unfold decodeRaw; rw [h]; try rfl

theorem decodeRaw_4B {w : Nat} (h : wordBits w 25 7 = 0x4B) : decodeRaw w = decodeMajor4B w := by
  unfold decodeRaw; rw [h]; try rfl

theorem decodeRaw_50 {w : Nat} (h : wordBits w 25 7 = 0x50) : decodeRaw w = decodeMajor50 w := by
  unfold decodeRaw; rw [h]; try rfl

theorem decodeRaw_51 {w : Nat} (h : wordBits w 25 7 = 0x51) : decodeRaw w = decodeMajor51 w := by
  unfold decodeRaw; rw [h]; try rfl

theorem decodeRaw_52 {w : Nat} (h : wordBits w 25 7 = 0x52) : decodeRaw w = decodeMajor52 w := by
  unfold decodeRaw; rw [h]; try rfl

theorem decodeRaw_53 {w : Nat} (h : wordBits w 25 7 = 0x53) : decodeRaw w = decodeMajor53 w := by
  unfold decodeRaw; rw [h]; try rfl

theorem decodeRaw_54 {w : Nat} (h : wordBits w 25 7 = 0x54) : decodeRaw w = decodeMajor54 w := by
  unfold decodeRaw; rw [h]; try rfl

theorem decodeRaw_58 {w : Nat} (h : wordBits w 25 7 = 0x58) : decodeRaw w = decodeMajor58 w := by
  unfold decodeRaw; rw [h]; try rfl

theorem decodeRaw_59 {w : Nat} (h : wordBits w 25 7 = 0x59) : decodeRaw w = decodeMajor59 w := by
  unfold decodeRaw; rw [h]; try rfl

theorem decodeRaw_5A {w : Nat} (h : wordBits w 25 7 = 0x5A) : decodeRaw w = decodeMajor5A w := by
  unfold decodeRaw; rw [h]; try rfl

theorem decodeRaw_5B {w : Nat} (h : wordBits w 25 7 = 0x5B) : decodeRaw w = decodeMajor5B w := by
  unfold decodeRaw; rw [h]; try rfl

theorem decodeRaw_5E {w : Nat} (h : wordBits w 25 7 = 0x5E) : decodeRaw w = decodeMajor5E w := by
  unfold decodeRaw; rw [h]; try rfl

theorem decodeRaw_5F {w : Nat} (h : wordBits w 25 7 = 0x5F) : decodeRaw w = decodeMajor5F w := by
  unfold decodeRaw; rw [h]; try rfl

theorem decodeRaw_60 {w : Nat} (h : wordBits w 25 7 = 0x60) : decodeRaw w = decodeMajor60 w := by
  unfold decodeRaw; rw [h]; try rfl

theorem decodeRaw_68 {w : Nat} (h : wordBits w 25 7 = 0x68) : decodeRaw w = decodeMajor68 w := by
  unfold decodeRaw; rw [h]; try rfl

theorem decodeRaw_69 {w : Nat} (h : wordBits w 25 7 = 0x69) : decodeRaw w = decodeMajor69 w := by
  unfold decodeRaw; rw [h]; try rfl

theorem decodeRaw_6A {w : Nat} (h : wordBits w 25 7 = 0x6A) : decodeRaw w = decodeMajor6A w := by
  unfold decodeRaw; rw [h]; try rfl

theorem decodeRaw_7F {w : Nat} (h : wordBits w 25 7 = 0x7F) : decodeRaw w = decodeMajor7F w := by
  unfold decodeRaw; rw [h]; try rfl

theorem Roundtrip.add (d : GReg) (a : GReg) (b : GReg) : Roundtrip.Statement (.add d a b) := by
  refine Roundtrip.of_raw _ ?_
  have hp := pack_fields (l := [(0x00, 7), (d.val, 5), (a.val, 5), (b.val, 5), (1, 10)]) ⟨by decide, d.isLt, a.isLt, b.isLt, by decide, trivial⟩
  change decodeRaw (packWord [(0x00, 7), (d.val, 5), (a.val, 5), (b.val, 5), (1, 10)]) = _
  generalize packWord [(0x00, 7), (d.val, 5), (a.val, 5), (b.val, 5), (1, 10)] = w at *
  rw [decodeRaw_00 hp.1]
  unfold decodeMajor00
  rw [show wordBits w 0 10 = 1 from hp.2.2.2.2.1,
    show wordFin 32 w 20 = d from Fin.ext hp.2.1,
    show wordFin 32 w 15 = a from Fin.ext hp.2.2.1,
    show wordFin 32 w 10 = b from Fin.ext hp.2.2.2.1]
  try rfl

theorem Roundtrip.sub (d : GReg) (a : GReg) (b : GReg) : Roundtrip.Statement (.sub d a b) := by
  refine Roundtrip.of_raw _ ?_
  have hp := pack_fields (l := [(0x00, 7), (d.val, 5), (a.val, 5), (b.val, 5), (2, 10)]) ⟨by decide, d.isLt, a.isLt, b.isLt, by decide, trivial⟩
  change decodeRaw (packWord [(0x00, 7), (d.val, 5), (a.val, 5), (b.val, 5), (2, 10)]) = _
  generalize packWord [(0x00, 7), (d.val, 5), (a.val, 5), (b.val, 5), (2, 10)] = w at *
  rw [decodeRaw_00 hp.1]
  unfold decodeMajor00
  rw [show wordBits w 0 10 = 2 from hp.2.2.2.2.1,
    show wordFin 32 w 20 = d from Fin.ext hp.2.1,
    show wordFin 32 w 15 = a from Fin.ext hp.2.2.1,
    show wordFin 32 w 10 = b from Fin.ext hp.2.2.2.1]
  try rfl

theorem Roundtrip.mul (d : GReg) (a : GReg) (b : GReg) : Roundtrip.Statement (.mul d a b) := by
  refine Roundtrip.of_raw _ ?_
  have hp := pack_fields (l := [(0x00, 7), (d.val, 5), (a.val, 5), (b.val, 5), (3, 10)]) ⟨by decide, d.isLt, a.isLt, b.isLt, by decide, trivial⟩
  change decodeRaw (packWord [(0x00, 7), (d.val, 5), (a.val, 5), (b.val, 5), (3, 10)]) = _
  generalize packWord [(0x00, 7), (d.val, 5), (a.val, 5), (b.val, 5), (3, 10)] = w at *
  rw [decodeRaw_00 hp.1]
  unfold decodeMajor00
  rw [show wordBits w 0 10 = 3 from hp.2.2.2.2.1,
    show wordFin 32 w 20 = d from Fin.ext hp.2.1,
    show wordFin 32 w 15 = a from Fin.ext hp.2.2.1,
    show wordFin 32 w 10 = b from Fin.ext hp.2.2.2.1]
  try rfl

theorem Roundtrip.mulh (d : GReg) (a : GReg) (b : GReg) : Roundtrip.Statement (.mulh d a b) := by
  refine Roundtrip.of_raw _ ?_
  have hp := pack_fields (l := [(0x00, 7), (d.val, 5), (a.val, 5), (b.val, 5), (4, 10)]) ⟨by decide, d.isLt, a.isLt, b.isLt, by decide, trivial⟩
  change decodeRaw (packWord [(0x00, 7), (d.val, 5), (a.val, 5), (b.val, 5), (4, 10)]) = _
  generalize packWord [(0x00, 7), (d.val, 5), (a.val, 5), (b.val, 5), (4, 10)] = w at *
  rw [decodeRaw_00 hp.1]
  unfold decodeMajor00
  rw [show wordBits w 0 10 = 4 from hp.2.2.2.2.1,
    show wordFin 32 w 20 = d from Fin.ext hp.2.1,
    show wordFin 32 w 15 = a from Fin.ext hp.2.2.1,
    show wordFin 32 w 10 = b from Fin.ext hp.2.2.2.1]
  try rfl

theorem Roundtrip.mulhn (d : GReg) (a : GReg) (b : GReg) : Roundtrip.Statement (.mulhn d a b) := by
  refine Roundtrip.of_raw _ ?_
  have hp := pack_fields (l := [(0x00, 7), (d.val, 5), (a.val, 5), (b.val, 5), (5, 10)]) ⟨by decide, d.isLt, a.isLt, b.isLt, by decide, trivial⟩
  change decodeRaw (packWord [(0x00, 7), (d.val, 5), (a.val, 5), (b.val, 5), (5, 10)]) = _
  generalize packWord [(0x00, 7), (d.val, 5), (a.val, 5), (b.val, 5), (5, 10)] = w at *
  rw [decodeRaw_00 hp.1]
  unfold decodeMajor00
  rw [show wordBits w 0 10 = 5 from hp.2.2.2.2.1,
    show wordFin 32 w 20 = d from Fin.ext hp.2.1,
    show wordFin 32 w 15 = a from Fin.ext hp.2.2.1,
    show wordFin 32 w 10 = b from Fin.ext hp.2.2.2.1]
  try rfl

theorem Roundtrip.div (d : GReg) (a : GReg) (b : GReg) : Roundtrip.Statement (.div d a b) := by
  refine Roundtrip.of_raw _ ?_
  have hp := pack_fields (l := [(0x00, 7), (d.val, 5), (a.val, 5), (b.val, 5), (6, 10)]) ⟨by decide, d.isLt, a.isLt, b.isLt, by decide, trivial⟩
  change decodeRaw (packWord [(0x00, 7), (d.val, 5), (a.val, 5), (b.val, 5), (6, 10)]) = _
  generalize packWord [(0x00, 7), (d.val, 5), (a.val, 5), (b.val, 5), (6, 10)] = w at *
  rw [decodeRaw_00 hp.1]
  unfold decodeMajor00
  rw [show wordBits w 0 10 = 6 from hp.2.2.2.2.1,
    show wordFin 32 w 20 = d from Fin.ext hp.2.1,
    show wordFin 32 w 15 = a from Fin.ext hp.2.2.1,
    show wordFin 32 w 10 = b from Fin.ext hp.2.2.2.1]
  try rfl

theorem Roundtrip.divn (d : GReg) (a : GReg) (b : GReg) : Roundtrip.Statement (.divn d a b) := by
  refine Roundtrip.of_raw _ ?_
  have hp := pack_fields (l := [(0x00, 7), (d.val, 5), (a.val, 5), (b.val, 5), (7, 10)]) ⟨by decide, d.isLt, a.isLt, b.isLt, by decide, trivial⟩
  change decodeRaw (packWord [(0x00, 7), (d.val, 5), (a.val, 5), (b.val, 5), (7, 10)]) = _
  generalize packWord [(0x00, 7), (d.val, 5), (a.val, 5), (b.val, 5), (7, 10)] = w at *
  rw [decodeRaw_00 hp.1]
  unfold decodeMajor00
  rw [show wordBits w 0 10 = 7 from hp.2.2.2.2.1,
    show wordFin 32 w 20 = d from Fin.ext hp.2.1,
    show wordFin 32 w 15 = a from Fin.ext hp.2.2.1,
    show wordFin 32 w 10 = b from Fin.ext hp.2.2.2.1]
  try rfl

theorem Roundtrip.rem (d : GReg) (a : GReg) (b : GReg) : Roundtrip.Statement (.rem d a b) := by
  refine Roundtrip.of_raw _ ?_
  have hp := pack_fields (l := [(0x00, 7), (d.val, 5), (a.val, 5), (b.val, 5), (8, 10)]) ⟨by decide, d.isLt, a.isLt, b.isLt, by decide, trivial⟩
  change decodeRaw (packWord [(0x00, 7), (d.val, 5), (a.val, 5), (b.val, 5), (8, 10)]) = _
  generalize packWord [(0x00, 7), (d.val, 5), (a.val, 5), (b.val, 5), (8, 10)] = w at *
  rw [decodeRaw_00 hp.1]
  unfold decodeMajor00
  rw [show wordBits w 0 10 = 8 from hp.2.2.2.2.1,
    show wordFin 32 w 20 = d from Fin.ext hp.2.1,
    show wordFin 32 w 15 = a from Fin.ext hp.2.2.1,
    show wordFin 32 w 10 = b from Fin.ext hp.2.2.2.1]
  try rfl

theorem Roundtrip.remn (d : GReg) (a : GReg) (b : GReg) : Roundtrip.Statement (.remn d a b) := by
  refine Roundtrip.of_raw _ ?_
  have hp := pack_fields (l := [(0x00, 7), (d.val, 5), (a.val, 5), (b.val, 5), (9, 10)]) ⟨by decide, d.isLt, a.isLt, b.isLt, by decide, trivial⟩
  change decodeRaw (packWord [(0x00, 7), (d.val, 5), (a.val, 5), (b.val, 5), (9, 10)]) = _
  generalize packWord [(0x00, 7), (d.val, 5), (a.val, 5), (b.val, 5), (9, 10)] = w at *
  rw [decodeRaw_00 hp.1]
  unfold decodeMajor00
  rw [show wordBits w 0 10 = 9 from hp.2.2.2.2.1,
    show wordFin 32 w 20 = d from Fin.ext hp.2.1,
    show wordFin 32 w 15 = a from Fin.ext hp.2.2.1,
    show wordFin 32 w 10 = b from Fin.ext hp.2.2.2.1]
  try rfl

theorem Roundtrip.and (d : GReg) (a : GReg) (b : GReg) : Roundtrip.Statement (.and d a b) := by
  refine Roundtrip.of_raw _ ?_
  have hp := pack_fields (l := [(0x00, 7), (d.val, 5), (a.val, 5), (b.val, 5), (10, 10)]) ⟨by decide, d.isLt, a.isLt, b.isLt, by decide, trivial⟩
  change decodeRaw (packWord [(0x00, 7), (d.val, 5), (a.val, 5), (b.val, 5), (10, 10)]) = _
  generalize packWord [(0x00, 7), (d.val, 5), (a.val, 5), (b.val, 5), (10, 10)] = w at *
  rw [decodeRaw_00 hp.1]
  unfold decodeMajor00
  rw [show wordBits w 0 10 = 10 from hp.2.2.2.2.1,
    show wordFin 32 w 20 = d from Fin.ext hp.2.1,
    show wordFin 32 w 15 = a from Fin.ext hp.2.2.1,
    show wordFin 32 w 10 = b from Fin.ext hp.2.2.2.1]
  try rfl

theorem Roundtrip.or (d : GReg) (a : GReg) (b : GReg) : Roundtrip.Statement (.or d a b) := by
  refine Roundtrip.of_raw _ ?_
  have hp := pack_fields (l := [(0x00, 7), (d.val, 5), (a.val, 5), (b.val, 5), (11, 10)]) ⟨by decide, d.isLt, a.isLt, b.isLt, by decide, trivial⟩
  change decodeRaw (packWord [(0x00, 7), (d.val, 5), (a.val, 5), (b.val, 5), (11, 10)]) = _
  generalize packWord [(0x00, 7), (d.val, 5), (a.val, 5), (b.val, 5), (11, 10)] = w at *
  rw [decodeRaw_00 hp.1]
  unfold decodeMajor00
  rw [show wordBits w 0 10 = 11 from hp.2.2.2.2.1,
    show wordFin 32 w 20 = d from Fin.ext hp.2.1,
    show wordFin 32 w 15 = a from Fin.ext hp.2.2.1,
    show wordFin 32 w 10 = b from Fin.ext hp.2.2.2.1]
  try rfl

theorem Roundtrip.xor (d : GReg) (a : GReg) (b : GReg) : Roundtrip.Statement (.xor d a b) := by
  refine Roundtrip.of_raw _ ?_
  have hp := pack_fields (l := [(0x00, 7), (d.val, 5), (a.val, 5), (b.val, 5), (12, 10)]) ⟨by decide, d.isLt, a.isLt, b.isLt, by decide, trivial⟩
  change decodeRaw (packWord [(0x00, 7), (d.val, 5), (a.val, 5), (b.val, 5), (12, 10)]) = _
  generalize packWord [(0x00, 7), (d.val, 5), (a.val, 5), (b.val, 5), (12, 10)] = w at *
  rw [decodeRaw_00 hp.1]
  unfold decodeMajor00
  rw [show wordBits w 0 10 = 12 from hp.2.2.2.2.1,
    show wordFin 32 w 20 = d from Fin.ext hp.2.1,
    show wordFin 32 w 15 = a from Fin.ext hp.2.2.1,
    show wordFin 32 w 10 = b from Fin.ext hp.2.2.2.1]
  try rfl

theorem Roundtrip.shl (d : GReg) (a : GReg) (b : GReg) : Roundtrip.Statement (.shl d a b) := by
  refine Roundtrip.of_raw _ ?_
  have hp := pack_fields (l := [(0x00, 7), (d.val, 5), (a.val, 5), (b.val, 5), (13, 10)]) ⟨by decide, d.isLt, a.isLt, b.isLt, by decide, trivial⟩
  change decodeRaw (packWord [(0x00, 7), (d.val, 5), (a.val, 5), (b.val, 5), (13, 10)]) = _
  generalize packWord [(0x00, 7), (d.val, 5), (a.val, 5), (b.val, 5), (13, 10)] = w at *
  rw [decodeRaw_00 hp.1]
  unfold decodeMajor00
  rw [show wordBits w 0 10 = 13 from hp.2.2.2.2.1,
    show wordFin 32 w 20 = d from Fin.ext hp.2.1,
    show wordFin 32 w 15 = a from Fin.ext hp.2.2.1,
    show wordFin 32 w 10 = b from Fin.ext hp.2.2.2.1]
  try rfl

theorem Roundtrip.shr (d : GReg) (a : GReg) (b : GReg) : Roundtrip.Statement (.shr d a b) := by
  refine Roundtrip.of_raw _ ?_
  have hp := pack_fields (l := [(0x00, 7), (d.val, 5), (a.val, 5), (b.val, 5), (14, 10)]) ⟨by decide, d.isLt, a.isLt, b.isLt, by decide, trivial⟩
  change decodeRaw (packWord [(0x00, 7), (d.val, 5), (a.val, 5), (b.val, 5), (14, 10)]) = _
  generalize packWord [(0x00, 7), (d.val, 5), (a.val, 5), (b.val, 5), (14, 10)] = w at *
  rw [decodeRaw_00 hp.1]
  unfold decodeMajor00
  rw [show wordBits w 0 10 = 14 from hp.2.2.2.2.1,
    show wordFin 32 w 20 = d from Fin.ext hp.2.1,
    show wordFin 32 w 15 = a from Fin.ext hp.2.2.1,
    show wordFin 32 w 10 = b from Fin.ext hp.2.2.2.1]
  try rfl

theorem Roundtrip.sra (d : GReg) (a : GReg) (b : GReg) : Roundtrip.Statement (.sra d a b) := by
  refine Roundtrip.of_raw _ ?_
  have hp := pack_fields (l := [(0x00, 7), (d.val, 5), (a.val, 5), (b.val, 5), (15, 10)]) ⟨by decide, d.isLt, a.isLt, b.isLt, by decide, trivial⟩
  change decodeRaw (packWord [(0x00, 7), (d.val, 5), (a.val, 5), (b.val, 5), (15, 10)]) = _
  generalize packWord [(0x00, 7), (d.val, 5), (a.val, 5), (b.val, 5), (15, 10)] = w at *
  rw [decodeRaw_00 hp.1]
  unfold decodeMajor00
  rw [show wordBits w 0 10 = 15 from hp.2.2.2.2.1,
    show wordFin 32 w 20 = d from Fin.ext hp.2.1,
    show wordFin 32 w 15 = a from Fin.ext hp.2.2.1,
    show wordFin 32 w 10 = b from Fin.ext hp.2.2.2.1]
  try rfl

theorem Roundtrip.slt (d : GReg) (a : GReg) (b : GReg) : Roundtrip.Statement (.slt d a b) := by
  refine Roundtrip.of_raw _ ?_
  have hp := pack_fields (l := [(0x00, 7), (d.val, 5), (a.val, 5), (b.val, 5), (16, 10)]) ⟨by decide, d.isLt, a.isLt, b.isLt, by decide, trivial⟩
  change decodeRaw (packWord [(0x00, 7), (d.val, 5), (a.val, 5), (b.val, 5), (16, 10)]) = _
  generalize packWord [(0x00, 7), (d.val, 5), (a.val, 5), (b.val, 5), (16, 10)] = w at *
  rw [decodeRaw_00 hp.1]
  unfold decodeMajor00
  rw [show wordBits w 0 10 = 16 from hp.2.2.2.2.1,
    show wordFin 32 w 20 = d from Fin.ext hp.2.1,
    show wordFin 32 w 15 = a from Fin.ext hp.2.2.1,
    show wordFin 32 w 10 = b from Fin.ext hp.2.2.2.1]
  try rfl

theorem Roundtrip.sltn (d : GReg) (a : GReg) (b : GReg) : Roundtrip.Statement (.sltn d a b) := by
  refine Roundtrip.of_raw _ ?_
  have hp := pack_fields (l := [(0x00, 7), (d.val, 5), (a.val, 5), (b.val, 5), (17, 10)]) ⟨by decide, d.isLt, a.isLt, b.isLt, by decide, trivial⟩
  change decodeRaw (packWord [(0x00, 7), (d.val, 5), (a.val, 5), (b.val, 5), (17, 10)]) = _
  generalize packWord [(0x00, 7), (d.val, 5), (a.val, 5), (b.val, 5), (17, 10)] = w at *
  rw [decodeRaw_00 hp.1]
  unfold decodeMajor00
  rw [show wordBits w 0 10 = 17 from hp.2.2.2.2.1,
    show wordFin 32 w 20 = d from Fin.ext hp.2.1,
    show wordFin 32 w 15 = a from Fin.ext hp.2.2.1,
    show wordFin 32 w 10 = b from Fin.ext hp.2.2.2.1]
  try rfl

theorem Roundtrip.min (d : GReg) (a : GReg) (b : GReg) : Roundtrip.Statement (.min d a b) := by
  refine Roundtrip.of_raw _ ?_
  have hp := pack_fields (l := [(0x00, 7), (d.val, 5), (a.val, 5), (b.val, 5), (18, 10)]) ⟨by decide, d.isLt, a.isLt, b.isLt, by decide, trivial⟩
  change decodeRaw (packWord [(0x00, 7), (d.val, 5), (a.val, 5), (b.val, 5), (18, 10)]) = _
  generalize packWord [(0x00, 7), (d.val, 5), (a.val, 5), (b.val, 5), (18, 10)] = w at *
  rw [decodeRaw_00 hp.1]
  unfold decodeMajor00
  rw [show wordBits w 0 10 = 18 from hp.2.2.2.2.1,
    show wordFin 32 w 20 = d from Fin.ext hp.2.1,
    show wordFin 32 w 15 = a from Fin.ext hp.2.2.1,
    show wordFin 32 w 10 = b from Fin.ext hp.2.2.2.1]
  try rfl

theorem Roundtrip.max (d : GReg) (a : GReg) (b : GReg) : Roundtrip.Statement (.max d a b) := by
  refine Roundtrip.of_raw _ ?_
  have hp := pack_fields (l := [(0x00, 7), (d.val, 5), (a.val, 5), (b.val, 5), (19, 10)]) ⟨by decide, d.isLt, a.isLt, b.isLt, by decide, trivial⟩
  change decodeRaw (packWord [(0x00, 7), (d.val, 5), (a.val, 5), (b.val, 5), (19, 10)]) = _
  generalize packWord [(0x00, 7), (d.val, 5), (a.val, 5), (b.val, 5), (19, 10)] = w at *
  rw [decodeRaw_00 hp.1]
  unfold decodeMajor00
  rw [show wordBits w 0 10 = 19 from hp.2.2.2.2.1,
    show wordFin 32 w 20 = d from Fin.ext hp.2.1,
    show wordFin 32 w 15 = a from Fin.ext hp.2.2.1,
    show wordFin 32 w 10 = b from Fin.ext hp.2.2.2.1]
  try rfl

theorem Roundtrip.clz (d : GReg) (a : GReg) : Roundtrip.Statement (.clz d a) := by
  refine Roundtrip.of_raw _ ?_
  have hp := pack_fields (l := [(0x00, 7), (d.val, 5), (a.val, 5), (0, 5), (20, 10)]) ⟨by decide, d.isLt, a.isLt, by decide, by decide, trivial⟩
  change decodeRaw (packWord [(0x00, 7), (d.val, 5), (a.val, 5), (0, 5), (20, 10)]) = _
  generalize packWord [(0x00, 7), (d.val, 5), (a.val, 5), (0, 5), (20, 10)] = w at *
  rw [decodeRaw_00 hp.1]
  have f : wordBits w 0 10 = 20 := hp.2.2.2.2.1
  have g0 : wordBits w 10 5 = 0 := hp.2.2.2.1
  simp only [decodeMajor00, f, g0, ↓reduceIte]
  rw [show wordFin 32 w 20 = d from Fin.ext hp.2.1,
    show wordFin 32 w 15 = a from Fin.ext hp.2.2.1]

theorem Roundtrip.ctz (d : GReg) (a : GReg) : Roundtrip.Statement (.ctz d a) := by
  refine Roundtrip.of_raw _ ?_
  have hp := pack_fields (l := [(0x00, 7), (d.val, 5), (a.val, 5), (0, 5), (21, 10)]) ⟨by decide, d.isLt, a.isLt, by decide, by decide, trivial⟩
  change decodeRaw (packWord [(0x00, 7), (d.val, 5), (a.val, 5), (0, 5), (21, 10)]) = _
  generalize packWord [(0x00, 7), (d.val, 5), (a.val, 5), (0, 5), (21, 10)] = w at *
  rw [decodeRaw_00 hp.1]
  have f : wordBits w 0 10 = 21 := hp.2.2.2.2.1
  have g0 : wordBits w 10 5 = 0 := hp.2.2.2.1
  simp only [decodeMajor00, f, g0, ↓reduceIte]
  rw [show wordFin 32 w 20 = d from Fin.ext hp.2.1,
    show wordFin 32 w 15 = a from Fin.ext hp.2.2.1]

theorem Roundtrip.popc (d : GReg) (a : GReg) : Roundtrip.Statement (.popc d a) := by
  refine Roundtrip.of_raw _ ?_
  have hp := pack_fields (l := [(0x00, 7), (d.val, 5), (a.val, 5), (0, 5), (22, 10)]) ⟨by decide, d.isLt, a.isLt, by decide, by decide, trivial⟩
  change decodeRaw (packWord [(0x00, 7), (d.val, 5), (a.val, 5), (0, 5), (22, 10)]) = _
  generalize packWord [(0x00, 7), (d.val, 5), (a.val, 5), (0, 5), (22, 10)] = w at *
  rw [decodeRaw_00 hp.1]
  have f : wordBits w 0 10 = 22 := hp.2.2.2.2.1
  have g0 : wordBits w 10 5 = 0 := hp.2.2.2.1
  simp only [decodeMajor00, f, g0, ↓reduceIte]
  rw [show wordFin 32 w 20 = d from Fin.ext hp.2.1,
    show wordFin 32 w 15 = a from Fin.ext hp.2.2.1]

theorem Roundtrip.ldl (d : GReg) (a : GReg) : Roundtrip.Statement (.ldl d a) := by
  refine Roundtrip.of_raw _ ?_
  have hp := pack_fields (l := [(0x00, 7), (d.val, 5), (a.val, 5), (0, 5), (32, 10)]) ⟨by decide, d.isLt, a.isLt, by decide, by decide, trivial⟩
  change decodeRaw (packWord [(0x00, 7), (d.val, 5), (a.val, 5), (0, 5), (32, 10)]) = _
  generalize packWord [(0x00, 7), (d.val, 5), (a.val, 5), (0, 5), (32, 10)] = w at *
  rw [decodeRaw_00 hp.1]
  have f : wordBits w 0 10 = 32 := hp.2.2.2.2.1
  have g0 : wordBits w 10 5 = 0 := hp.2.2.2.1
  simp only [decodeMajor00, f, g0, ↓reduceIte]
  rw [show wordFin 32 w 20 = d from Fin.ext hp.2.1,
    show wordFin 32 w 15 = a from Fin.ext hp.2.2.1]

theorem Roundtrip.stc (d : GReg) (a : GReg) (b : GReg) : Roundtrip.Statement (.stc d a b) := by
  refine Roundtrip.of_raw _ ?_
  have hp := pack_fields (l := [(0x00, 7), (d.val, 5), (a.val, 5), (b.val, 5), (33, 10)]) ⟨by decide, d.isLt, a.isLt, b.isLt, by decide, trivial⟩
  change decodeRaw (packWord [(0x00, 7), (d.val, 5), (a.val, 5), (b.val, 5), (33, 10)]) = _
  generalize packWord [(0x00, 7), (d.val, 5), (a.val, 5), (b.val, 5), (33, 10)] = w at *
  rw [decodeRaw_00 hp.1]
  unfold decodeMajor00
  rw [show wordBits w 0 10 = 33 from hp.2.2.2.2.1,
    show wordFin 32 w 20 = d from Fin.ext hp.2.1,
    show wordFin 32 w 15 = a from Fin.ext hp.2.2.1,
    show wordFin 32 w 10 = b from Fin.ext hp.2.2.2.1]
  try rfl

theorem Roundtrip.addi (d : GReg) (a : GReg) (imm : BitVec 15) : Roundtrip.Statement (.addi d a imm) := by
  refine Roundtrip.of_raw _ ?_
  have hp := pack_fields (l := [(0x01, 7), (d.val, 5), (a.val, 5), (imm.toNat, 15)]) ⟨by decide, d.isLt, a.isLt, imm.isLt, trivial⟩
  change decodeRaw (packWord [(0x01, 7), (d.val, 5), (a.val, 5), (imm.toNat, 15)]) = _
  generalize packWord [(0x01, 7), (d.val, 5), (a.val, 5), (imm.toNat, 15)] = w at *
  rw [decodeRaw_01 hp.1]
  unfold decodeMajor01
  rw [show wordFin 32 w 20 = d from Fin.ext hp.2.1,
    show wordFin 32 w 15 = a from Fin.ext hp.2.2.1,
    show BitVec.ofNat 15 (wordBits w 0 15) = imm from ofNat_bits _ hp.2.2.2.1]

theorem Roundtrip.andi (d : GReg) (a : GReg) (imm : BitVec 15) : Roundtrip.Statement (.andi d a imm) := by
  refine Roundtrip.of_raw _ ?_
  have hp := pack_fields (l := [(0x02, 7), (d.val, 5), (a.val, 5), (imm.toNat, 15)]) ⟨by decide, d.isLt, a.isLt, imm.isLt, trivial⟩
  change decodeRaw (packWord [(0x02, 7), (d.val, 5), (a.val, 5), (imm.toNat, 15)]) = _
  generalize packWord [(0x02, 7), (d.val, 5), (a.val, 5), (imm.toNat, 15)] = w at *
  rw [decodeRaw_02 hp.1]
  unfold decodeMajor02
  rw [show wordFin 32 w 20 = d from Fin.ext hp.2.1,
    show wordFin 32 w 15 = a from Fin.ext hp.2.2.1,
    show BitVec.ofNat 15 (wordBits w 0 15) = imm from ofNat_bits _ hp.2.2.2.1]

theorem Roundtrip.ori (d : GReg) (a : GReg) (imm : BitVec 15) : Roundtrip.Statement (.ori d a imm) := by
  refine Roundtrip.of_raw _ ?_
  have hp := pack_fields (l := [(0x03, 7), (d.val, 5), (a.val, 5), (imm.toNat, 15)]) ⟨by decide, d.isLt, a.isLt, imm.isLt, trivial⟩
  change decodeRaw (packWord [(0x03, 7), (d.val, 5), (a.val, 5), (imm.toNat, 15)]) = _
  generalize packWord [(0x03, 7), (d.val, 5), (a.val, 5), (imm.toNat, 15)] = w at *
  rw [decodeRaw_03 hp.1]
  unfold decodeMajor03
  rw [show wordFin 32 w 20 = d from Fin.ext hp.2.1,
    show wordFin 32 w 15 = a from Fin.ext hp.2.2.1,
    show BitVec.ofNat 15 (wordBits w 0 15) = imm from ofNat_bits _ hp.2.2.2.1]

theorem Roundtrip.xori (d : GReg) (a : GReg) (imm : BitVec 15) : Roundtrip.Statement (.xori d a imm) := by
  refine Roundtrip.of_raw _ ?_
  have hp := pack_fields (l := [(0x04, 7), (d.val, 5), (a.val, 5), (imm.toNat, 15)]) ⟨by decide, d.isLt, a.isLt, imm.isLt, trivial⟩
  change decodeRaw (packWord [(0x04, 7), (d.val, 5), (a.val, 5), (imm.toNat, 15)]) = _
  generalize packWord [(0x04, 7), (d.val, 5), (a.val, 5), (imm.toNat, 15)] = w at *
  rw [decodeRaw_04 hp.1]
  unfold decodeMajor04
  rw [show wordFin 32 w 20 = d from Fin.ext hp.2.1,
    show wordFin 32 w 15 = a from Fin.ext hp.2.2.1,
    show BitVec.ofNat 15 (wordBits w 0 15) = imm from ofNat_bits _ hp.2.2.2.1]

theorem Roundtrip.shli (d : GReg) (a : GReg) (imm : BitVec 6) : Roundtrip.Statement (.shli d a imm) := by
  refine Roundtrip.of_raw _ ?_
  have hp := pack_fields (l := [(0x05, 7), (d.val, 5), (a.val, 5), (0, 9), (imm.toNat, 6)]) ⟨by decide, d.isLt, a.isLt, by decide, imm.isLt, trivial⟩
  change decodeRaw (packWord [(0x05, 7), (d.val, 5), (a.val, 5), (0, 9), (imm.toNat, 6)]) = _
  generalize packWord [(0x05, 7), (d.val, 5), (a.val, 5), (0, 9), (imm.toNat, 6)] = w at *
  rw [decodeRaw_05 hp.1]
  have g0 : wordBits w 6 9 = 0 := hp.2.2.2.1
  simp only [decodeMajor05, g0, ↓reduceIte]
  rw [show wordFin 32 w 20 = d from Fin.ext hp.2.1,
    show wordFin 32 w 15 = a from Fin.ext hp.2.2.1,
    show BitVec.ofNat 6 (wordBits w 0 6) = imm from ofNat_bits _ hp.2.2.2.2.1]

theorem Roundtrip.shri (d : GReg) (a : GReg) (imm : BitVec 6) : Roundtrip.Statement (.shri d a imm) := by
  refine Roundtrip.of_raw _ ?_
  have hp := pack_fields (l := [(0x06, 7), (d.val, 5), (a.val, 5), (0, 9), (imm.toNat, 6)]) ⟨by decide, d.isLt, a.isLt, by decide, imm.isLt, trivial⟩
  change decodeRaw (packWord [(0x06, 7), (d.val, 5), (a.val, 5), (0, 9), (imm.toNat, 6)]) = _
  generalize packWord [(0x06, 7), (d.val, 5), (a.val, 5), (0, 9), (imm.toNat, 6)] = w at *
  rw [decodeRaw_06 hp.1]
  have g0 : wordBits w 6 9 = 0 := hp.2.2.2.1
  simp only [decodeMajor06, g0, ↓reduceIte]
  rw [show wordFin 32 w 20 = d from Fin.ext hp.2.1,
    show wordFin 32 w 15 = a from Fin.ext hp.2.2.1,
    show BitVec.ofNat 6 (wordBits w 0 6) = imm from ofNat_bits _ hp.2.2.2.2.1]

theorem Roundtrip.srai (d : GReg) (a : GReg) (imm : BitVec 6) : Roundtrip.Statement (.srai d a imm) := by
  refine Roundtrip.of_raw _ ?_
  have hp := pack_fields (l := [(0x07, 7), (d.val, 5), (a.val, 5), (0, 9), (imm.toNat, 6)]) ⟨by decide, d.isLt, a.isLt, by decide, imm.isLt, trivial⟩
  change decodeRaw (packWord [(0x07, 7), (d.val, 5), (a.val, 5), (0, 9), (imm.toNat, 6)]) = _
  generalize packWord [(0x07, 7), (d.val, 5), (a.val, 5), (0, 9), (imm.toNat, 6)] = w at *
  rw [decodeRaw_07 hp.1]
  have g0 : wordBits w 6 9 = 0 := hp.2.2.2.1
  simp only [decodeMajor07, g0, ↓reduceIte]
  rw [show wordFin 32 w 20 = d from Fin.ext hp.2.1,
    show wordFin 32 w 15 = a from Fin.ext hp.2.2.1,
    show BitVec.ofNat 6 (wordBits w 0 6) = imm from ofNat_bits _ hp.2.2.2.2.1]

theorem Roundtrip.slti (d : GReg) (a : GReg) (imm : BitVec 15) : Roundtrip.Statement (.slti d a imm) := by
  refine Roundtrip.of_raw _ ?_
  have hp := pack_fields (l := [(0x08, 7), (d.val, 5), (a.val, 5), (imm.toNat, 15)]) ⟨by decide, d.isLt, a.isLt, imm.isLt, trivial⟩
  change decodeRaw (packWord [(0x08, 7), (d.val, 5), (a.val, 5), (imm.toNat, 15)]) = _
  generalize packWord [(0x08, 7), (d.val, 5), (a.val, 5), (imm.toNat, 15)] = w at *
  rw [decodeRaw_08 hp.1]
  unfold decodeMajor08
  rw [show wordFin 32 w 20 = d from Fin.ext hp.2.1,
    show wordFin 32 w 15 = a from Fin.ext hp.2.2.1,
    show BitVec.ofNat 15 (wordBits w 0 15) = imm from ofNat_bits _ hp.2.2.2.1]

theorem Roundtrip.lui (d : GReg) (imm : BitVec 15) : Roundtrip.Statement (.lui d imm) := by
  refine Roundtrip.of_raw _ ?_
  have hp := pack_fields (l := [(0x09, 7), (d.val, 5), (0, 5), (imm.toNat, 15)]) ⟨by decide, d.isLt, by decide, imm.isLt, trivial⟩
  change decodeRaw (packWord [(0x09, 7), (d.val, 5), (0, 5), (imm.toNat, 15)]) = _
  generalize packWord [(0x09, 7), (d.val, 5), (0, 5), (imm.toNat, 15)] = w at *
  rw [decodeRaw_09 hp.1]
  have g0 : wordBits w 15 5 = 0 := hp.2.2.1
  simp only [decodeMajor09, g0, ↓reduceIte]
  rw [show wordFin 32 w 20 = d from Fin.ext hp.2.1,
    show BitVec.ofNat 15 (wordBits w 0 15) = imm from ofNat_bits _ hp.2.2.2.1]

theorem Roundtrip.addpc (d : GReg) (imm : BitVec 15) : Roundtrip.Statement (.addpc d imm) := by
  refine Roundtrip.of_raw _ ?_
  have hp := pack_fields (l := [(0x0A, 7), (d.val, 5), (0, 5), (imm.toNat, 15)]) ⟨by decide, d.isLt, by decide, imm.isLt, trivial⟩
  change decodeRaw (packWord [(0x0A, 7), (d.val, 5), (0, 5), (imm.toNat, 15)]) = _
  generalize packWord [(0x0A, 7), (d.val, 5), (0, 5), (imm.toNat, 15)] = w at *
  rw [decodeRaw_0A hp.1]
  have g0 : wordBits w 15 5 = 0 := hp.2.2.1
  simp only [decodeMajor0A, g0, ↓reduceIte]
  rw [show wordFin 32 w 20 = d from Fin.ext hp.2.1,
    show BitVec.ofNat 15 (wordBits w 0 15) = imm from ofNat_bits _ hp.2.2.2.1]

theorem Roundtrip.ldB (d : GReg) (a : GReg) (imm : BitVec 15) : Roundtrip.Statement (.ldB d a imm) := by
  refine Roundtrip.of_raw _ ?_
  have hp := pack_fields (l := [(0x0B, 7), (d.val, 5), (a.val, 5), (imm.toNat, 15)]) ⟨by decide, d.isLt, a.isLt, imm.isLt, trivial⟩
  change decodeRaw (packWord [(0x0B, 7), (d.val, 5), (a.val, 5), (imm.toNat, 15)]) = _
  generalize packWord [(0x0B, 7), (d.val, 5), (a.val, 5), (imm.toNat, 15)] = w at *
  rw [decodeRaw_0B hp.1]
  unfold decodeMajor0B
  rw [show wordFin 32 w 20 = d from Fin.ext hp.2.1,
    show wordFin 32 w 15 = a from Fin.ext hp.2.2.1,
    show BitVec.ofNat 15 (wordBits w 0 15) = imm from ofNat_bits _ hp.2.2.2.1]

theorem Roundtrip.ldH (d : GReg) (a : GReg) (imm : BitVec 15) : Roundtrip.Statement (.ldH d a imm) := by
  refine Roundtrip.of_raw _ ?_
  have hp := pack_fields (l := [(0x0C, 7), (d.val, 5), (a.val, 5), (imm.toNat, 15)]) ⟨by decide, d.isLt, a.isLt, imm.isLt, trivial⟩
  change decodeRaw (packWord [(0x0C, 7), (d.val, 5), (a.val, 5), (imm.toNat, 15)]) = _
  generalize packWord [(0x0C, 7), (d.val, 5), (a.val, 5), (imm.toNat, 15)] = w at *
  rw [decodeRaw_0C hp.1]
  unfold decodeMajor0C
  rw [show wordFin 32 w 20 = d from Fin.ext hp.2.1,
    show wordFin 32 w 15 = a from Fin.ext hp.2.2.1,
    show BitVec.ofNat 15 (wordBits w 0 15) = imm from ofNat_bits _ hp.2.2.2.1]

theorem Roundtrip.ldW (d : GReg) (a : GReg) (imm : BitVec 15) : Roundtrip.Statement (.ldW d a imm) := by
  refine Roundtrip.of_raw _ ?_
  have hp := pack_fields (l := [(0x0D, 7), (d.val, 5), (a.val, 5), (imm.toNat, 15)]) ⟨by decide, d.isLt, a.isLt, imm.isLt, trivial⟩
  change decodeRaw (packWord [(0x0D, 7), (d.val, 5), (a.val, 5), (imm.toNat, 15)]) = _
  generalize packWord [(0x0D, 7), (d.val, 5), (a.val, 5), (imm.toNat, 15)] = w at *
  rw [decodeRaw_0D hp.1]
  unfold decodeMajor0D
  rw [show wordFin 32 w 20 = d from Fin.ext hp.2.1,
    show wordFin 32 w 15 = a from Fin.ext hp.2.2.1,
    show BitVec.ofNat 15 (wordBits w 0 15) = imm from ofNat_bits _ hp.2.2.2.1]

theorem Roundtrip.ldD (d : GReg) (a : GReg) (imm : BitVec 15) : Roundtrip.Statement (.ldD d a imm) := by
  refine Roundtrip.of_raw _ ?_
  have hp := pack_fields (l := [(0x0E, 7), (d.val, 5), (a.val, 5), (imm.toNat, 15)]) ⟨by decide, d.isLt, a.isLt, imm.isLt, trivial⟩
  change decodeRaw (packWord [(0x0E, 7), (d.val, 5), (a.val, 5), (imm.toNat, 15)]) = _
  generalize packWord [(0x0E, 7), (d.val, 5), (a.val, 5), (imm.toNat, 15)] = w at *
  rw [decodeRaw_0E hp.1]
  unfold decodeMajor0E
  rw [show wordFin 32 w 20 = d from Fin.ext hp.2.1,
    show wordFin 32 w 15 = a from Fin.ext hp.2.2.1,
    show BitVec.ofNat 15 (wordBits w 0 15) = imm from ofNat_bits _ hp.2.2.2.1]

theorem Roundtrip.ldBN (d : GReg) (a : GReg) (imm : BitVec 15) : Roundtrip.Statement (.ldBN d a imm) := by
  refine Roundtrip.of_raw _ ?_
  have hp := pack_fields (l := [(0x0F, 7), (d.val, 5), (a.val, 5), (imm.toNat, 15)]) ⟨by decide, d.isLt, a.isLt, imm.isLt, trivial⟩
  change decodeRaw (packWord [(0x0F, 7), (d.val, 5), (a.val, 5), (imm.toNat, 15)]) = _
  generalize packWord [(0x0F, 7), (d.val, 5), (a.val, 5), (imm.toNat, 15)] = w at *
  rw [decodeRaw_0F hp.1]
  unfold decodeMajor0F
  rw [show wordFin 32 w 20 = d from Fin.ext hp.2.1,
    show wordFin 32 w 15 = a from Fin.ext hp.2.2.1,
    show BitVec.ofNat 15 (wordBits w 0 15) = imm from ofNat_bits _ hp.2.2.2.1]

theorem Roundtrip.ldHN (d : GReg) (a : GReg) (imm : BitVec 15) : Roundtrip.Statement (.ldHN d a imm) := by
  refine Roundtrip.of_raw _ ?_
  have hp := pack_fields (l := [(0x10, 7), (d.val, 5), (a.val, 5), (imm.toNat, 15)]) ⟨by decide, d.isLt, a.isLt, imm.isLt, trivial⟩
  change decodeRaw (packWord [(0x10, 7), (d.val, 5), (a.val, 5), (imm.toNat, 15)]) = _
  generalize packWord [(0x10, 7), (d.val, 5), (a.val, 5), (imm.toNat, 15)] = w at *
  rw [decodeRaw_10 hp.1]
  unfold decodeMajor10
  rw [show wordFin 32 w 20 = d from Fin.ext hp.2.1,
    show wordFin 32 w 15 = a from Fin.ext hp.2.2.1,
    show BitVec.ofNat 15 (wordBits w 0 15) = imm from ofNat_bits _ hp.2.2.2.1]

theorem Roundtrip.ldWN (d : GReg) (a : GReg) (imm : BitVec 15) : Roundtrip.Statement (.ldWN d a imm) := by
  refine Roundtrip.of_raw _ ?_
  have hp := pack_fields (l := [(0x11, 7), (d.val, 5), (a.val, 5), (imm.toNat, 15)]) ⟨by decide, d.isLt, a.isLt, imm.isLt, trivial⟩
  change decodeRaw (packWord [(0x11, 7), (d.val, 5), (a.val, 5), (imm.toNat, 15)]) = _
  generalize packWord [(0x11, 7), (d.val, 5), (a.val, 5), (imm.toNat, 15)] = w at *
  rw [decodeRaw_11 hp.1]
  unfold decodeMajor11
  rw [show wordFin 32 w 20 = d from Fin.ext hp.2.1,
    show wordFin 32 w 15 = a from Fin.ext hp.2.2.1,
    show BitVec.ofNat 15 (wordBits w 0 15) = imm from ofNat_bits _ hp.2.2.2.1]

theorem Roundtrip.stB (d : GReg) (a : GReg) (imm : BitVec 15) : Roundtrip.Statement (.stB d a imm) := by
  refine Roundtrip.of_raw _ ?_
  have hp := pack_fields (l := [(0x12, 7), (d.val, 5), (a.val, 5), (imm.toNat, 15)]) ⟨by decide, d.isLt, a.isLt, imm.isLt, trivial⟩
  change decodeRaw (packWord [(0x12, 7), (d.val, 5), (a.val, 5), (imm.toNat, 15)]) = _
  generalize packWord [(0x12, 7), (d.val, 5), (a.val, 5), (imm.toNat, 15)] = w at *
  rw [decodeRaw_12 hp.1]
  unfold decodeMajor12
  rw [show wordFin 32 w 20 = d from Fin.ext hp.2.1,
    show wordFin 32 w 15 = a from Fin.ext hp.2.2.1,
    show BitVec.ofNat 15 (wordBits w 0 15) = imm from ofNat_bits _ hp.2.2.2.1]

theorem Roundtrip.stH (d : GReg) (a : GReg) (imm : BitVec 15) : Roundtrip.Statement (.stH d a imm) := by
  refine Roundtrip.of_raw _ ?_
  have hp := pack_fields (l := [(0x13, 7), (d.val, 5), (a.val, 5), (imm.toNat, 15)]) ⟨by decide, d.isLt, a.isLt, imm.isLt, trivial⟩
  change decodeRaw (packWord [(0x13, 7), (d.val, 5), (a.val, 5), (imm.toNat, 15)]) = _
  generalize packWord [(0x13, 7), (d.val, 5), (a.val, 5), (imm.toNat, 15)] = w at *
  rw [decodeRaw_13 hp.1]
  unfold decodeMajor13
  rw [show wordFin 32 w 20 = d from Fin.ext hp.2.1,
    show wordFin 32 w 15 = a from Fin.ext hp.2.2.1,
    show BitVec.ofNat 15 (wordBits w 0 15) = imm from ofNat_bits _ hp.2.2.2.1]

theorem Roundtrip.stW (d : GReg) (a : GReg) (imm : BitVec 15) : Roundtrip.Statement (.stW d a imm) := by
  refine Roundtrip.of_raw _ ?_
  have hp := pack_fields (l := [(0x14, 7), (d.val, 5), (a.val, 5), (imm.toNat, 15)]) ⟨by decide, d.isLt, a.isLt, imm.isLt, trivial⟩
  change decodeRaw (packWord [(0x14, 7), (d.val, 5), (a.val, 5), (imm.toNat, 15)]) = _
  generalize packWord [(0x14, 7), (d.val, 5), (a.val, 5), (imm.toNat, 15)] = w at *
  rw [decodeRaw_14 hp.1]
  unfold decodeMajor14
  rw [show wordFin 32 w 20 = d from Fin.ext hp.2.1,
    show wordFin 32 w 15 = a from Fin.ext hp.2.2.1,
    show BitVec.ofNat 15 (wordBits w 0 15) = imm from ofNat_bits _ hp.2.2.2.1]

theorem Roundtrip.stD (d : GReg) (a : GReg) (imm : BitVec 15) : Roundtrip.Statement (.stD d a imm) := by
  refine Roundtrip.of_raw _ ?_
  have hp := pack_fields (l := [(0x15, 7), (d.val, 5), (a.val, 5), (imm.toNat, 15)]) ⟨by decide, d.isLt, a.isLt, imm.isLt, trivial⟩
  change decodeRaw (packWord [(0x15, 7), (d.val, 5), (a.val, 5), (imm.toNat, 15)]) = _
  generalize packWord [(0x15, 7), (d.val, 5), (a.val, 5), (imm.toNat, 15)] = w at *
  rw [decodeRaw_15 hp.1]
  unfold decodeMajor15
  rw [show wordFin 32 w 20 = d from Fin.ext hp.2.1,
    show wordFin 32 w 15 = a from Fin.ext hp.2.2.1,
    show BitVec.ofNat 15 (wordBits w 0 15) = imm from ofNat_bits _ hp.2.2.2.1]

theorem Roundtrip.srd (d : GReg) (n : Fin 1024) : Roundtrip.Statement (.srd d n) := by
  refine Roundtrip.of_raw _ ?_
  have hp := pack_fields (l := [(0x16, 7), (d.val, 5), (0, 10), (n.val, 10)]) ⟨by decide, d.isLt, by decide, n.isLt, trivial⟩
  change decodeRaw (packWord [(0x16, 7), (d.val, 5), (0, 10), (n.val, 10)]) = _
  generalize packWord [(0x16, 7), (d.val, 5), (0, 10), (n.val, 10)] = w at *
  rw [decodeRaw_16 hp.1]
  have g0 : wordBits w 10 10 = 0 := hp.2.2.1
  simp only [decodeMajor16, g0, ↓reduceIte]
  rw [show wordFin 32 w 20 = d from Fin.ext hp.2.1,
    show wordFin 1024 w 0 = n from Fin.ext hp.2.2.2.1]

theorem Roundtrip.swr (a : GReg) (n : Fin 1024) : Roundtrip.Statement (.swr a n) := by
  refine Roundtrip.of_raw _ ?_
  have hp := pack_fields (l := [(0x17, 7), (0, 5), (a.val, 5), (0, 5), (n.val, 10)]) ⟨by decide, by decide, a.isLt, by decide, n.isLt, trivial⟩
  change decodeRaw (packWord [(0x17, 7), (0, 5), (a.val, 5), (0, 5), (n.val, 10)]) = _
  generalize packWord [(0x17, 7), (0, 5), (a.val, 5), (0, 5), (n.val, 10)] = w at *
  rw [decodeRaw_17 hp.1]
  have g0 : wordBits w 10 5 = 0 := hp.2.2.2.1
  have g1 : wordBits w 20 5 = 0 := hp.2.1
  simp only [decodeMajor17, g0, g1, and_true, true_and, and_false, false_and, and_self, Nat.reduceEqDiff, Nat.one_ne_zero, Nat.zero_ne_one, Nat.succ_ne_zero, ↓reduceIte]
  rw [show wordFin 32 w 15 = a from Fin.ext hp.2.2.1,
    show wordFin 1024 w 0 = n from Fin.ext hp.2.2.2.2.1]

theorem Roundtrip.beq (a : GReg) (b : GReg) (off : BitVec 15) : Roundtrip.Statement (.beq a b off) := by
  refine Roundtrip.of_raw _ ?_
  have hp := pack_fields (l := [(0x18, 7), (a.val, 5), (b.val, 5), (off.toNat, 15)]) ⟨by decide, a.isLt, b.isLt, off.isLt, trivial⟩
  change decodeRaw (packWord [(0x18, 7), (a.val, 5), (b.val, 5), (off.toNat, 15)]) = _
  generalize packWord [(0x18, 7), (a.val, 5), (b.val, 5), (off.toNat, 15)] = w at *
  rw [decodeRaw_18 hp.1]
  unfold decodeMajor18
  rw [show wordFin 32 w 20 = a from Fin.ext hp.2.1,
    show wordFin 32 w 15 = b from Fin.ext hp.2.2.1,
    show BitVec.ofNat 15 (wordBits w 0 15) = off from ofNat_bits _ hp.2.2.2.1]

theorem Roundtrip.bne (a : GReg) (b : GReg) (off : BitVec 15) : Roundtrip.Statement (.bne a b off) := by
  refine Roundtrip.of_raw _ ?_
  have hp := pack_fields (l := [(0x19, 7), (a.val, 5), (b.val, 5), (off.toNat, 15)]) ⟨by decide, a.isLt, b.isLt, off.isLt, trivial⟩
  change decodeRaw (packWord [(0x19, 7), (a.val, 5), (b.val, 5), (off.toNat, 15)]) = _
  generalize packWord [(0x19, 7), (a.val, 5), (b.val, 5), (off.toNat, 15)] = w at *
  rw [decodeRaw_19 hp.1]
  unfold decodeMajor19
  rw [show wordFin 32 w 20 = a from Fin.ext hp.2.1,
    show wordFin 32 w 15 = b from Fin.ext hp.2.2.1,
    show BitVec.ofNat 15 (wordBits w 0 15) = off from ofNat_bits _ hp.2.2.2.1]

theorem Roundtrip.blt (a : GReg) (b : GReg) (off : BitVec 15) : Roundtrip.Statement (.blt a b off) := by
  refine Roundtrip.of_raw _ ?_
  have hp := pack_fields (l := [(0x1A, 7), (a.val, 5), (b.val, 5), (off.toNat, 15)]) ⟨by decide, a.isLt, b.isLt, off.isLt, trivial⟩
  change decodeRaw (packWord [(0x1A, 7), (a.val, 5), (b.val, 5), (off.toNat, 15)]) = _
  generalize packWord [(0x1A, 7), (a.val, 5), (b.val, 5), (off.toNat, 15)] = w at *
  rw [decodeRaw_1A hp.1]
  unfold decodeMajor1A
  rw [show wordFin 32 w 20 = a from Fin.ext hp.2.1,
    show wordFin 32 w 15 = b from Fin.ext hp.2.2.1,
    show BitVec.ofNat 15 (wordBits w 0 15) = off from ofNat_bits _ hp.2.2.2.1]

theorem Roundtrip.bge (a : GReg) (b : GReg) (off : BitVec 15) : Roundtrip.Statement (.bge a b off) := by
  refine Roundtrip.of_raw _ ?_
  have hp := pack_fields (l := [(0x1B, 7), (a.val, 5), (b.val, 5), (off.toNat, 15)]) ⟨by decide, a.isLt, b.isLt, off.isLt, trivial⟩
  change decodeRaw (packWord [(0x1B, 7), (a.val, 5), (b.val, 5), (off.toNat, 15)]) = _
  generalize packWord [(0x1B, 7), (a.val, 5), (b.val, 5), (off.toNat, 15)] = w at *
  rw [decodeRaw_1B hp.1]
  unfold decodeMajor1B
  rw [show wordFin 32 w 20 = a from Fin.ext hp.2.1,
    show wordFin 32 w 15 = b from Fin.ext hp.2.2.1,
    show BitVec.ofNat 15 (wordBits w 0 15) = off from ofNat_bits _ hp.2.2.2.1]

theorem Roundtrip.bltn (a : GReg) (b : GReg) (off : BitVec 15) : Roundtrip.Statement (.bltn a b off) := by
  refine Roundtrip.of_raw _ ?_
  have hp := pack_fields (l := [(0x1C, 7), (a.val, 5), (b.val, 5), (off.toNat, 15)]) ⟨by decide, a.isLt, b.isLt, off.isLt, trivial⟩
  change decodeRaw (packWord [(0x1C, 7), (a.val, 5), (b.val, 5), (off.toNat, 15)]) = _
  generalize packWord [(0x1C, 7), (a.val, 5), (b.val, 5), (off.toNat, 15)] = w at *
  rw [decodeRaw_1C hp.1]
  unfold decodeMajor1C
  rw [show wordFin 32 w 20 = a from Fin.ext hp.2.1,
    show wordFin 32 w 15 = b from Fin.ext hp.2.2.1,
    show BitVec.ofNat 15 (wordBits w 0 15) = off from ofNat_bits _ hp.2.2.2.1]

theorem Roundtrip.bgen (a : GReg) (b : GReg) (off : BitVec 15) : Roundtrip.Statement (.bgen a b off) := by
  refine Roundtrip.of_raw _ ?_
  have hp := pack_fields (l := [(0x1D, 7), (a.val, 5), (b.val, 5), (off.toNat, 15)]) ⟨by decide, a.isLt, b.isLt, off.isLt, trivial⟩
  change decodeRaw (packWord [(0x1D, 7), (a.val, 5), (b.val, 5), (off.toNat, 15)]) = _
  generalize packWord [(0x1D, 7), (a.val, 5), (b.val, 5), (off.toNat, 15)] = w at *
  rw [decodeRaw_1D hp.1]
  unfold decodeMajor1D
  rw [show wordFin 32 w 20 = a from Fin.ext hp.2.1,
    show wordFin 32 w 15 = b from Fin.ext hp.2.2.1,
    show BitVec.ofNat 15 (wordBits w 0 15) = off from ofNat_bits _ hp.2.2.2.1]

theorem Roundtrip.jal (off : BitVec 25) : Roundtrip.Statement (.jal off) := by
  refine Roundtrip.of_raw _ ?_
  have hp := pack_fields (l := [(0x1E, 7), (off.toNat, 25)]) ⟨by decide, off.isLt, trivial⟩
  change decodeRaw (packWord [(0x1E, 7), (off.toNat, 25)]) = _
  generalize packWord [(0x1E, 7), (off.toNat, 25)] = w at *
  rw [decodeRaw_1E hp.1]
  unfold decodeMajor1E
  rw [show BitVec.ofNat 25 (wordBits w 0 25) = off from ofNat_bits _ hp.2.1]

theorem Roundtrip.jalr (d : GReg) (a : GReg) : Roundtrip.Statement (.jalr d a) := by
  refine Roundtrip.of_raw _ ?_
  have hp := pack_fields (l := [(0x1F, 7), (d.val, 5), (a.val, 5), (0, 5), (1, 10)]) ⟨by decide, d.isLt, a.isLt, by decide, by decide, trivial⟩
  change decodeRaw (packWord [(0x1F, 7), (d.val, 5), (a.val, 5), (0, 5), (1, 10)]) = _
  generalize packWord [(0x1F, 7), (d.val, 5), (a.val, 5), (0, 5), (1, 10)] = w at *
  rw [decodeRaw_1F hp.1]
  have f : wordBits w 0 10 = 1 := hp.2.2.2.2.1
  have g0 : wordBits w 10 5 = 0 := hp.2.2.2.1
  simp only [decodeMajor1F, f, g0, ↓reduceIte]
  rw [show wordFin 32 w 20 = d from Fin.ext hp.2.1,
    show wordFin 32 w 15 = a from Fin.ext hp.2.2.1]

theorem Roundtrip.loop (h : Fin 32) (a : GReg) (l : Fin 32) : Roundtrip.Statement (.loop h a l) := by
  refine Roundtrip.of_raw _ ?_
  have hp := pack_fields (l := [(0x1F, 7), (h.val, 5), (a.val, 5), (l.val, 5), (2, 10)]) ⟨by decide, h.isLt, a.isLt, l.isLt, by decide, trivial⟩
  change decodeRaw (packWord [(0x1F, 7), (h.val, 5), (a.val, 5), (l.val, 5), (2, 10)]) = _
  generalize packWord [(0x1F, 7), (h.val, 5), (a.val, 5), (l.val, 5), (2, 10)] = w at *
  rw [decodeRaw_1F hp.1]
  unfold decodeMajor1F
  rw [show wordBits w 0 10 = 2 from hp.2.2.2.2.1,
    show wordFin 32 w 20 = h from Fin.ext hp.2.1,
    show wordFin 32 w 15 = a from Fin.ext hp.2.2.1,
    show wordFin 32 w 10 = l from Fin.ext hp.2.2.2.1]
  try rfl

theorem Roundtrip.vrep (l : Fin 32) (a : GReg) : Roundtrip.Statement (.vrep l a) := by
  refine Roundtrip.of_raw _ ?_
  have hp := pack_fields (l := [(0x1F, 7), (l.val, 5), (a.val, 5), (0, 5), (3, 10)]) ⟨by decide, l.isLt, a.isLt, by decide, by decide, trivial⟩
  change decodeRaw (packWord [(0x1F, 7), (l.val, 5), (a.val, 5), (0, 5), (3, 10)]) = _
  generalize packWord [(0x1F, 7), (l.val, 5), (a.val, 5), (0, 5), (3, 10)] = w at *
  rw [decodeRaw_1F hp.1]
  have f : wordBits w 0 10 = 3 := hp.2.2.2.2.1
  have g0 : wordBits w 10 5 = 0 := hp.2.2.2.1
  simp only [decodeMajor1F, f, g0, ↓reduceIte]
  rw [show wordFin 32 w 20 = l from Fin.ext hp.2.1,
    show wordFin 32 w 15 = a from Fin.ext hp.2.2.1]

theorem Roundtrip.yield : Roundtrip.Statement .yield := by
  refine Roundtrip.of_raw _ ?_
  have hp := pack_fields (l := [(0x1F, 7), (0, 15), (4, 10)]) ⟨by decide, by decide, by decide, trivial⟩
  change decodeRaw (packWord [(0x1F, 7), (0, 15), (4, 10)]) = _
  generalize packWord [(0x1F, 7), (0, 15), (4, 10)] = w at *
  rw [decodeRaw_1F hp.1]
  have f : wordBits w 0 10 = 4 := hp.2.2.1
  have g0 : wordBits w 10 15 = 0 := hp.2.1
  simp only [decodeMajor1F, f, g0, ↓reduceIte]

theorem Roundtrip.sexit : Roundtrip.Statement .sexit := by
  refine Roundtrip.of_raw _ ?_
  have hp := pack_fields (l := [(0x1F, 7), (0, 15), (5, 10)]) ⟨by decide, by decide, by decide, trivial⟩
  change decodeRaw (packWord [(0x1F, 7), (0, 15), (5, 10)]) = _
  generalize packWord [(0x1F, 7), (0, 15), (5, 10)] = w at *
  rw [decodeRaw_1F hp.1]
  have f : wordBits w 0 10 = 5 := hp.2.2.1
  have g0 : wordBits w 10 15 = 0 := hp.2.1
  simp only [decodeMajor1F, f, g0, ↓reduceIte]

theorem Roundtrip.scall (h : Fin 32) (l : Fin 32) : Roundtrip.Statement (.scall h l) := by
  refine Roundtrip.of_raw _ ?_
  have hp := pack_fields (l := [(0x1F, 7), (h.val, 5), (0, 5), (l.val, 5), (6, 10)]) ⟨by decide, h.isLt, by decide, l.isLt, by decide, trivial⟩
  change decodeRaw (packWord [(0x1F, 7), (h.val, 5), (0, 5), (l.val, 5), (6, 10)]) = _
  generalize packWord [(0x1F, 7), (h.val, 5), (0, 5), (l.val, 5), (6, 10)] = w at *
  rw [decodeRaw_1F hp.1]
  have f : wordBits w 0 10 = 6 := hp.2.2.2.2.1
  have g0 : wordBits w 15 5 = 0 := hp.2.2.1
  simp only [decodeMajor1F, f, g0, ↓reduceIte]
  rw [show wordFin 32 w 20 = h from Fin.ext hp.2.1,
    show wordFin 32 w 10 = l from Fin.ext hp.2.2.2.1]

theorem Roundtrip.brk (h : Fin 32) (l : Fin 32) : Roundtrip.Statement (.brk h l) := by
  refine Roundtrip.of_raw _ ?_
  have hp := pack_fields (l := [(0x1F, 7), (h.val, 5), (0, 5), (l.val, 5), (7, 10)]) ⟨by decide, h.isLt, by decide, l.isLt, by decide, trivial⟩
  change decodeRaw (packWord [(0x1F, 7), (h.val, 5), (0, 5), (l.val, 5), (7, 10)]) = _
  generalize packWord [(0x1F, 7), (h.val, 5), (0, 5), (l.val, 5), (7, 10)] = w at *
  rw [decodeRaw_1F hp.1]
  have f : wordBits w 0 10 = 7 := hp.2.2.2.2.1
  have g0 : wordBits w 15 5 = 0 := hp.2.2.1
  simp only [decodeMajor1F, f, g0, ↓reduceIte]
  rw [show wordFin 32 w 20 = h from Fin.ext hp.2.1,
    show wordFin 32 w 10 = l from Fin.ext hp.2.2.2.1]

theorem Roundtrip.qw (q : Fin 32) (a : GReg) : Roundtrip.Statement (.qw q a) := by
  refine Roundtrip.of_raw _ ?_
  have hp := pack_fields (l := [(0x1F, 7), (q.val, 5), (a.val, 5), (0, 5), (16, 10)]) ⟨by decide, q.isLt, a.isLt, by decide, by decide, trivial⟩
  change decodeRaw (packWord [(0x1F, 7), (q.val, 5), (a.val, 5), (0, 5), (16, 10)]) = _
  generalize packWord [(0x1F, 7), (q.val, 5), (a.val, 5), (0, 5), (16, 10)] = w at *
  rw [decodeRaw_1F hp.1]
  have f : wordBits w 0 10 = 16 := hp.2.2.2.2.1
  have g0 : wordBits w 10 5 = 0 := hp.2.2.2.1
  simp only [decodeMajor1F, f, g0, ↓reduceIte]
  rw [show wordFin 32 w 20 = q from Fin.ext hp.2.1,
    show wordFin 32 w 15 = a from Fin.ext hp.2.2.1]

theorem Roundtrip.qr (d : GReg) (q : Fin 32) : Roundtrip.Statement (.qr d q) := by
  refine Roundtrip.of_raw _ ?_
  have hp := pack_fields (l := [(0x1F, 7), (d.val, 5), (q.val, 5), (0, 5), (17, 10)]) ⟨by decide, d.isLt, q.isLt, by decide, by decide, trivial⟩
  change decodeRaw (packWord [(0x1F, 7), (d.val, 5), (q.val, 5), (0, 5), (17, 10)]) = _
  generalize packWord [(0x1F, 7), (d.val, 5), (q.val, 5), (0, 5), (17, 10)] = w at *
  rw [decodeRaw_1F hp.1]
  have f : wordBits w 0 10 = 17 := hp.2.2.2.2.1
  have g0 : wordBits w 10 5 = 0 := hp.2.2.2.1
  simp only [decodeMajor1F, f, g0, ↓reduceIte]
  rw [show wordFin 32 w 20 = d from Fin.ext hp.2.1,
    show wordFin 32 w 15 = q from Fin.ext hp.2.2.1]

theorem Roundtrip.qpeek (d : GReg) (q : Fin 32) : Roundtrip.Statement (.qpeek d q) := by
  refine Roundtrip.of_raw _ ?_
  have hp := pack_fields (l := [(0x1F, 7), (d.val, 5), (q.val, 5), (0, 5), (18, 10)]) ⟨by decide, d.isLt, q.isLt, by decide, by decide, trivial⟩
  change decodeRaw (packWord [(0x1F, 7), (d.val, 5), (q.val, 5), (0, 5), (18, 10)]) = _
  generalize packWord [(0x1F, 7), (d.val, 5), (q.val, 5), (0, 5), (18, 10)] = w at *
  rw [decodeRaw_1F hp.1]
  have f : wordBits w 0 10 = 18 := hp.2.2.2.2.1
  have g0 : wordBits w 10 5 = 0 := hp.2.2.2.1
  simp only [decodeMajor1F, f, g0, ↓reduceIte]
  rw [show wordFin 32 w 20 = d from Fin.ext hp.2.1,
    show wordFin 32 w 15 = q from Fin.ext hp.2.2.1]

theorem Roundtrip.qstat (d : GReg) (q : Fin 32) : Roundtrip.Statement (.qstat d q) := by
  refine Roundtrip.of_raw _ ?_
  have hp := pack_fields (l := [(0x1F, 7), (d.val, 5), (q.val, 5), (0, 5), (19, 10)]) ⟨by decide, d.isLt, q.isLt, by decide, by decide, trivial⟩
  change decodeRaw (packWord [(0x1F, 7), (d.val, 5), (q.val, 5), (0, 5), (19, 10)]) = _
  generalize packWord [(0x1F, 7), (d.val, 5), (q.val, 5), (0, 5), (19, 10)] = w at *
  rw [decodeRaw_1F hp.1]
  have f : wordBits w 0 10 = 19 := hp.2.2.2.2.1
  have g0 : wordBits w 10 5 = 0 := hp.2.2.2.1
  simp only [decodeMajor1F, f, g0, ↓reduceIte]
  rw [show wordFin 32 w 20 = d from Fin.ext hp.2.1,
    show wordFin 32 w 15 = q from Fin.ext hp.2.2.1]

theorem Roundtrip.vadd (d : VReg) (a : VReg) (b : VReg) (mk : MReg) (me : Bool) : Roundtrip.Statement (.vadd d a b mk me) := by
  refine Roundtrip.of_raw _ ?_
  have hp := pack_fields (l := [(0x20, 7), (d.val, 5), (a.val, 5), (b.val, 5), (mk.val, 4), (me.toNat, 1), (0, 5)]) ⟨by decide, d.isLt, a.isLt, b.isLt, mk.isLt, Bool.toNat_lt me, by decide, trivial⟩
  change decodeRaw (packWord [(0x20, 7), (d.val, 5), (a.val, 5), (b.val, 5), (mk.val, 4), (me.toNat, 1), (0, 5)]) = _
  generalize packWord [(0x20, 7), (d.val, 5), (a.val, 5), (b.val, 5), (mk.val, 4), (me.toNat, 1), (0, 5)] = w at *
  rw [decodeRaw_20 hp.1]
  unfold decodeMajor20
  rw [show wordBits w 0 5 = 0 from hp.2.2.2.2.2.2.1,
    show wordFin 32 w 20 = d from Fin.ext hp.2.1,
    show wordFin 32 w 15 = a from Fin.ext hp.2.2.1,
    show wordFin 32 w 10 = b from Fin.ext hp.2.2.2.1,
    show wordFin 16 w 6 = mk from Fin.ext hp.2.2.2.2.1,
    show (wordBits w 5 1 == 1) = me from bool_bits _ hp.2.2.2.2.2.1]
  try rfl

theorem Roundtrip.vsub (d : VReg) (a : VReg) (b : VReg) (mk : MReg) (me : Bool) : Roundtrip.Statement (.vsub d a b mk me) := by
  refine Roundtrip.of_raw _ ?_
  have hp := pack_fields (l := [(0x20, 7), (d.val, 5), (a.val, 5), (b.val, 5), (mk.val, 4), (me.toNat, 1), (1, 5)]) ⟨by decide, d.isLt, a.isLt, b.isLt, mk.isLt, Bool.toNat_lt me, by decide, trivial⟩
  change decodeRaw (packWord [(0x20, 7), (d.val, 5), (a.val, 5), (b.val, 5), (mk.val, 4), (me.toNat, 1), (1, 5)]) = _
  generalize packWord [(0x20, 7), (d.val, 5), (a.val, 5), (b.val, 5), (mk.val, 4), (me.toNat, 1), (1, 5)] = w at *
  rw [decodeRaw_20 hp.1]
  unfold decodeMajor20
  rw [show wordBits w 0 5 = 1 from hp.2.2.2.2.2.2.1,
    show wordFin 32 w 20 = d from Fin.ext hp.2.1,
    show wordFin 32 w 15 = a from Fin.ext hp.2.2.1,
    show wordFin 32 w 10 = b from Fin.ext hp.2.2.2.1,
    show wordFin 16 w 6 = mk from Fin.ext hp.2.2.2.2.1,
    show (wordBits w 5 1 == 1) = me from bool_bits _ hp.2.2.2.2.2.1]
  try rfl

theorem Roundtrip.vmul (d : VReg) (a : VReg) (b : VReg) (mk : MReg) (me : Bool) : Roundtrip.Statement (.vmul d a b mk me) := by
  refine Roundtrip.of_raw _ ?_
  have hp := pack_fields (l := [(0x20, 7), (d.val, 5), (a.val, 5), (b.val, 5), (mk.val, 4), (me.toNat, 1), (2, 5)]) ⟨by decide, d.isLt, a.isLt, b.isLt, mk.isLt, Bool.toNat_lt me, by decide, trivial⟩
  change decodeRaw (packWord [(0x20, 7), (d.val, 5), (a.val, 5), (b.val, 5), (mk.val, 4), (me.toNat, 1), (2, 5)]) = _
  generalize packWord [(0x20, 7), (d.val, 5), (a.val, 5), (b.val, 5), (mk.val, 4), (me.toNat, 1), (2, 5)] = w at *
  rw [decodeRaw_20 hp.1]
  unfold decodeMajor20
  rw [show wordBits w 0 5 = 2 from hp.2.2.2.2.2.2.1,
    show wordFin 32 w 20 = d from Fin.ext hp.2.1,
    show wordFin 32 w 15 = a from Fin.ext hp.2.2.1,
    show wordFin 32 w 10 = b from Fin.ext hp.2.2.2.1,
    show wordFin 16 w 6 = mk from Fin.ext hp.2.2.2.2.1,
    show (wordBits w 5 1 == 1) = me from bool_bits _ hp.2.2.2.2.2.1]
  try rfl

theorem Roundtrip.vdiv (d : VReg) (a : VReg) (b : VReg) (mk : MReg) (me : Bool) : Roundtrip.Statement (.vdiv d a b mk me) := by
  refine Roundtrip.of_raw _ ?_
  have hp := pack_fields (l := [(0x20, 7), (d.val, 5), (a.val, 5), (b.val, 5), (mk.val, 4), (me.toNat, 1), (3, 5)]) ⟨by decide, d.isLt, a.isLt, b.isLt, mk.isLt, Bool.toNat_lt me, by decide, trivial⟩
  change decodeRaw (packWord [(0x20, 7), (d.val, 5), (a.val, 5), (b.val, 5), (mk.val, 4), (me.toNat, 1), (3, 5)]) = _
  generalize packWord [(0x20, 7), (d.val, 5), (a.val, 5), (b.val, 5), (mk.val, 4), (me.toNat, 1), (3, 5)] = w at *
  rw [decodeRaw_20 hp.1]
  unfold decodeMajor20
  rw [show wordBits w 0 5 = 3 from hp.2.2.2.2.2.2.1,
    show wordFin 32 w 20 = d from Fin.ext hp.2.1,
    show wordFin 32 w 15 = a from Fin.ext hp.2.2.1,
    show wordFin 32 w 10 = b from Fin.ext hp.2.2.2.1,
    show wordFin 16 w 6 = mk from Fin.ext hp.2.2.2.2.1,
    show (wordBits w 5 1 == 1) = me from bool_bits _ hp.2.2.2.2.2.1]
  try rfl

theorem Roundtrip.vmin (d : VReg) (a : VReg) (b : VReg) (mk : MReg) (me : Bool) : Roundtrip.Statement (.vmin d a b mk me) := by
  refine Roundtrip.of_raw _ ?_
  have hp := pack_fields (l := [(0x20, 7), (d.val, 5), (a.val, 5), (b.val, 5), (mk.val, 4), (me.toNat, 1), (4, 5)]) ⟨by decide, d.isLt, a.isLt, b.isLt, mk.isLt, Bool.toNat_lt me, by decide, trivial⟩
  change decodeRaw (packWord [(0x20, 7), (d.val, 5), (a.val, 5), (b.val, 5), (mk.val, 4), (me.toNat, 1), (4, 5)]) = _
  generalize packWord [(0x20, 7), (d.val, 5), (a.val, 5), (b.val, 5), (mk.val, 4), (me.toNat, 1), (4, 5)] = w at *
  rw [decodeRaw_20 hp.1]
  unfold decodeMajor20
  rw [show wordBits w 0 5 = 4 from hp.2.2.2.2.2.2.1,
    show wordFin 32 w 20 = d from Fin.ext hp.2.1,
    show wordFin 32 w 15 = a from Fin.ext hp.2.2.1,
    show wordFin 32 w 10 = b from Fin.ext hp.2.2.2.1,
    show wordFin 16 w 6 = mk from Fin.ext hp.2.2.2.2.1,
    show (wordBits w 5 1 == 1) = me from bool_bits _ hp.2.2.2.2.2.1]
  try rfl

theorem Roundtrip.vmax (d : VReg) (a : VReg) (b : VReg) (mk : MReg) (me : Bool) : Roundtrip.Statement (.vmax d a b mk me) := by
  refine Roundtrip.of_raw _ ?_
  have hp := pack_fields (l := [(0x20, 7), (d.val, 5), (a.val, 5), (b.val, 5), (mk.val, 4), (me.toNat, 1), (5, 5)]) ⟨by decide, d.isLt, a.isLt, b.isLt, mk.isLt, Bool.toNat_lt me, by decide, trivial⟩
  change decodeRaw (packWord [(0x20, 7), (d.val, 5), (a.val, 5), (b.val, 5), (mk.val, 4), (me.toNat, 1), (5, 5)]) = _
  generalize packWord [(0x20, 7), (d.val, 5), (a.val, 5), (b.val, 5), (mk.val, 4), (me.toNat, 1), (5, 5)] = w at *
  rw [decodeRaw_20 hp.1]
  unfold decodeMajor20
  rw [show wordBits w 0 5 = 5 from hp.2.2.2.2.2.2.1,
    show wordFin 32 w 20 = d from Fin.ext hp.2.1,
    show wordFin 32 w 15 = a from Fin.ext hp.2.2.1,
    show wordFin 32 w 10 = b from Fin.ext hp.2.2.2.1,
    show wordFin 16 w 6 = mk from Fin.ext hp.2.2.2.2.1,
    show (wordBits w 5 1 == 1) = me from bool_bits _ hp.2.2.2.2.2.1]
  try rfl

theorem Roundtrip.vand (d : VReg) (a : VReg) (b : VReg) (mk : MReg) (me : Bool) : Roundtrip.Statement (.vand d a b mk me) := by
  refine Roundtrip.of_raw _ ?_
  have hp := pack_fields (l := [(0x20, 7), (d.val, 5), (a.val, 5), (b.val, 5), (mk.val, 4), (me.toNat, 1), (6, 5)]) ⟨by decide, d.isLt, a.isLt, b.isLt, mk.isLt, Bool.toNat_lt me, by decide, trivial⟩
  change decodeRaw (packWord [(0x20, 7), (d.val, 5), (a.val, 5), (b.val, 5), (mk.val, 4), (me.toNat, 1), (6, 5)]) = _
  generalize packWord [(0x20, 7), (d.val, 5), (a.val, 5), (b.val, 5), (mk.val, 4), (me.toNat, 1), (6, 5)] = w at *
  rw [decodeRaw_20 hp.1]
  unfold decodeMajor20
  rw [show wordBits w 0 5 = 6 from hp.2.2.2.2.2.2.1,
    show wordFin 32 w 20 = d from Fin.ext hp.2.1,
    show wordFin 32 w 15 = a from Fin.ext hp.2.2.1,
    show wordFin 32 w 10 = b from Fin.ext hp.2.2.2.1,
    show wordFin 16 w 6 = mk from Fin.ext hp.2.2.2.2.1,
    show (wordBits w 5 1 == 1) = me from bool_bits _ hp.2.2.2.2.2.1]
  try rfl

theorem Roundtrip.vor (d : VReg) (a : VReg) (b : VReg) (mk : MReg) (me : Bool) : Roundtrip.Statement (.vor d a b mk me) := by
  refine Roundtrip.of_raw _ ?_
  have hp := pack_fields (l := [(0x20, 7), (d.val, 5), (a.val, 5), (b.val, 5), (mk.val, 4), (me.toNat, 1), (7, 5)]) ⟨by decide, d.isLt, a.isLt, b.isLt, mk.isLt, Bool.toNat_lt me, by decide, trivial⟩
  change decodeRaw (packWord [(0x20, 7), (d.val, 5), (a.val, 5), (b.val, 5), (mk.val, 4), (me.toNat, 1), (7, 5)]) = _
  generalize packWord [(0x20, 7), (d.val, 5), (a.val, 5), (b.val, 5), (mk.val, 4), (me.toNat, 1), (7, 5)] = w at *
  rw [decodeRaw_20 hp.1]
  unfold decodeMajor20
  rw [show wordBits w 0 5 = 7 from hp.2.2.2.2.2.2.1,
    show wordFin 32 w 20 = d from Fin.ext hp.2.1,
    show wordFin 32 w 15 = a from Fin.ext hp.2.2.1,
    show wordFin 32 w 10 = b from Fin.ext hp.2.2.2.1,
    show wordFin 16 w 6 = mk from Fin.ext hp.2.2.2.2.1,
    show (wordBits w 5 1 == 1) = me from bool_bits _ hp.2.2.2.2.2.1]
  try rfl

theorem Roundtrip.vxor (d : VReg) (a : VReg) (b : VReg) (mk : MReg) (me : Bool) : Roundtrip.Statement (.vxor d a b mk me) := by
  refine Roundtrip.of_raw _ ?_
  have hp := pack_fields (l := [(0x20, 7), (d.val, 5), (a.val, 5), (b.val, 5), (mk.val, 4), (me.toNat, 1), (8, 5)]) ⟨by decide, d.isLt, a.isLt, b.isLt, mk.isLt, Bool.toNat_lt me, by decide, trivial⟩
  change decodeRaw (packWord [(0x20, 7), (d.val, 5), (a.val, 5), (b.val, 5), (mk.val, 4), (me.toNat, 1), (8, 5)]) = _
  generalize packWord [(0x20, 7), (d.val, 5), (a.val, 5), (b.val, 5), (mk.val, 4), (me.toNat, 1), (8, 5)] = w at *
  rw [decodeRaw_20 hp.1]
  unfold decodeMajor20
  rw [show wordBits w 0 5 = 8 from hp.2.2.2.2.2.2.1,
    show wordFin 32 w 20 = d from Fin.ext hp.2.1,
    show wordFin 32 w 15 = a from Fin.ext hp.2.2.1,
    show wordFin 32 w 10 = b from Fin.ext hp.2.2.2.1,
    show wordFin 16 w 6 = mk from Fin.ext hp.2.2.2.2.1,
    show (wordBits w 5 1 == 1) = me from bool_bits _ hp.2.2.2.2.2.1]
  try rfl

theorem Roundtrip.vshl (d : VReg) (a : VReg) (b : VReg) (mk : MReg) (me : Bool) : Roundtrip.Statement (.vshl d a b mk me) := by
  refine Roundtrip.of_raw _ ?_
  have hp := pack_fields (l := [(0x20, 7), (d.val, 5), (a.val, 5), (b.val, 5), (mk.val, 4), (me.toNat, 1), (9, 5)]) ⟨by decide, d.isLt, a.isLt, b.isLt, mk.isLt, Bool.toNat_lt me, by decide, trivial⟩
  change decodeRaw (packWord [(0x20, 7), (d.val, 5), (a.val, 5), (b.val, 5), (mk.val, 4), (me.toNat, 1), (9, 5)]) = _
  generalize packWord [(0x20, 7), (d.val, 5), (a.val, 5), (b.val, 5), (mk.val, 4), (me.toNat, 1), (9, 5)] = w at *
  rw [decodeRaw_20 hp.1]
  unfold decodeMajor20
  rw [show wordBits w 0 5 = 9 from hp.2.2.2.2.2.2.1,
    show wordFin 32 w 20 = d from Fin.ext hp.2.1,
    show wordFin 32 w 15 = a from Fin.ext hp.2.2.1,
    show wordFin 32 w 10 = b from Fin.ext hp.2.2.2.1,
    show wordFin 16 w 6 = mk from Fin.ext hp.2.2.2.2.1,
    show (wordBits w 5 1 == 1) = me from bool_bits _ hp.2.2.2.2.2.1]
  try rfl

theorem Roundtrip.vshr (d : VReg) (a : VReg) (b : VReg) (mk : MReg) (me : Bool) : Roundtrip.Statement (.vshr d a b mk me) := by
  refine Roundtrip.of_raw _ ?_
  have hp := pack_fields (l := [(0x20, 7), (d.val, 5), (a.val, 5), (b.val, 5), (mk.val, 4), (me.toNat, 1), (10, 5)]) ⟨by decide, d.isLt, a.isLt, b.isLt, mk.isLt, Bool.toNat_lt me, by decide, trivial⟩
  change decodeRaw (packWord [(0x20, 7), (d.val, 5), (a.val, 5), (b.val, 5), (mk.val, 4), (me.toNat, 1), (10, 5)]) = _
  generalize packWord [(0x20, 7), (d.val, 5), (a.val, 5), (b.val, 5), (mk.val, 4), (me.toNat, 1), (10, 5)] = w at *
  rw [decodeRaw_20 hp.1]
  unfold decodeMajor20
  rw [show wordBits w 0 5 = 10 from hp.2.2.2.2.2.2.1,
    show wordFin 32 w 20 = d from Fin.ext hp.2.1,
    show wordFin 32 w 15 = a from Fin.ext hp.2.2.1,
    show wordFin 32 w 10 = b from Fin.ext hp.2.2.2.1,
    show wordFin 16 w 6 = mk from Fin.ext hp.2.2.2.2.1,
    show (wordBits w 5 1 == 1) = me from bool_bits _ hp.2.2.2.2.2.1]
  try rfl

theorem Roundtrip.vsra (d : VReg) (a : VReg) (b : VReg) (mk : MReg) (me : Bool) : Roundtrip.Statement (.vsra d a b mk me) := by
  refine Roundtrip.of_raw _ ?_
  have hp := pack_fields (l := [(0x20, 7), (d.val, 5), (a.val, 5), (b.val, 5), (mk.val, 4), (me.toNat, 1), (11, 5)]) ⟨by decide, d.isLt, a.isLt, b.isLt, mk.isLt, Bool.toNat_lt me, by decide, trivial⟩
  change decodeRaw (packWord [(0x20, 7), (d.val, 5), (a.val, 5), (b.val, 5), (mk.val, 4), (me.toNat, 1), (11, 5)]) = _
  generalize packWord [(0x20, 7), (d.val, 5), (a.val, 5), (b.val, 5), (mk.val, 4), (me.toNat, 1), (11, 5)] = w at *
  rw [decodeRaw_20 hp.1]
  unfold decodeMajor20
  rw [show wordBits w 0 5 = 11 from hp.2.2.2.2.2.2.1,
    show wordFin 32 w 20 = d from Fin.ext hp.2.1,
    show wordFin 32 w 15 = a from Fin.ext hp.2.2.1,
    show wordFin 32 w 10 = b from Fin.ext hp.2.2.2.1,
    show wordFin 16 w 6 = mk from Fin.ext hp.2.2.2.2.1,
    show (wordBits w 5 1 == 1) = me from bool_bits _ hp.2.2.2.2.2.1]
  try rfl

theorem Roundtrip.vwmul (d : VReg) (a : VReg) (b : VReg) (mk : MReg) (me : Bool) : Roundtrip.Statement (.vwmul d a b mk me) := by
  refine Roundtrip.of_raw _ ?_
  have hp := pack_fields (l := [(0x20, 7), (d.val, 5), (a.val, 5), (b.val, 5), (mk.val, 4), (me.toNat, 1), (12, 5)]) ⟨by decide, d.isLt, a.isLt, b.isLt, mk.isLt, Bool.toNat_lt me, by decide, trivial⟩
  change decodeRaw (packWord [(0x20, 7), (d.val, 5), (a.val, 5), (b.val, 5), (mk.val, 4), (me.toNat, 1), (12, 5)]) = _
  generalize packWord [(0x20, 7), (d.val, 5), (a.val, 5), (b.val, 5), (mk.val, 4), (me.toNat, 1), (12, 5)] = w at *
  rw [decodeRaw_20 hp.1]
  unfold decodeMajor20
  rw [show wordBits w 0 5 = 12 from hp.2.2.2.2.2.2.1,
    show wordFin 32 w 20 = d from Fin.ext hp.2.1,
    show wordFin 32 w 15 = a from Fin.ext hp.2.2.1,
    show wordFin 32 w 10 = b from Fin.ext hp.2.2.2.1,
    show wordFin 16 w 6 = mk from Fin.ext hp.2.2.2.2.1,
    show (wordBits w 5 1 == 1) = me from bool_bits _ hp.2.2.2.2.2.1]
  try rfl

theorem Roundtrip.vwadd (d : VReg) (a : VReg) (b : VReg) (mk : MReg) (me : Bool) : Roundtrip.Statement (.vwadd d a b mk me) := by
  refine Roundtrip.of_raw _ ?_
  have hp := pack_fields (l := [(0x20, 7), (d.val, 5), (a.val, 5), (b.val, 5), (mk.val, 4), (me.toNat, 1), (13, 5)]) ⟨by decide, d.isLt, a.isLt, b.isLt, mk.isLt, Bool.toNat_lt me, by decide, trivial⟩
  change decodeRaw (packWord [(0x20, 7), (d.val, 5), (a.val, 5), (b.val, 5), (mk.val, 4), (me.toNat, 1), (13, 5)]) = _
  generalize packWord [(0x20, 7), (d.val, 5), (a.val, 5), (b.val, 5), (mk.val, 4), (me.toNat, 1), (13, 5)] = w at *
  rw [decodeRaw_20 hp.1]
  unfold decodeMajor20
  rw [show wordBits w 0 5 = 13 from hp.2.2.2.2.2.2.1,
    show wordFin 32 w 20 = d from Fin.ext hp.2.1,
    show wordFin 32 w 15 = a from Fin.ext hp.2.2.1,
    show wordFin 32 w 10 = b from Fin.ext hp.2.2.2.1,
    show wordFin 16 w 6 = mk from Fin.ext hp.2.2.2.2.1,
    show (wordBits w 5 1 == 1) = me from bool_bits _ hp.2.2.2.2.2.1]
  try rfl

theorem Roundtrip.vfma (d : VReg) (a : VReg) (b : VReg) (mk : MReg) (me : Bool) : Roundtrip.Statement (.vfma d a b mk me) := by
  refine Roundtrip.of_raw _ ?_
  have hp := pack_fields (l := [(0x21, 7), (d.val, 5), (a.val, 5), (b.val, 5), (mk.val, 4), (me.toNat, 1), (0, 5)]) ⟨by decide, d.isLt, a.isLt, b.isLt, mk.isLt, Bool.toNat_lt me, by decide, trivial⟩
  change decodeRaw (packWord [(0x21, 7), (d.val, 5), (a.val, 5), (b.val, 5), (mk.val, 4), (me.toNat, 1), (0, 5)]) = _
  generalize packWord [(0x21, 7), (d.val, 5), (a.val, 5), (b.val, 5), (mk.val, 4), (me.toNat, 1), (0, 5)] = w at *
  rw [decodeRaw_21 hp.1]
  unfold decodeMajor21
  rw [show wordBits w 0 5 = 0 from hp.2.2.2.2.2.2.1,
    show wordFin 32 w 20 = d from Fin.ext hp.2.1,
    show wordFin 32 w 15 = a from Fin.ext hp.2.2.1,
    show wordFin 32 w 10 = b from Fin.ext hp.2.2.2.1,
    show wordFin 16 w 6 = mk from Fin.ext hp.2.2.2.2.1,
    show (wordBits w 5 1 == 1) = me from bool_bits _ hp.2.2.2.2.2.1]
  try rfl

theorem Roundtrip.vfms (d : VReg) (a : VReg) (b : VReg) (mk : MReg) (me : Bool) : Roundtrip.Statement (.vfms d a b mk me) := by
  refine Roundtrip.of_raw _ ?_
  have hp := pack_fields (l := [(0x21, 7), (d.val, 5), (a.val, 5), (b.val, 5), (mk.val, 4), (me.toNat, 1), (1, 5)]) ⟨by decide, d.isLt, a.isLt, b.isLt, mk.isLt, Bool.toNat_lt me, by decide, trivial⟩
  change decodeRaw (packWord [(0x21, 7), (d.val, 5), (a.val, 5), (b.val, 5), (mk.val, 4), (me.toNat, 1), (1, 5)]) = _
  generalize packWord [(0x21, 7), (d.val, 5), (a.val, 5), (b.val, 5), (mk.val, 4), (me.toNat, 1), (1, 5)] = w at *
  rw [decodeRaw_21 hp.1]
  unfold decodeMajor21
  rw [show wordBits w 0 5 = 1 from hp.2.2.2.2.2.2.1,
    show wordFin 32 w 20 = d from Fin.ext hp.2.1,
    show wordFin 32 w 15 = a from Fin.ext hp.2.2.1,
    show wordFin 32 w 10 = b from Fin.ext hp.2.2.2.1,
    show wordFin 16 w 6 = mk from Fin.ext hp.2.2.2.2.1,
    show (wordBits w 5 1 == 1) = me from bool_bits _ hp.2.2.2.2.2.1]
  try rfl

theorem Roundtrip.vfnma (d : VReg) (a : VReg) (b : VReg) (mk : MReg) (me : Bool) : Roundtrip.Statement (.vfnma d a b mk me) := by
  refine Roundtrip.of_raw _ ?_
  have hp := pack_fields (l := [(0x21, 7), (d.val, 5), (a.val, 5), (b.val, 5), (mk.val, 4), (me.toNat, 1), (2, 5)]) ⟨by decide, d.isLt, a.isLt, b.isLt, mk.isLt, Bool.toNat_lt me, by decide, trivial⟩
  change decodeRaw (packWord [(0x21, 7), (d.val, 5), (a.val, 5), (b.val, 5), (mk.val, 4), (me.toNat, 1), (2, 5)]) = _
  generalize packWord [(0x21, 7), (d.val, 5), (a.val, 5), (b.val, 5), (mk.val, 4), (me.toNat, 1), (2, 5)] = w at *
  rw [decodeRaw_21 hp.1]
  unfold decodeMajor21
  rw [show wordBits w 0 5 = 2 from hp.2.2.2.2.2.2.1,
    show wordFin 32 w 20 = d from Fin.ext hp.2.1,
    show wordFin 32 w 15 = a from Fin.ext hp.2.2.1,
    show wordFin 32 w 10 = b from Fin.ext hp.2.2.2.1,
    show wordFin 16 w 6 = mk from Fin.ext hp.2.2.2.2.1,
    show (wordBits w 5 1 == 1) = me from bool_bits _ hp.2.2.2.2.2.1]
  try rfl

theorem Roundtrip.vsqrt (d : VReg) (a : VReg) (mk : MReg) (me : Bool) : Roundtrip.Statement (.vsqrt d a mk me) := by
  refine Roundtrip.of_raw _ ?_
  have hp := pack_fields (l := [(0x22, 7), (d.val, 5), (a.val, 5), (0, 5), (mk.val, 4), (me.toNat, 1), (0, 5)]) ⟨by decide, d.isLt, a.isLt, by decide, mk.isLt, Bool.toNat_lt me, by decide, trivial⟩
  change decodeRaw (packWord [(0x22, 7), (d.val, 5), (a.val, 5), (0, 5), (mk.val, 4), (me.toNat, 1), (0, 5)]) = _
  generalize packWord [(0x22, 7), (d.val, 5), (a.val, 5), (0, 5), (mk.val, 4), (me.toNat, 1), (0, 5)] = w at *
  rw [decodeRaw_22 hp.1]
  have f : wordBits w 0 5 = 0 := hp.2.2.2.2.2.2.1
  have g0 : wordBits w 10 5 = 0 := hp.2.2.2.1
  simp only [decodeMajor22, f, g0, ↓reduceIte]
  rw [show wordFin 32 w 20 = d from Fin.ext hp.2.1,
    show wordFin 32 w 15 = a from Fin.ext hp.2.2.1,
    show wordFin 16 w 6 = mk from Fin.ext hp.2.2.2.2.1,
    show (wordBits w 5 1 == 1) = me from bool_bits _ hp.2.2.2.2.2.1]

theorem Roundtrip.vrcp (d : VReg) (a : VReg) (mk : MReg) (me : Bool) : Roundtrip.Statement (.vrcp d a mk me) := by
  refine Roundtrip.of_raw _ ?_
  have hp := pack_fields (l := [(0x22, 7), (d.val, 5), (a.val, 5), (0, 5), (mk.val, 4), (me.toNat, 1), (1, 5)]) ⟨by decide, d.isLt, a.isLt, by decide, mk.isLt, Bool.toNat_lt me, by decide, trivial⟩
  change decodeRaw (packWord [(0x22, 7), (d.val, 5), (a.val, 5), (0, 5), (mk.val, 4), (me.toNat, 1), (1, 5)]) = _
  generalize packWord [(0x22, 7), (d.val, 5), (a.val, 5), (0, 5), (mk.val, 4), (me.toNat, 1), (1, 5)] = w at *
  rw [decodeRaw_22 hp.1]
  have f : wordBits w 0 5 = 1 := hp.2.2.2.2.2.2.1
  have g0 : wordBits w 10 5 = 0 := hp.2.2.2.1
  simp only [decodeMajor22, f, g0, ↓reduceIte]
  rw [show wordFin 32 w 20 = d from Fin.ext hp.2.1,
    show wordFin 32 w 15 = a from Fin.ext hp.2.2.1,
    show wordFin 16 w 6 = mk from Fin.ext hp.2.2.2.2.1,
    show (wordBits w 5 1 == 1) = me from bool_bits _ hp.2.2.2.2.2.1]

theorem Roundtrip.vabs (d : VReg) (a : VReg) (mk : MReg) (me : Bool) : Roundtrip.Statement (.vabs d a mk me) := by
  refine Roundtrip.of_raw _ ?_
  have hp := pack_fields (l := [(0x22, 7), (d.val, 5), (a.val, 5), (0, 5), (mk.val, 4), (me.toNat, 1), (2, 5)]) ⟨by decide, d.isLt, a.isLt, by decide, mk.isLt, Bool.toNat_lt me, by decide, trivial⟩
  change decodeRaw (packWord [(0x22, 7), (d.val, 5), (a.val, 5), (0, 5), (mk.val, 4), (me.toNat, 1), (2, 5)]) = _
  generalize packWord [(0x22, 7), (d.val, 5), (a.val, 5), (0, 5), (mk.val, 4), (me.toNat, 1), (2, 5)] = w at *
  rw [decodeRaw_22 hp.1]
  have f : wordBits w 0 5 = 2 := hp.2.2.2.2.2.2.1
  have g0 : wordBits w 10 5 = 0 := hp.2.2.2.1
  simp only [decodeMajor22, f, g0, ↓reduceIte]
  rw [show wordFin 32 w 20 = d from Fin.ext hp.2.1,
    show wordFin 32 w 15 = a from Fin.ext hp.2.2.1,
    show wordFin 16 w 6 = mk from Fin.ext hp.2.2.2.2.1,
    show (wordBits w 5 1 == 1) = me from bool_bits _ hp.2.2.2.2.2.1]

theorem Roundtrip.vneg (d : VReg) (a : VReg) (mk : MReg) (me : Bool) : Roundtrip.Statement (.vneg d a mk me) := by
  refine Roundtrip.of_raw _ ?_
  have hp := pack_fields (l := [(0x22, 7), (d.val, 5), (a.val, 5), (0, 5), (mk.val, 4), (me.toNat, 1), (3, 5)]) ⟨by decide, d.isLt, a.isLt, by decide, mk.isLt, Bool.toNat_lt me, by decide, trivial⟩
  change decodeRaw (packWord [(0x22, 7), (d.val, 5), (a.val, 5), (0, 5), (mk.val, 4), (me.toNat, 1), (3, 5)]) = _
  generalize packWord [(0x22, 7), (d.val, 5), (a.val, 5), (0, 5), (mk.val, 4), (me.toNat, 1), (3, 5)] = w at *
  rw [decodeRaw_22 hp.1]
  have f : wordBits w 0 5 = 3 := hp.2.2.2.2.2.2.1
  have g0 : wordBits w 10 5 = 0 := hp.2.2.2.1
  simp only [decodeMajor22, f, g0, ↓reduceIte]
  rw [show wordFin 32 w 20 = d from Fin.ext hp.2.1,
    show wordFin 32 w 15 = a from Fin.ext hp.2.2.1,
    show wordFin 16 w 6 = mk from Fin.ext hp.2.2.2.2.1,
    show (wordBits w 5 1 == 1) = me from bool_bits _ hp.2.2.2.2.2.1]

theorem Roundtrip.vmov (d : VReg) (a : VReg) (mk : MReg) (me : Bool) : Roundtrip.Statement (.vmov d a mk me) := by
  refine Roundtrip.of_raw _ ?_
  have hp := pack_fields (l := [(0x22, 7), (d.val, 5), (a.val, 5), (0, 5), (mk.val, 4), (me.toNat, 1), (4, 5)]) ⟨by decide, d.isLt, a.isLt, by decide, mk.isLt, Bool.toNat_lt me, by decide, trivial⟩
  change decodeRaw (packWord [(0x22, 7), (d.val, 5), (a.val, 5), (0, 5), (mk.val, 4), (me.toNat, 1), (4, 5)]) = _
  generalize packWord [(0x22, 7), (d.val, 5), (a.val, 5), (0, 5), (mk.val, 4), (me.toNat, 1), (4, 5)] = w at *
  rw [decodeRaw_22 hp.1]
  have f : wordBits w 0 5 = 4 := hp.2.2.2.2.2.2.1
  have g0 : wordBits w 10 5 = 0 := hp.2.2.2.1
  simp only [decodeMajor22, f, g0, ↓reduceIte]
  rw [show wordFin 32 w 20 = d from Fin.ext hp.2.1,
    show wordFin 32 w 15 = a from Fin.ext hp.2.2.1,
    show wordFin 16 w 6 = mk from Fin.ext hp.2.2.2.2.1,
    show (wordBits w 5 1 == 1) = me from bool_bits _ hp.2.2.2.2.2.1]

theorem Roundtrip.vclass (d : VReg) (a : VReg) (mk : MReg) (me : Bool) : Roundtrip.Statement (.vclass d a mk me) := by
  refine Roundtrip.of_raw _ ?_
  have hp := pack_fields (l := [(0x22, 7), (d.val, 5), (a.val, 5), (0, 5), (mk.val, 4), (me.toNat, 1), (5, 5)]) ⟨by decide, d.isLt, a.isLt, by decide, mk.isLt, Bool.toNat_lt me, by decide, trivial⟩
  change decodeRaw (packWord [(0x22, 7), (d.val, 5), (a.val, 5), (0, 5), (mk.val, 4), (me.toNat, 1), (5, 5)]) = _
  generalize packWord [(0x22, 7), (d.val, 5), (a.val, 5), (0, 5), (mk.val, 4), (me.toNat, 1), (5, 5)] = w at *
  rw [decodeRaw_22 hp.1]
  have f : wordBits w 0 5 = 5 := hp.2.2.2.2.2.2.1
  have g0 : wordBits w 10 5 = 0 := hp.2.2.2.1
  simp only [decodeMajor22, f, g0, ↓reduceIte]
  rw [show wordFin 32 w 20 = d from Fin.ext hp.2.1,
    show wordFin 32 w 15 = a from Fin.ext hp.2.2.1,
    show wordFin 16 w 6 = mk from Fin.ext hp.2.2.2.2.1,
    show (wordBits w 5 1 == 1) = me from bool_bits _ hp.2.2.2.2.2.1]

theorem Roundtrip.viota (d : VReg) (mk : MReg) (me : Bool) : Roundtrip.Statement (.viota d mk me) := by
  refine Roundtrip.of_raw _ ?_
  have hp := pack_fields (l := [(0x22, 7), (d.val, 5), (0, 10), (mk.val, 4), (me.toNat, 1), (6, 5)]) ⟨by decide, d.isLt, by decide, mk.isLt, Bool.toNat_lt me, by decide, trivial⟩
  change decodeRaw (packWord [(0x22, 7), (d.val, 5), (0, 10), (mk.val, 4), (me.toNat, 1), (6, 5)]) = _
  generalize packWord [(0x22, 7), (d.val, 5), (0, 10), (mk.val, 4), (me.toNat, 1), (6, 5)] = w at *
  rw [decodeRaw_22 hp.1]
  have f : wordBits w 0 5 = 6 := hp.2.2.2.2.2.1
  have g0 : wordBits w 10 10 = 0 := hp.2.2.1
  simp only [decodeMajor22, f, g0, ↓reduceIte]
  rw [show wordFin 32 w 20 = d from Fin.ext hp.2.1,
    show wordFin 16 w 6 = mk from Fin.ext hp.2.2.2.1,
    show (wordBits w 5 1 == 1) = me from bool_bits _ hp.2.2.2.2.1]

theorem Roundtrip.vsplat (d : VReg) (b : GReg) (mk : MReg) (me : Bool) : Roundtrip.Statement (.vsplat d b mk me) := by
  refine Roundtrip.of_raw _ ?_
  have hp := pack_fields (l := [(0x22, 7), (d.val, 5), (0, 5), (b.val, 5), (mk.val, 4), (me.toNat, 1), (7, 5)]) ⟨by decide, d.isLt, by decide, b.isLt, mk.isLt, Bool.toNat_lt me, by decide, trivial⟩
  change decodeRaw (packWord [(0x22, 7), (d.val, 5), (0, 5), (b.val, 5), (mk.val, 4), (me.toNat, 1), (7, 5)]) = _
  generalize packWord [(0x22, 7), (d.val, 5), (0, 5), (b.val, 5), (mk.val, 4), (me.toNat, 1), (7, 5)] = w at *
  rw [decodeRaw_22 hp.1]
  have f : wordBits w 0 5 = 7 := hp.2.2.2.2.2.2.1
  have g0 : wordBits w 15 5 = 0 := hp.2.2.1
  simp only [decodeMajor22, f, g0, ↓reduceIte]
  rw [show wordFin 32 w 20 = d from Fin.ext hp.2.1,
    show wordFin 32 w 10 = b from Fin.ext hp.2.2.2.1,
    show wordFin 16 w 6 = mk from Fin.ext hp.2.2.2.2.1,
    show (wordBits w 5 1 == 1) = me from bool_bits _ hp.2.2.2.2.2.1]

theorem Roundtrip.vmovQ (q : Fin 2) (a : VReg) (b : GReg) : Roundtrip.Statement (.vmovQ q a b) := by
  refine Roundtrip.of_raw _ ?_
  have hp := pack_fields (l := [(0x22, 7), (3, 4), (q.val, 1), (a.val, 5), (b.val, 5), (0, 5), (8, 5)]) ⟨by decide, by decide, q.isLt, a.isLt, b.isLt, by decide, by decide, trivial⟩
  change decodeRaw (packWord [(0x22, 7), (3, 4), (q.val, 1), (a.val, 5), (b.val, 5), (0, 5), (8, 5)]) = _
  generalize packWord [(0x22, 7), (3, 4), (q.val, 1), (a.val, 5), (b.val, 5), (0, 5), (8, 5)] = w at *
  rw [decodeRaw_22 hp.1]
  have f : wordBits w 0 5 = 8 := hp.2.2.2.2.2.2.1
  have g0 : wordBits w 5 5 = 0 := hp.2.2.2.2.2.1
  have g1 : wordBits w 21 4 = 3 := hp.2.1
  simp only [decodeMajor22, f, g0, g1, and_self, ↓reduceIte]
  rw [show wordFin 2 w 20 = q from Fin.ext hp.2.2.1,
    show wordFin 32 w 15 = a from Fin.ext hp.2.2.2.1,
    show wordFin 32 w 10 = b from Fin.ext hp.2.2.2.2.1]

theorem Roundtrip.vnarrow (d : VReg) (a : VReg) (mk : MReg) (me : Bool) : Roundtrip.Statement (.vnarrow d a mk me) := by
  refine Roundtrip.of_raw _ ?_
  have hp := pack_fields (l := [(0x22, 7), (d.val, 5), (a.val, 5), (0, 5), (mk.val, 4), (me.toNat, 1), (9, 5)]) ⟨by decide, d.isLt, a.isLt, by decide, mk.isLt, Bool.toNat_lt me, by decide, trivial⟩
  change decodeRaw (packWord [(0x22, 7), (d.val, 5), (a.val, 5), (0, 5), (mk.val, 4), (me.toNat, 1), (9, 5)]) = _
  generalize packWord [(0x22, 7), (d.val, 5), (a.val, 5), (0, 5), (mk.val, 4), (me.toNat, 1), (9, 5)] = w at *
  rw [decodeRaw_22 hp.1]
  have f : wordBits w 0 5 = 9 := hp.2.2.2.2.2.2.1
  have g0 : wordBits w 10 5 = 0 := hp.2.2.2.1
  simp only [decodeMajor22, f, g0, ↓reduceIte]
  rw [show wordFin 32 w 20 = d from Fin.ext hp.2.1,
    show wordFin 32 w 15 = a from Fin.ext hp.2.2.1,
    show wordFin 16 w 6 = mk from Fin.ext hp.2.2.2.2.1,
    show (wordBits w 5 1 == 1) = me from bool_bits _ hp.2.2.2.2.2.1]

theorem Roundtrip.vaddS (d : VReg) (a : VReg) (b : GReg) (mk : MReg) (me : Bool) : Roundtrip.Statement (.vaddS d a b mk me) := by
  refine Roundtrip.of_raw _ ?_
  have hp := pack_fields (l := [(0x23, 7), (d.val, 5), (a.val, 5), (b.val, 5), (mk.val, 4), (me.toNat, 1), (0, 5)]) ⟨by decide, d.isLt, a.isLt, b.isLt, mk.isLt, Bool.toNat_lt me, by decide, trivial⟩
  change decodeRaw (packWord [(0x23, 7), (d.val, 5), (a.val, 5), (b.val, 5), (mk.val, 4), (me.toNat, 1), (0, 5)]) = _
  generalize packWord [(0x23, 7), (d.val, 5), (a.val, 5), (b.val, 5), (mk.val, 4), (me.toNat, 1), (0, 5)] = w at *
  rw [decodeRaw_23 hp.1]
  unfold decodeMajor23
  rw [show wordBits w 0 5 = 0 from hp.2.2.2.2.2.2.1,
    show wordFin 32 w 20 = d from Fin.ext hp.2.1,
    show wordFin 32 w 15 = a from Fin.ext hp.2.2.1,
    show wordFin 32 w 10 = b from Fin.ext hp.2.2.2.1,
    show wordFin 16 w 6 = mk from Fin.ext hp.2.2.2.2.1,
    show (wordBits w 5 1 == 1) = me from bool_bits _ hp.2.2.2.2.2.1]
  try rfl

theorem Roundtrip.vsubS (d : VReg) (a : VReg) (b : GReg) (mk : MReg) (me : Bool) : Roundtrip.Statement (.vsubS d a b mk me) := by
  refine Roundtrip.of_raw _ ?_
  have hp := pack_fields (l := [(0x23, 7), (d.val, 5), (a.val, 5), (b.val, 5), (mk.val, 4), (me.toNat, 1), (1, 5)]) ⟨by decide, d.isLt, a.isLt, b.isLt, mk.isLt, Bool.toNat_lt me, by decide, trivial⟩
  change decodeRaw (packWord [(0x23, 7), (d.val, 5), (a.val, 5), (b.val, 5), (mk.val, 4), (me.toNat, 1), (1, 5)]) = _
  generalize packWord [(0x23, 7), (d.val, 5), (a.val, 5), (b.val, 5), (mk.val, 4), (me.toNat, 1), (1, 5)] = w at *
  rw [decodeRaw_23 hp.1]
  unfold decodeMajor23
  rw [show wordBits w 0 5 = 1 from hp.2.2.2.2.2.2.1,
    show wordFin 32 w 20 = d from Fin.ext hp.2.1,
    show wordFin 32 w 15 = a from Fin.ext hp.2.2.1,
    show wordFin 32 w 10 = b from Fin.ext hp.2.2.2.1,
    show wordFin 16 w 6 = mk from Fin.ext hp.2.2.2.2.1,
    show (wordBits w 5 1 == 1) = me from bool_bits _ hp.2.2.2.2.2.1]
  try rfl

theorem Roundtrip.vmulS (d : VReg) (a : VReg) (b : GReg) (mk : MReg) (me : Bool) : Roundtrip.Statement (.vmulS d a b mk me) := by
  refine Roundtrip.of_raw _ ?_
  have hp := pack_fields (l := [(0x23, 7), (d.val, 5), (a.val, 5), (b.val, 5), (mk.val, 4), (me.toNat, 1), (2, 5)]) ⟨by decide, d.isLt, a.isLt, b.isLt, mk.isLt, Bool.toNat_lt me, by decide, trivial⟩
  change decodeRaw (packWord [(0x23, 7), (d.val, 5), (a.val, 5), (b.val, 5), (mk.val, 4), (me.toNat, 1), (2, 5)]) = _
  generalize packWord [(0x23, 7), (d.val, 5), (a.val, 5), (b.val, 5), (mk.val, 4), (me.toNat, 1), (2, 5)] = w at *
  rw [decodeRaw_23 hp.1]
  unfold decodeMajor23
  rw [show wordBits w 0 5 = 2 from hp.2.2.2.2.2.2.1,
    show wordFin 32 w 20 = d from Fin.ext hp.2.1,
    show wordFin 32 w 15 = a from Fin.ext hp.2.2.1,
    show wordFin 32 w 10 = b from Fin.ext hp.2.2.2.1,
    show wordFin 16 w 6 = mk from Fin.ext hp.2.2.2.2.1,
    show (wordBits w 5 1 == 1) = me from bool_bits _ hp.2.2.2.2.2.1]
  try rfl

theorem Roundtrip.vdivS (d : VReg) (a : VReg) (b : GReg) (mk : MReg) (me : Bool) : Roundtrip.Statement (.vdivS d a b mk me) := by
  refine Roundtrip.of_raw _ ?_
  have hp := pack_fields (l := [(0x23, 7), (d.val, 5), (a.val, 5), (b.val, 5), (mk.val, 4), (me.toNat, 1), (3, 5)]) ⟨by decide, d.isLt, a.isLt, b.isLt, mk.isLt, Bool.toNat_lt me, by decide, trivial⟩
  change decodeRaw (packWord [(0x23, 7), (d.val, 5), (a.val, 5), (b.val, 5), (mk.val, 4), (me.toNat, 1), (3, 5)]) = _
  generalize packWord [(0x23, 7), (d.val, 5), (a.val, 5), (b.val, 5), (mk.val, 4), (me.toNat, 1), (3, 5)] = w at *
  rw [decodeRaw_23 hp.1]
  unfold decodeMajor23
  rw [show wordBits w 0 5 = 3 from hp.2.2.2.2.2.2.1,
    show wordFin 32 w 20 = d from Fin.ext hp.2.1,
    show wordFin 32 w 15 = a from Fin.ext hp.2.2.1,
    show wordFin 32 w 10 = b from Fin.ext hp.2.2.2.1,
    show wordFin 16 w 6 = mk from Fin.ext hp.2.2.2.2.1,
    show (wordBits w 5 1 == 1) = me from bool_bits _ hp.2.2.2.2.2.1]
  try rfl

theorem Roundtrip.vminS (d : VReg) (a : VReg) (b : GReg) (mk : MReg) (me : Bool) : Roundtrip.Statement (.vminS d a b mk me) := by
  refine Roundtrip.of_raw _ ?_
  have hp := pack_fields (l := [(0x23, 7), (d.val, 5), (a.val, 5), (b.val, 5), (mk.val, 4), (me.toNat, 1), (4, 5)]) ⟨by decide, d.isLt, a.isLt, b.isLt, mk.isLt, Bool.toNat_lt me, by decide, trivial⟩
  change decodeRaw (packWord [(0x23, 7), (d.val, 5), (a.val, 5), (b.val, 5), (mk.val, 4), (me.toNat, 1), (4, 5)]) = _
  generalize packWord [(0x23, 7), (d.val, 5), (a.val, 5), (b.val, 5), (mk.val, 4), (me.toNat, 1), (4, 5)] = w at *
  rw [decodeRaw_23 hp.1]
  unfold decodeMajor23
  rw [show wordBits w 0 5 = 4 from hp.2.2.2.2.2.2.1,
    show wordFin 32 w 20 = d from Fin.ext hp.2.1,
    show wordFin 32 w 15 = a from Fin.ext hp.2.2.1,
    show wordFin 32 w 10 = b from Fin.ext hp.2.2.2.1,
    show wordFin 16 w 6 = mk from Fin.ext hp.2.2.2.2.1,
    show (wordBits w 5 1 == 1) = me from bool_bits _ hp.2.2.2.2.2.1]
  try rfl

theorem Roundtrip.vmaxS (d : VReg) (a : VReg) (b : GReg) (mk : MReg) (me : Bool) : Roundtrip.Statement (.vmaxS d a b mk me) := by
  refine Roundtrip.of_raw _ ?_
  have hp := pack_fields (l := [(0x23, 7), (d.val, 5), (a.val, 5), (b.val, 5), (mk.val, 4), (me.toNat, 1), (5, 5)]) ⟨by decide, d.isLt, a.isLt, b.isLt, mk.isLt, Bool.toNat_lt me, by decide, trivial⟩
  change decodeRaw (packWord [(0x23, 7), (d.val, 5), (a.val, 5), (b.val, 5), (mk.val, 4), (me.toNat, 1), (5, 5)]) = _
  generalize packWord [(0x23, 7), (d.val, 5), (a.val, 5), (b.val, 5), (mk.val, 4), (me.toNat, 1), (5, 5)] = w at *
  rw [decodeRaw_23 hp.1]
  unfold decodeMajor23
  rw [show wordBits w 0 5 = 5 from hp.2.2.2.2.2.2.1,
    show wordFin 32 w 20 = d from Fin.ext hp.2.1,
    show wordFin 32 w 15 = a from Fin.ext hp.2.2.1,
    show wordFin 32 w 10 = b from Fin.ext hp.2.2.2.1,
    show wordFin 16 w 6 = mk from Fin.ext hp.2.2.2.2.1,
    show (wordBits w 5 1 == 1) = me from bool_bits _ hp.2.2.2.2.2.1]
  try rfl

theorem Roundtrip.vandS (d : VReg) (a : VReg) (b : GReg) (mk : MReg) (me : Bool) : Roundtrip.Statement (.vandS d a b mk me) := by
  refine Roundtrip.of_raw _ ?_
  have hp := pack_fields (l := [(0x23, 7), (d.val, 5), (a.val, 5), (b.val, 5), (mk.val, 4), (me.toNat, 1), (6, 5)]) ⟨by decide, d.isLt, a.isLt, b.isLt, mk.isLt, Bool.toNat_lt me, by decide, trivial⟩
  change decodeRaw (packWord [(0x23, 7), (d.val, 5), (a.val, 5), (b.val, 5), (mk.val, 4), (me.toNat, 1), (6, 5)]) = _
  generalize packWord [(0x23, 7), (d.val, 5), (a.val, 5), (b.val, 5), (mk.val, 4), (me.toNat, 1), (6, 5)] = w at *
  rw [decodeRaw_23 hp.1]
  unfold decodeMajor23
  rw [show wordBits w 0 5 = 6 from hp.2.2.2.2.2.2.1,
    show wordFin 32 w 20 = d from Fin.ext hp.2.1,
    show wordFin 32 w 15 = a from Fin.ext hp.2.2.1,
    show wordFin 32 w 10 = b from Fin.ext hp.2.2.2.1,
    show wordFin 16 w 6 = mk from Fin.ext hp.2.2.2.2.1,
    show (wordBits w 5 1 == 1) = me from bool_bits _ hp.2.2.2.2.2.1]
  try rfl

theorem Roundtrip.vorS (d : VReg) (a : VReg) (b : GReg) (mk : MReg) (me : Bool) : Roundtrip.Statement (.vorS d a b mk me) := by
  refine Roundtrip.of_raw _ ?_
  have hp := pack_fields (l := [(0x23, 7), (d.val, 5), (a.val, 5), (b.val, 5), (mk.val, 4), (me.toNat, 1), (7, 5)]) ⟨by decide, d.isLt, a.isLt, b.isLt, mk.isLt, Bool.toNat_lt me, by decide, trivial⟩
  change decodeRaw (packWord [(0x23, 7), (d.val, 5), (a.val, 5), (b.val, 5), (mk.val, 4), (me.toNat, 1), (7, 5)]) = _
  generalize packWord [(0x23, 7), (d.val, 5), (a.val, 5), (b.val, 5), (mk.val, 4), (me.toNat, 1), (7, 5)] = w at *
  rw [decodeRaw_23 hp.1]
  unfold decodeMajor23
  rw [show wordBits w 0 5 = 7 from hp.2.2.2.2.2.2.1,
    show wordFin 32 w 20 = d from Fin.ext hp.2.1,
    show wordFin 32 w 15 = a from Fin.ext hp.2.2.1,
    show wordFin 32 w 10 = b from Fin.ext hp.2.2.2.1,
    show wordFin 16 w 6 = mk from Fin.ext hp.2.2.2.2.1,
    show (wordBits w 5 1 == 1) = me from bool_bits _ hp.2.2.2.2.2.1]
  try rfl

theorem Roundtrip.vxorS (d : VReg) (a : VReg) (b : GReg) (mk : MReg) (me : Bool) : Roundtrip.Statement (.vxorS d a b mk me) := by
  refine Roundtrip.of_raw _ ?_
  have hp := pack_fields (l := [(0x23, 7), (d.val, 5), (a.val, 5), (b.val, 5), (mk.val, 4), (me.toNat, 1), (8, 5)]) ⟨by decide, d.isLt, a.isLt, b.isLt, mk.isLt, Bool.toNat_lt me, by decide, trivial⟩
  change decodeRaw (packWord [(0x23, 7), (d.val, 5), (a.val, 5), (b.val, 5), (mk.val, 4), (me.toNat, 1), (8, 5)]) = _
  generalize packWord [(0x23, 7), (d.val, 5), (a.val, 5), (b.val, 5), (mk.val, 4), (me.toNat, 1), (8, 5)] = w at *
  rw [decodeRaw_23 hp.1]
  unfold decodeMajor23
  rw [show wordBits w 0 5 = 8 from hp.2.2.2.2.2.2.1,
    show wordFin 32 w 20 = d from Fin.ext hp.2.1,
    show wordFin 32 w 15 = a from Fin.ext hp.2.2.1,
    show wordFin 32 w 10 = b from Fin.ext hp.2.2.2.1,
    show wordFin 16 w 6 = mk from Fin.ext hp.2.2.2.2.1,
    show (wordBits w 5 1 == 1) = me from bool_bits _ hp.2.2.2.2.2.1]
  try rfl

theorem Roundtrip.vshlS (d : VReg) (a : VReg) (b : GReg) (mk : MReg) (me : Bool) : Roundtrip.Statement (.vshlS d a b mk me) := by
  refine Roundtrip.of_raw _ ?_
  have hp := pack_fields (l := [(0x23, 7), (d.val, 5), (a.val, 5), (b.val, 5), (mk.val, 4), (me.toNat, 1), (9, 5)]) ⟨by decide, d.isLt, a.isLt, b.isLt, mk.isLt, Bool.toNat_lt me, by decide, trivial⟩
  change decodeRaw (packWord [(0x23, 7), (d.val, 5), (a.val, 5), (b.val, 5), (mk.val, 4), (me.toNat, 1), (9, 5)]) = _
  generalize packWord [(0x23, 7), (d.val, 5), (a.val, 5), (b.val, 5), (mk.val, 4), (me.toNat, 1), (9, 5)] = w at *
  rw [decodeRaw_23 hp.1]
  unfold decodeMajor23
  rw [show wordBits w 0 5 = 9 from hp.2.2.2.2.2.2.1,
    show wordFin 32 w 20 = d from Fin.ext hp.2.1,
    show wordFin 32 w 15 = a from Fin.ext hp.2.2.1,
    show wordFin 32 w 10 = b from Fin.ext hp.2.2.2.1,
    show wordFin 16 w 6 = mk from Fin.ext hp.2.2.2.2.1,
    show (wordBits w 5 1 == 1) = me from bool_bits _ hp.2.2.2.2.2.1]
  try rfl

theorem Roundtrip.vshrS (d : VReg) (a : VReg) (b : GReg) (mk : MReg) (me : Bool) : Roundtrip.Statement (.vshrS d a b mk me) := by
  refine Roundtrip.of_raw _ ?_
  have hp := pack_fields (l := [(0x23, 7), (d.val, 5), (a.val, 5), (b.val, 5), (mk.val, 4), (me.toNat, 1), (10, 5)]) ⟨by decide, d.isLt, a.isLt, b.isLt, mk.isLt, Bool.toNat_lt me, by decide, trivial⟩
  change decodeRaw (packWord [(0x23, 7), (d.val, 5), (a.val, 5), (b.val, 5), (mk.val, 4), (me.toNat, 1), (10, 5)]) = _
  generalize packWord [(0x23, 7), (d.val, 5), (a.val, 5), (b.val, 5), (mk.val, 4), (me.toNat, 1), (10, 5)] = w at *
  rw [decodeRaw_23 hp.1]
  unfold decodeMajor23
  rw [show wordBits w 0 5 = 10 from hp.2.2.2.2.2.2.1,
    show wordFin 32 w 20 = d from Fin.ext hp.2.1,
    show wordFin 32 w 15 = a from Fin.ext hp.2.2.1,
    show wordFin 32 w 10 = b from Fin.ext hp.2.2.2.1,
    show wordFin 16 w 6 = mk from Fin.ext hp.2.2.2.2.1,
    show (wordBits w 5 1 == 1) = me from bool_bits _ hp.2.2.2.2.2.1]
  try rfl

theorem Roundtrip.vsraS (d : VReg) (a : VReg) (b : GReg) (mk : MReg) (me : Bool) : Roundtrip.Statement (.vsraS d a b mk me) := by
  refine Roundtrip.of_raw _ ?_
  have hp := pack_fields (l := [(0x23, 7), (d.val, 5), (a.val, 5), (b.val, 5), (mk.val, 4), (me.toNat, 1), (11, 5)]) ⟨by decide, d.isLt, a.isLt, b.isLt, mk.isLt, Bool.toNat_lt me, by decide, trivial⟩
  change decodeRaw (packWord [(0x23, 7), (d.val, 5), (a.val, 5), (b.val, 5), (mk.val, 4), (me.toNat, 1), (11, 5)]) = _
  generalize packWord [(0x23, 7), (d.val, 5), (a.val, 5), (b.val, 5), (mk.val, 4), (me.toNat, 1), (11, 5)] = w at *
  rw [decodeRaw_23 hp.1]
  unfold decodeMajor23
  rw [show wordBits w 0 5 = 11 from hp.2.2.2.2.2.2.1,
    show wordFin 32 w 20 = d from Fin.ext hp.2.1,
    show wordFin 32 w 15 = a from Fin.ext hp.2.2.1,
    show wordFin 32 w 10 = b from Fin.ext hp.2.2.2.1,
    show wordFin 16 w 6 = mk from Fin.ext hp.2.2.2.2.1,
    show (wordBits w 5 1 == 1) = me from bool_bits _ hp.2.2.2.2.2.1]
  try rfl

theorem Roundtrip.vwmulS (d : VReg) (a : VReg) (b : GReg) (mk : MReg) (me : Bool) : Roundtrip.Statement (.vwmulS d a b mk me) := by
  refine Roundtrip.of_raw _ ?_
  have hp := pack_fields (l := [(0x23, 7), (d.val, 5), (a.val, 5), (b.val, 5), (mk.val, 4), (me.toNat, 1), (12, 5)]) ⟨by decide, d.isLt, a.isLt, b.isLt, mk.isLt, Bool.toNat_lt me, by decide, trivial⟩
  change decodeRaw (packWord [(0x23, 7), (d.val, 5), (a.val, 5), (b.val, 5), (mk.val, 4), (me.toNat, 1), (12, 5)]) = _
  generalize packWord [(0x23, 7), (d.val, 5), (a.val, 5), (b.val, 5), (mk.val, 4), (me.toNat, 1), (12, 5)] = w at *
  rw [decodeRaw_23 hp.1]
  unfold decodeMajor23
  rw [show wordBits w 0 5 = 12 from hp.2.2.2.2.2.2.1,
    show wordFin 32 w 20 = d from Fin.ext hp.2.1,
    show wordFin 32 w 15 = a from Fin.ext hp.2.2.1,
    show wordFin 32 w 10 = b from Fin.ext hp.2.2.2.1,
    show wordFin 16 w 6 = mk from Fin.ext hp.2.2.2.2.1,
    show (wordBits w 5 1 == 1) = me from bool_bits _ hp.2.2.2.2.2.1]
  try rfl

theorem Roundtrip.vwaddS (d : VReg) (a : VReg) (b : GReg) (mk : MReg) (me : Bool) : Roundtrip.Statement (.vwaddS d a b mk me) := by
  refine Roundtrip.of_raw _ ?_
  have hp := pack_fields (l := [(0x23, 7), (d.val, 5), (a.val, 5), (b.val, 5), (mk.val, 4), (me.toNat, 1), (13, 5)]) ⟨by decide, d.isLt, a.isLt, b.isLt, mk.isLt, Bool.toNat_lt me, by decide, trivial⟩
  change decodeRaw (packWord [(0x23, 7), (d.val, 5), (a.val, 5), (b.val, 5), (mk.val, 4), (me.toNat, 1), (13, 5)]) = _
  generalize packWord [(0x23, 7), (d.val, 5), (a.val, 5), (b.val, 5), (mk.val, 4), (me.toNat, 1), (13, 5)] = w at *
  rw [decodeRaw_23 hp.1]
  unfold decodeMajor23
  rw [show wordBits w 0 5 = 13 from hp.2.2.2.2.2.2.1,
    show wordFin 32 w 20 = d from Fin.ext hp.2.1,
    show wordFin 32 w 15 = a from Fin.ext hp.2.2.1,
    show wordFin 32 w 10 = b from Fin.ext hp.2.2.2.1,
    show wordFin 16 w 6 = mk from Fin.ext hp.2.2.2.2.1,
    show (wordBits w 5 1 == 1) = me from bool_bits _ hp.2.2.2.2.2.1]
  try rfl

theorem Roundtrip.vfmaS (d : VReg) (a : VReg) (b : GReg) (mk : MReg) (me : Bool) : Roundtrip.Statement (.vfmaS d a b mk me) := by
  refine Roundtrip.of_raw _ ?_
  have hp := pack_fields (l := [(0x24, 7), (d.val, 5), (a.val, 5), (b.val, 5), (mk.val, 4), (me.toNat, 1), (0, 5)]) ⟨by decide, d.isLt, a.isLt, b.isLt, mk.isLt, Bool.toNat_lt me, by decide, trivial⟩
  change decodeRaw (packWord [(0x24, 7), (d.val, 5), (a.val, 5), (b.val, 5), (mk.val, 4), (me.toNat, 1), (0, 5)]) = _
  generalize packWord [(0x24, 7), (d.val, 5), (a.val, 5), (b.val, 5), (mk.val, 4), (me.toNat, 1), (0, 5)] = w at *
  rw [decodeRaw_24 hp.1]
  unfold decodeMajor24
  rw [show wordBits w 0 5 = 0 from hp.2.2.2.2.2.2.1,
    show wordFin 32 w 20 = d from Fin.ext hp.2.1,
    show wordFin 32 w 15 = a from Fin.ext hp.2.2.1,
    show wordFin 32 w 10 = b from Fin.ext hp.2.2.2.1,
    show wordFin 16 w 6 = mk from Fin.ext hp.2.2.2.2.1,
    show (wordBits w 5 1 == 1) = me from bool_bits _ hp.2.2.2.2.2.1]
  try rfl

theorem Roundtrip.vfmsS (d : VReg) (a : VReg) (b : GReg) (mk : MReg) (me : Bool) : Roundtrip.Statement (.vfmsS d a b mk me) := by
  refine Roundtrip.of_raw _ ?_
  have hp := pack_fields (l := [(0x24, 7), (d.val, 5), (a.val, 5), (b.val, 5), (mk.val, 4), (me.toNat, 1), (1, 5)]) ⟨by decide, d.isLt, a.isLt, b.isLt, mk.isLt, Bool.toNat_lt me, by decide, trivial⟩
  change decodeRaw (packWord [(0x24, 7), (d.val, 5), (a.val, 5), (b.val, 5), (mk.val, 4), (me.toNat, 1), (1, 5)]) = _
  generalize packWord [(0x24, 7), (d.val, 5), (a.val, 5), (b.val, 5), (mk.val, 4), (me.toNat, 1), (1, 5)] = w at *
  rw [decodeRaw_24 hp.1]
  unfold decodeMajor24
  rw [show wordBits w 0 5 = 1 from hp.2.2.2.2.2.2.1,
    show wordFin 32 w 20 = d from Fin.ext hp.2.1,
    show wordFin 32 w 15 = a from Fin.ext hp.2.2.1,
    show wordFin 32 w 10 = b from Fin.ext hp.2.2.2.1,
    show wordFin 16 w 6 = mk from Fin.ext hp.2.2.2.2.1,
    show (wordBits w 5 1 == 1) = me from bool_bits _ hp.2.2.2.2.2.1]
  try rfl

theorem Roundtrip.vfnmaS (d : VReg) (a : VReg) (b : GReg) (mk : MReg) (me : Bool) : Roundtrip.Statement (.vfnmaS d a b mk me) := by
  refine Roundtrip.of_raw _ ?_
  have hp := pack_fields (l := [(0x24, 7), (d.val, 5), (a.val, 5), (b.val, 5), (mk.val, 4), (me.toNat, 1), (2, 5)]) ⟨by decide, d.isLt, a.isLt, b.isLt, mk.isLt, Bool.toNat_lt me, by decide, trivial⟩
  change decodeRaw (packWord [(0x24, 7), (d.val, 5), (a.val, 5), (b.val, 5), (mk.val, 4), (me.toNat, 1), (2, 5)]) = _
  generalize packWord [(0x24, 7), (d.val, 5), (a.val, 5), (b.val, 5), (mk.val, 4), (me.toNat, 1), (2, 5)] = w at *
  rw [decodeRaw_24 hp.1]
  unfold decodeMajor24
  rw [show wordBits w 0 5 = 2 from hp.2.2.2.2.2.2.1,
    show wordFin 32 w 20 = d from Fin.ext hp.2.1,
    show wordFin 32 w 15 = a from Fin.ext hp.2.2.1,
    show wordFin 32 w 10 = b from Fin.ext hp.2.2.2.1,
    show wordFin 16 w 6 = mk from Fin.ext hp.2.2.2.2.1,
    show (wordBits w 5 1 == 1) = me from bool_bits _ hp.2.2.2.2.2.1]
  try rfl

theorem Roundtrip.vcvt (d : VReg) (a : VReg) (t : Fin 32) (mk : MReg) (me : Bool) : Roundtrip.Statement (.vcvt d a t mk me) := by
  refine Roundtrip.of_raw _ ?_
  have hp := pack_fields (l := [(0x25, 7), (d.val, 5), (a.val, 5), (t.val, 5), (mk.val, 4), (me.toNat, 1), (0, 5)]) ⟨by decide, d.isLt, a.isLt, t.isLt, mk.isLt, Bool.toNat_lt me, by decide, trivial⟩
  change decodeRaw (packWord [(0x25, 7), (d.val, 5), (a.val, 5), (t.val, 5), (mk.val, 4), (me.toNat, 1), (0, 5)]) = _
  generalize packWord [(0x25, 7), (d.val, 5), (a.val, 5), (t.val, 5), (mk.val, 4), (me.toNat, 1), (0, 5)] = w at *
  rw [decodeRaw_25 hp.1]
  unfold decodeMajor25
  rw [show wordBits w 0 5 = 0 from hp.2.2.2.2.2.2.1,
    show wordFin 32 w 20 = d from Fin.ext hp.2.1,
    show wordFin 32 w 15 = a from Fin.ext hp.2.2.1,
    show wordFin 32 w 10 = t from Fin.ext hp.2.2.2.1,
    show wordFin 16 w 6 = mk from Fin.ext hp.2.2.2.2.1,
    show (wordBits w 5 1 == 1) = me from bool_bits _ hp.2.2.2.2.2.1]
  try rfl

theorem Roundtrip.vqnt (d : VReg) (a : VReg) (t : Fin 32) (mk : MReg) : Roundtrip.Statement (.vqnt d a t mk) := by
  refine Roundtrip.of_raw _ ?_
  have hp := pack_fields (l := [(0x25, 7), (d.val, 5), (a.val, 5), (t.val, 5), (mk.val, 4), (0, 1), (1, 5)]) ⟨by decide, d.isLt, a.isLt, t.isLt, mk.isLt, by decide, by decide, trivial⟩
  change decodeRaw (packWord [(0x25, 7), (d.val, 5), (a.val, 5), (t.val, 5), (mk.val, 4), (0, 1), (1, 5)]) = _
  generalize packWord [(0x25, 7), (d.val, 5), (a.val, 5), (t.val, 5), (mk.val, 4), (0, 1), (1, 5)] = w at *
  rw [decodeRaw_25 hp.1]
  have f : wordBits w 0 5 = 1 := hp.2.2.2.2.2.2.1
  have g0 : wordBits w 5 1 = 0 := hp.2.2.2.2.2.1
  simp only [decodeMajor25, f, g0, ↓reduceIte]
  rw [show wordFin 32 w 20 = d from Fin.ext hp.2.1,
    show wordFin 32 w 15 = a from Fin.ext hp.2.2.1,
    show wordFin 32 w 10 = t from Fin.ext hp.2.2.2.1,
    show wordFin 16 w 6 = mk from Fin.ext hp.2.2.2.2.1]

theorem Roundtrip.vdqnt (d : VReg) (a : VReg) (t : Fin 32) (mk : MReg) : Roundtrip.Statement (.vdqnt d a t mk) := by
  refine Roundtrip.of_raw _ ?_
  have hp := pack_fields (l := [(0x25, 7), (d.val, 5), (a.val, 5), (t.val, 5), (mk.val, 4), (0, 1), (2, 5)]) ⟨by decide, d.isLt, a.isLt, t.isLt, mk.isLt, by decide, by decide, trivial⟩
  change decodeRaw (packWord [(0x25, 7), (d.val, 5), (a.val, 5), (t.val, 5), (mk.val, 4), (0, 1), (2, 5)]) = _
  generalize packWord [(0x25, 7), (d.val, 5), (a.val, 5), (t.val, 5), (mk.val, 4), (0, 1), (2, 5)] = w at *
  rw [decodeRaw_25 hp.1]
  have f : wordBits w 0 5 = 2 := hp.2.2.2.2.2.2.1
  have g0 : wordBits w 5 1 = 0 := hp.2.2.2.2.2.1
  simp only [decodeMajor25, f, g0, ↓reduceIte]
  rw [show wordFin 32 w 20 = d from Fin.ext hp.2.1,
    show wordFin 32 w 15 = a from Fin.ext hp.2.2.1,
    show wordFin 32 w 10 = t from Fin.ext hp.2.2.2.1,
    show wordFin 16 w 6 = mk from Fin.ext hp.2.2.2.2.1]

theorem Roundtrip.vsat (d : VReg) (a : VReg) (t : Fin 32) (mk : MReg) (me : Bool) : Roundtrip.Statement (.vsat d a t mk me) := by
  refine Roundtrip.of_raw _ ?_
  have hp := pack_fields (l := [(0x25, 7), (d.val, 5), (a.val, 5), (t.val, 5), (mk.val, 4), (me.toNat, 1), (3, 5)]) ⟨by decide, d.isLt, a.isLt, t.isLt, mk.isLt, Bool.toNat_lt me, by decide, trivial⟩
  change decodeRaw (packWord [(0x25, 7), (d.val, 5), (a.val, 5), (t.val, 5), (mk.val, 4), (me.toNat, 1), (3, 5)]) = _
  generalize packWord [(0x25, 7), (d.val, 5), (a.val, 5), (t.val, 5), (mk.val, 4), (me.toNat, 1), (3, 5)] = w at *
  rw [decodeRaw_25 hp.1]
  unfold decodeMajor25
  rw [show wordBits w 0 5 = 3 from hp.2.2.2.2.2.2.1,
    show wordFin 32 w 20 = d from Fin.ext hp.2.1,
    show wordFin 32 w 15 = a from Fin.ext hp.2.2.1,
    show wordFin 32 w 10 = t from Fin.ext hp.2.2.2.1,
    show wordFin 16 w 6 = mk from Fin.ext hp.2.2.2.2.1,
    show (wordBits w 5 1 == 1) = me from bool_bits _ hp.2.2.2.2.2.1]
  try rfl

theorem Roundtrip.vcmp (d : MReg) (a : VReg) (b : VReg) (mk : MReg) (me : Bool) (c : Fin 8) : Roundtrip.Statement (.vcmp d a b mk me c) := by
  refine Roundtrip.of_raw _ ?_
  have hp := pack_fields (l := [(0x26, 7), (0, 1), (d.val, 4), (a.val, 5), (b.val, 5), (mk.val, 4), (me.toNat, 1), (0, 2), (c.val, 3)]) ⟨by decide, by decide, d.isLt, a.isLt, b.isLt, mk.isLt, Bool.toNat_lt me, by decide, c.isLt, trivial⟩
  change decodeRaw (packWord [(0x26, 7), (0, 1), (d.val, 4), (a.val, 5), (b.val, 5), (mk.val, 4), (me.toNat, 1), (0, 2), (c.val, 3)]) = _
  generalize packWord [(0x26, 7), (0, 1), (d.val, 4), (a.val, 5), (b.val, 5), (mk.val, 4), (me.toNat, 1), (0, 2), (c.val, 3)] = w at *
  rw [decodeRaw_26 hp.1]
  have g0 : wordBits w 3 2 = 0 := hp.2.2.2.2.2.2.2.1
  have g1 : wordBits w 24 1 = 0 := hp.2.1
  simp only [decodeMajor26, g0, g1, and_true, true_and, and_false, false_and, and_self, Nat.reduceEqDiff, Nat.one_ne_zero, Nat.zero_ne_one, Nat.succ_ne_zero, ↓reduceIte]
  rw [show wordFin 16 w 20 = d from Fin.ext hp.2.2.1,
    show wordFin 32 w 15 = a from Fin.ext hp.2.2.2.1,
    show wordFin 32 w 10 = b from Fin.ext hp.2.2.2.2.1,
    show wordFin 16 w 6 = mk from Fin.ext hp.2.2.2.2.2.1,
    show (wordBits w 5 1 == 1) = me from bool_bits _ hp.2.2.2.2.2.2.1,
    show wordFin 8 w 0 = c from Fin.ext hp.2.2.2.2.2.2.2.2.1]

theorem Roundtrip.vcmpS (d : MReg) (a : VReg) (b : GReg) (mk : MReg) (me : Bool) (c : Fin 8) : Roundtrip.Statement (.vcmpS d a b mk me c) := by
  refine Roundtrip.of_raw _ ?_
  have hp := pack_fields (l := [(0x27, 7), (0, 1), (d.val, 4), (a.val, 5), (b.val, 5), (mk.val, 4), (me.toNat, 1), (0, 2), (c.val, 3)]) ⟨by decide, by decide, d.isLt, a.isLt, b.isLt, mk.isLt, Bool.toNat_lt me, by decide, c.isLt, trivial⟩
  change decodeRaw (packWord [(0x27, 7), (0, 1), (d.val, 4), (a.val, 5), (b.val, 5), (mk.val, 4), (me.toNat, 1), (0, 2), (c.val, 3)]) = _
  generalize packWord [(0x27, 7), (0, 1), (d.val, 4), (a.val, 5), (b.val, 5), (mk.val, 4), (me.toNat, 1), (0, 2), (c.val, 3)] = w at *
  rw [decodeRaw_27 hp.1]
  have g0 : wordBits w 3 2 = 0 := hp.2.2.2.2.2.2.2.1
  have g1 : wordBits w 24 1 = 0 := hp.2.1
  simp only [decodeMajor27, g0, g1, and_true, true_and, and_false, false_and, and_self, Nat.reduceEqDiff, Nat.one_ne_zero, Nat.zero_ne_one, Nat.succ_ne_zero, ↓reduceIte]
  rw [show wordFin 16 w 20 = d from Fin.ext hp.2.2.1,
    show wordFin 32 w 15 = a from Fin.ext hp.2.2.2.1,
    show wordFin 32 w 10 = b from Fin.ext hp.2.2.2.2.1,
    show wordFin 16 w 6 = mk from Fin.ext hp.2.2.2.2.2.1,
    show (wordBits w 5 1 == 1) = me from bool_bits _ hp.2.2.2.2.2.2.1,
    show wordFin 8 w 0 = c from Fin.ext hp.2.2.2.2.2.2.2.2.1]

theorem Roundtrip.vsel (d : VReg) (a : VReg) (b : VReg) (mk : MReg) : Roundtrip.Statement (.vsel d a b mk) := by
  refine Roundtrip.of_raw _ ?_
  have hp := pack_fields (l := [(0x28, 7), (d.val, 5), (a.val, 5), (b.val, 5), (mk.val, 4), (32, 6)]) ⟨by decide, d.isLt, a.isLt, b.isLt, mk.isLt, by decide, trivial⟩
  change decodeRaw (packWord [(0x28, 7), (d.val, 5), (a.val, 5), (b.val, 5), (mk.val, 4), (32, 6)]) = _
  generalize packWord [(0x28, 7), (d.val, 5), (a.val, 5), (b.val, 5), (mk.val, 4), (32, 6)] = w at *
  rw [decodeRaw_28 hp.1]
  unfold decodeMajor28
  rw [show wordBits w 0 6 = 32 from hp.2.2.2.2.2.1,
    show wordFin 32 w 20 = d from Fin.ext hp.2.1,
    show wordFin 32 w 15 = a from Fin.ext hp.2.2.1,
    show wordFin 32 w 10 = b from Fin.ext hp.2.2.2.1,
    show wordFin 16 w 6 = mk from Fin.ext hp.2.2.2.2.1]
  try rfl

theorem Roundtrip.vmerge (d : VReg) (a : VReg) (mk : MReg) : Roundtrip.Statement (.vmerge d a mk) := by
  refine Roundtrip.of_raw _ ?_
  have hp := pack_fields (l := [(0x28, 7), (d.val, 5), (a.val, 5), (0, 5), (mk.val, 4), (33, 6)]) ⟨by decide, d.isLt, a.isLt, by decide, mk.isLt, by decide, trivial⟩
  change decodeRaw (packWord [(0x28, 7), (d.val, 5), (a.val, 5), (0, 5), (mk.val, 4), (33, 6)]) = _
  generalize packWord [(0x28, 7), (d.val, 5), (a.val, 5), (0, 5), (mk.val, 4), (33, 6)] = w at *
  rw [decodeRaw_28 hp.1]
  have f : wordBits w 0 6 = 33 := hp.2.2.2.2.2.1
  have g0 : wordBits w 10 5 = 0 := hp.2.2.2.1
  simp only [decodeMajor28, f, g0, ↓reduceIte]
  rw [show wordFin 32 w 20 = d from Fin.ext hp.2.1,
    show wordFin 32 w 15 = a from Fin.ext hp.2.2.1,
    show wordFin 16 w 6 = mk from Fin.ext hp.2.2.2.2.1]

theorem Roundtrip.vld (d : VReg) (a : GReg) (mk : MReg) (me : Bool) : Roundtrip.Statement (.vld d a mk me) := by
  refine Roundtrip.of_raw _ ?_
  have hp := pack_fields (l := [(0x30, 7), (d.val, 5), (a.val, 5), (0, 5), (mk.val, 4), (me.toNat, 1), (0, 5)]) ⟨by decide, d.isLt, a.isLt, by decide, mk.isLt, Bool.toNat_lt me, by decide, trivial⟩
  change decodeRaw (packWord [(0x30, 7), (d.val, 5), (a.val, 5), (0, 5), (mk.val, 4), (me.toNat, 1), (0, 5)]) = _
  generalize packWord [(0x30, 7), (d.val, 5), (a.val, 5), (0, 5), (mk.val, 4), (me.toNat, 1), (0, 5)] = w at *
  rw [decodeRaw_30 hp.1]
  have f : wordBits w 0 5 = 0 := hp.2.2.2.2.2.2.1
  have g0 : wordBits w 10 5 = 0 := hp.2.2.2.1
  simp only [decodeMajor30, f, g0, ↓reduceIte]
  rw [show wordFin 32 w 20 = d from Fin.ext hp.2.1,
    show wordFin 32 w 15 = a from Fin.ext hp.2.2.1,
    show wordFin 16 w 6 = mk from Fin.ext hp.2.2.2.2.1,
    show (wordBits w 5 1 == 1) = me from bool_bits _ hp.2.2.2.2.2.1]

theorem Roundtrip.vlds (d : VReg) (a : GReg) (b : GReg) (mk : MReg) (me : Bool) : Roundtrip.Statement (.vlds d a b mk me) := by
  refine Roundtrip.of_raw _ ?_
  have hp := pack_fields (l := [(0x30, 7), (d.val, 5), (a.val, 5), (b.val, 5), (mk.val, 4), (me.toNat, 1), (1, 5)]) ⟨by decide, d.isLt, a.isLt, b.isLt, mk.isLt, Bool.toNat_lt me, by decide, trivial⟩
  change decodeRaw (packWord [(0x30, 7), (d.val, 5), (a.val, 5), (b.val, 5), (mk.val, 4), (me.toNat, 1), (1, 5)]) = _
  generalize packWord [(0x30, 7), (d.val, 5), (a.val, 5), (b.val, 5), (mk.val, 4), (me.toNat, 1), (1, 5)] = w at *
  rw [decodeRaw_30 hp.1]
  unfold decodeMajor30
  rw [show wordBits w 0 5 = 1 from hp.2.2.2.2.2.2.1,
    show wordFin 32 w 20 = d from Fin.ext hp.2.1,
    show wordFin 32 w 15 = a from Fin.ext hp.2.2.1,
    show wordFin 32 w 10 = b from Fin.ext hp.2.2.2.1,
    show wordFin 16 w 6 = mk from Fin.ext hp.2.2.2.2.1,
    show (wordBits w 5 1 == 1) = me from bool_bits _ hp.2.2.2.2.2.1]
  try rfl

theorem Roundtrip.vldx (d : VReg) (a : GReg) (b : VReg) (mk : MReg) (me : Bool) : Roundtrip.Statement (.vldx d a b mk me) := by
  refine Roundtrip.of_raw _ ?_
  have hp := pack_fields (l := [(0x30, 7), (d.val, 5), (a.val, 5), (b.val, 5), (mk.val, 4), (me.toNat, 1), (2, 5)]) ⟨by decide, d.isLt, a.isLt, b.isLt, mk.isLt, Bool.toNat_lt me, by decide, trivial⟩
  change decodeRaw (packWord [(0x30, 7), (d.val, 5), (a.val, 5), (b.val, 5), (mk.val, 4), (me.toNat, 1), (2, 5)]) = _
  generalize packWord [(0x30, 7), (d.val, 5), (a.val, 5), (b.val, 5), (mk.val, 4), (me.toNat, 1), (2, 5)] = w at *
  rw [decodeRaw_30 hp.1]
  unfold decodeMajor30
  rw [show wordBits w 0 5 = 2 from hp.2.2.2.2.2.2.1,
    show wordFin 32 w 20 = d from Fin.ext hp.2.1,
    show wordFin 32 w 15 = a from Fin.ext hp.2.2.1,
    show wordFin 32 w 10 = b from Fin.ext hp.2.2.2.1,
    show wordFin 16 w 6 = mk from Fin.ext hp.2.2.2.2.1,
    show (wordBits w 5 1 == 1) = me from bool_bits _ hp.2.2.2.2.2.1]
  try rfl

theorem Roundtrip.vldxD (d : VReg) (a : GReg) (b : VReg) (mk : MReg) (me : Bool) : Roundtrip.Statement (.vldxD d a b mk me) := by
  refine Roundtrip.of_raw _ ?_
  have hp := pack_fields (l := [(0x30, 7), (d.val, 5), (a.val, 5), (b.val, 5), (mk.val, 4), (me.toNat, 1), (3, 5)]) ⟨by decide, d.isLt, a.isLt, b.isLt, mk.isLt, Bool.toNat_lt me, by decide, trivial⟩
  change decodeRaw (packWord [(0x30, 7), (d.val, 5), (a.val, 5), (b.val, 5), (mk.val, 4), (me.toNat, 1), (3, 5)]) = _
  generalize packWord [(0x30, 7), (d.val, 5), (a.val, 5), (b.val, 5), (mk.val, 4), (me.toNat, 1), (3, 5)] = w at *
  rw [decodeRaw_30 hp.1]
  unfold decodeMajor30
  rw [show wordBits w 0 5 = 3 from hp.2.2.2.2.2.2.1,
    show wordFin 32 w 20 = d from Fin.ext hp.2.1,
    show wordFin 32 w 15 = a from Fin.ext hp.2.2.1,
    show wordFin 32 w 10 = b from Fin.ext hp.2.2.2.1,
    show wordFin 16 w 6 = mk from Fin.ext hp.2.2.2.2.1,
    show (wordBits w 5 1 == 1) = me from bool_bits _ hp.2.2.2.2.2.1]
  try rfl

theorem Roundtrip.vldq (q : Fin 2) (a : GReg) (mk : MReg) : Roundtrip.Statement (.vldq q a mk) := by
  refine Roundtrip.of_raw _ ?_
  have hp := pack_fields (l := [(0x30, 7), (2, 4), (q.val, 1), (a.val, 5), (0, 5), (mk.val, 4), (0, 1), (4, 5)]) ⟨by decide, by decide, q.isLt, a.isLt, by decide, mk.isLt, by decide, by decide, trivial⟩
  change decodeRaw (packWord [(0x30, 7), (2, 4), (q.val, 1), (a.val, 5), (0, 5), (mk.val, 4), (0, 1), (4, 5)]) = _
  generalize packWord [(0x30, 7), (2, 4), (q.val, 1), (a.val, 5), (0, 5), (mk.val, 4), (0, 1), (4, 5)] = w at *
  rw [decodeRaw_30 hp.1]
  have f : wordBits w 0 5 = 4 := hp.2.2.2.2.2.2.2.1
  have g0 : wordBits w 5 1 = 0 := hp.2.2.2.2.2.2.1
  have g1 : wordBits w 10 5 = 0 := hp.2.2.2.2.1
  have g2 : wordBits w 21 4 = 2 := hp.2.1
  simp only [decodeMajor30, f, g0, g1, g2, and_self, ↓reduceIte]
  rw [show wordFin 2 w 20 = q from Fin.ext hp.2.2.1,
    show wordFin 32 w 15 = a from Fin.ext hp.2.2.2.1,
    show wordFin 16 w 6 = mk from Fin.ext hp.2.2.2.2.2.1]

theorem Roundtrip.vldl (d : VReg) (a : GReg) (b : VReg) (mk : MReg) (me : Bool) : Roundtrip.Statement (.vldl d a b mk me) := by
  refine Roundtrip.of_raw _ ?_
  have hp := pack_fields (l := [(0x30, 7), (d.val, 5), (a.val, 5), (b.val, 5), (mk.val, 4), (me.toNat, 1), (5, 5)]) ⟨by decide, d.isLt, a.isLt, b.isLt, mk.isLt, Bool.toNat_lt me, by decide, trivial⟩
  change decodeRaw (packWord [(0x30, 7), (d.val, 5), (a.val, 5), (b.val, 5), (mk.val, 4), (me.toNat, 1), (5, 5)]) = _
  generalize packWord [(0x30, 7), (d.val, 5), (a.val, 5), (b.val, 5), (mk.val, 4), (me.toNat, 1), (5, 5)] = w at *
  rw [decodeRaw_30 hp.1]
  unfold decodeMajor30
  rw [show wordBits w 0 5 = 5 from hp.2.2.2.2.2.2.1,
    show wordFin 32 w 20 = d from Fin.ext hp.2.1,
    show wordFin 32 w 15 = a from Fin.ext hp.2.2.1,
    show wordFin 32 w 10 = b from Fin.ext hp.2.2.2.1,
    show wordFin 16 w 6 = mk from Fin.ext hp.2.2.2.2.1,
    show (wordBits w 5 1 == 1) = me from bool_bits _ hp.2.2.2.2.2.1]
  try rfl

theorem Roundtrip.vldlD (d : VReg) (a : GReg) (b : VReg) (mk : MReg) (me : Bool) : Roundtrip.Statement (.vldlD d a b mk me) := by
  refine Roundtrip.of_raw _ ?_
  have hp := pack_fields (l := [(0x30, 7), (d.val, 5), (a.val, 5), (b.val, 5), (mk.val, 4), (me.toNat, 1), (6, 5)]) ⟨by decide, d.isLt, a.isLt, b.isLt, mk.isLt, Bool.toNat_lt me, by decide, trivial⟩
  change decodeRaw (packWord [(0x30, 7), (d.val, 5), (a.val, 5), (b.val, 5), (mk.val, 4), (me.toNat, 1), (6, 5)]) = _
  generalize packWord [(0x30, 7), (d.val, 5), (a.val, 5), (b.val, 5), (mk.val, 4), (me.toNat, 1), (6, 5)] = w at *
  rw [decodeRaw_30 hp.1]
  unfold decodeMajor30
  rw [show wordBits w 0 5 = 6 from hp.2.2.2.2.2.2.1,
    show wordFin 32 w 20 = d from Fin.ext hp.2.1,
    show wordFin 32 w 15 = a from Fin.ext hp.2.2.1,
    show wordFin 32 w 10 = b from Fin.ext hp.2.2.2.1,
    show wordFin 16 w 6 = mk from Fin.ext hp.2.2.2.2.1,
    show (wordBits w 5 1 == 1) = me from bool_bits _ hp.2.2.2.2.2.1]
  try rfl

theorem Roundtrip.vldz (d : VReg) (a : GReg) (b : Fin 16) : Roundtrip.Statement (.vldz d a b) := by
  refine Roundtrip.of_raw _ ?_
  have hp := pack_fields (l := [(0x30, 7), (d.val, 5), (a.val, 5), (b.val, 4), (0, 6), (7, 5)]) ⟨by decide, d.isLt, a.isLt, b.isLt, by decide, by decide, trivial⟩
  change decodeRaw (packWord [(0x30, 7), (d.val, 5), (a.val, 5), (b.val, 4), (0, 6), (7, 5)]) = _
  generalize packWord [(0x30, 7), (d.val, 5), (a.val, 5), (b.val, 4), (0, 6), (7, 5)] = w at *
  rw [decodeRaw_30 hp.1]
  have f : wordBits w 0 5 = 7 := hp.2.2.2.2.2.1
  have g0 : wordBits w 5 6 = 0 := hp.2.2.2.2.1
  simp only [decodeMajor30, f, g0, ↓reduceIte]
  rw [show wordFin 32 w 20 = d from Fin.ext hp.2.1,
    show wordFin 32 w 15 = a from Fin.ext hp.2.2.1,
    show wordFin 16 w 11 = b from Fin.ext hp.2.2.2.1]

theorem Roundtrip.vpf (k : Fin 4) (a : GReg) (b : GReg) (mk : MReg) (me : Bool) : Roundtrip.Statement (.vpf k a b mk me) := by
  refine Roundtrip.of_raw _ ?_
  have hp := pack_fields (l := [(0x30, 7), (0, 3), (k.val, 2), (a.val, 5), (b.val, 5), (mk.val, 4), (me.toNat, 1), (8, 5)]) ⟨by decide, by decide, k.isLt, a.isLt, b.isLt, mk.isLt, Bool.toNat_lt me, by decide, trivial⟩
  change decodeRaw (packWord [(0x30, 7), (0, 3), (k.val, 2), (a.val, 5), (b.val, 5), (mk.val, 4), (me.toNat, 1), (8, 5)]) = _
  generalize packWord [(0x30, 7), (0, 3), (k.val, 2), (a.val, 5), (b.val, 5), (mk.val, 4), (me.toNat, 1), (8, 5)] = w at *
  rw [decodeRaw_30 hp.1]
  have f : wordBits w 0 5 = 8 := hp.2.2.2.2.2.2.2.1
  have g0 : wordBits w 22 3 = 0 := hp.2.1
  simp only [decodeMajor30, f, g0, ↓reduceIte]
  rw [show wordFin 4 w 20 = k from Fin.ext hp.2.2.1,
    show wordFin 32 w 15 = a from Fin.ext hp.2.2.2.1,
    show wordFin 32 w 10 = b from Fin.ext hp.2.2.2.2.1,
    show wordFin 16 w 6 = mk from Fin.ext hp.2.2.2.2.2.1,
    show (wordBits w 5 1 == 1) = me from bool_bits _ hp.2.2.2.2.2.2.1]

theorem Roundtrip.vst (s : VReg) (a : GReg) (mk : MReg) (me : Bool) : Roundtrip.Statement (.vst s a mk me) := by
  refine Roundtrip.of_raw _ ?_
  have hp := pack_fields (l := [(0x31, 7), (s.val, 5), (a.val, 5), (0, 5), (mk.val, 4), (me.toNat, 1), (0, 5)]) ⟨by decide, s.isLt, a.isLt, by decide, mk.isLt, Bool.toNat_lt me, by decide, trivial⟩
  change decodeRaw (packWord [(0x31, 7), (s.val, 5), (a.val, 5), (0, 5), (mk.val, 4), (me.toNat, 1), (0, 5)]) = _
  generalize packWord [(0x31, 7), (s.val, 5), (a.val, 5), (0, 5), (mk.val, 4), (me.toNat, 1), (0, 5)] = w at *
  rw [decodeRaw_31 hp.1]
  have f : wordBits w 0 5 = 0 := hp.2.2.2.2.2.2.1
  have g0 : wordBits w 10 5 = 0 := hp.2.2.2.1
  simp only [decodeMajor31, f, g0, ↓reduceIte]
  rw [show wordFin 32 w 20 = s from Fin.ext hp.2.1,
    show wordFin 32 w 15 = a from Fin.ext hp.2.2.1,
    show wordFin 16 w 6 = mk from Fin.ext hp.2.2.2.2.1,
    show (wordBits w 5 1 == 1) = me from bool_bits _ hp.2.2.2.2.2.1]

theorem Roundtrip.vsts (s : VReg) (a : GReg) (b : GReg) (mk : MReg) (me : Bool) : Roundtrip.Statement (.vsts s a b mk me) := by
  refine Roundtrip.of_raw _ ?_
  have hp := pack_fields (l := [(0x31, 7), (s.val, 5), (a.val, 5), (b.val, 5), (mk.val, 4), (me.toNat, 1), (1, 5)]) ⟨by decide, s.isLt, a.isLt, b.isLt, mk.isLt, Bool.toNat_lt me, by decide, trivial⟩
  change decodeRaw (packWord [(0x31, 7), (s.val, 5), (a.val, 5), (b.val, 5), (mk.val, 4), (me.toNat, 1), (1, 5)]) = _
  generalize packWord [(0x31, 7), (s.val, 5), (a.val, 5), (b.val, 5), (mk.val, 4), (me.toNat, 1), (1, 5)] = w at *
  rw [decodeRaw_31 hp.1]
  unfold decodeMajor31
  rw [show wordBits w 0 5 = 1 from hp.2.2.2.2.2.2.1,
    show wordFin 32 w 20 = s from Fin.ext hp.2.1,
    show wordFin 32 w 15 = a from Fin.ext hp.2.2.1,
    show wordFin 32 w 10 = b from Fin.ext hp.2.2.2.1,
    show wordFin 16 w 6 = mk from Fin.ext hp.2.2.2.2.1,
    show (wordBits w 5 1 == 1) = me from bool_bits _ hp.2.2.2.2.2.1]
  try rfl

theorem Roundtrip.vstx (s : VReg) (a : GReg) (b : VReg) (mk : MReg) (me : Bool) : Roundtrip.Statement (.vstx s a b mk me) := by
  refine Roundtrip.of_raw _ ?_
  have hp := pack_fields (l := [(0x31, 7), (s.val, 5), (a.val, 5), (b.val, 5), (mk.val, 4), (me.toNat, 1), (2, 5)]) ⟨by decide, s.isLt, a.isLt, b.isLt, mk.isLt, Bool.toNat_lt me, by decide, trivial⟩
  change decodeRaw (packWord [(0x31, 7), (s.val, 5), (a.val, 5), (b.val, 5), (mk.val, 4), (me.toNat, 1), (2, 5)]) = _
  generalize packWord [(0x31, 7), (s.val, 5), (a.val, 5), (b.val, 5), (mk.val, 4), (me.toNat, 1), (2, 5)] = w at *
  rw [decodeRaw_31 hp.1]
  unfold decodeMajor31
  rw [show wordBits w 0 5 = 2 from hp.2.2.2.2.2.2.1,
    show wordFin 32 w 20 = s from Fin.ext hp.2.1,
    show wordFin 32 w 15 = a from Fin.ext hp.2.2.1,
    show wordFin 32 w 10 = b from Fin.ext hp.2.2.2.1,
    show wordFin 16 w 6 = mk from Fin.ext hp.2.2.2.2.1,
    show (wordBits w 5 1 == 1) = me from bool_bits _ hp.2.2.2.2.2.1]
  try rfl

theorem Roundtrip.vstxD (s : VReg) (a : GReg) (b : VReg) (mk : MReg) (me : Bool) : Roundtrip.Statement (.vstxD s a b mk me) := by
  refine Roundtrip.of_raw _ ?_
  have hp := pack_fields (l := [(0x31, 7), (s.val, 5), (a.val, 5), (b.val, 5), (mk.val, 4), (me.toNat, 1), (3, 5)]) ⟨by decide, s.isLt, a.isLt, b.isLt, mk.isLt, Bool.toNat_lt me, by decide, trivial⟩
  change decodeRaw (packWord [(0x31, 7), (s.val, 5), (a.val, 5), (b.val, 5), (mk.val, 4), (me.toNat, 1), (3, 5)]) = _
  generalize packWord [(0x31, 7), (s.val, 5), (a.val, 5), (b.val, 5), (mk.val, 4), (me.toNat, 1), (3, 5)] = w at *
  rw [decodeRaw_31 hp.1]
  unfold decodeMajor31
  rw [show wordBits w 0 5 = 3 from hp.2.2.2.2.2.2.1,
    show wordFin 32 w 20 = s from Fin.ext hp.2.1,
    show wordFin 32 w 15 = a from Fin.ext hp.2.2.1,
    show wordFin 32 w 10 = b from Fin.ext hp.2.2.2.1,
    show wordFin 16 w 6 = mk from Fin.ext hp.2.2.2.2.1,
    show (wordBits w 5 1 == 1) = me from bool_bits _ hp.2.2.2.2.2.1]
  try rfl

theorem Roundtrip.vstc (s : VReg) (a : GReg) (mk : MReg) (me : Bool) : Roundtrip.Statement (.vstc s a mk me) := by
  refine Roundtrip.of_raw _ ?_
  have hp := pack_fields (l := [(0x31, 7), (s.val, 5), (a.val, 5), (0, 5), (mk.val, 4), (me.toNat, 1), (4, 5)]) ⟨by decide, s.isLt, a.isLt, by decide, mk.isLt, Bool.toNat_lt me, by decide, trivial⟩
  change decodeRaw (packWord [(0x31, 7), (s.val, 5), (a.val, 5), (0, 5), (mk.val, 4), (me.toNat, 1), (4, 5)]) = _
  generalize packWord [(0x31, 7), (s.val, 5), (a.val, 5), (0, 5), (mk.val, 4), (me.toNat, 1), (4, 5)] = w at *
  rw [decodeRaw_31 hp.1]
  have f : wordBits w 0 5 = 4 := hp.2.2.2.2.2.2.1
  have g0 : wordBits w 10 5 = 0 := hp.2.2.2.1
  simp only [decodeMajor31, f, g0, ↓reduceIte]
  rw [show wordFin 32 w 20 = s from Fin.ext hp.2.1,
    show wordFin 32 w 15 = a from Fin.ext hp.2.2.1,
    show wordFin 16 w 6 = mk from Fin.ext hp.2.2.2.2.1,
    show (wordBits w 5 1 == 1) = me from bool_bits _ hp.2.2.2.2.2.1]

theorem Roundtrip.vscc (s : VReg) (a : GReg) (b : VReg) (mk : MReg) : Roundtrip.Statement (.vscc s a b mk) := by
  refine Roundtrip.of_raw _ ?_
  have hp := pack_fields (l := [(0x31, 7), (s.val, 5), (a.val, 5), (b.val, 5), (mk.val, 4), (1, 1), (5, 5)]) ⟨by decide, s.isLt, a.isLt, b.isLt, mk.isLt, by decide, by decide, trivial⟩
  change decodeRaw (packWord [(0x31, 7), (s.val, 5), (a.val, 5), (b.val, 5), (mk.val, 4), (1, 1), (5, 5)]) = _
  generalize packWord [(0x31, 7), (s.val, 5), (a.val, 5), (b.val, 5), (mk.val, 4), (1, 1), (5, 5)] = w at *
  rw [decodeRaw_31 hp.1]
  have f : wordBits w 0 5 = 5 := hp.2.2.2.2.2.2.1
  have g0 : wordBits w 5 1 = 1 := hp.2.2.2.2.2.1
  simp only [decodeMajor31, f, g0, ↓reduceIte]
  rw [show wordFin 32 w 20 = s from Fin.ext hp.2.1,
    show wordFin 32 w 15 = a from Fin.ext hp.2.2.1,
    show wordFin 32 w 10 = b from Fin.ext hp.2.2.2.1,
    show wordFin 16 w 6 = mk from Fin.ext hp.2.2.2.2.1]

theorem Roundtrip.vsccD (s : VReg) (a : GReg) (b : VReg) (mk : MReg) : Roundtrip.Statement (.vsccD s a b mk) := by
  refine Roundtrip.of_raw _ ?_
  have hp := pack_fields (l := [(0x31, 7), (s.val, 5), (a.val, 5), (b.val, 5), (mk.val, 4), (1, 1), (6, 5)]) ⟨by decide, s.isLt, a.isLt, b.isLt, mk.isLt, by decide, by decide, trivial⟩
  change decodeRaw (packWord [(0x31, 7), (s.val, 5), (a.val, 5), (b.val, 5), (mk.val, 4), (1, 1), (6, 5)]) = _
  generalize packWord [(0x31, 7), (s.val, 5), (a.val, 5), (b.val, 5), (mk.val, 4), (1, 1), (6, 5)] = w at *
  rw [decodeRaw_31 hp.1]
  have f : wordBits w 0 5 = 6 := hp.2.2.2.2.2.2.1
  have g0 : wordBits w 5 1 = 1 := hp.2.2.2.2.2.1
  simp only [decodeMajor31, f, g0, ↓reduceIte]
  rw [show wordFin 32 w 20 = s from Fin.ext hp.2.1,
    show wordFin 32 w 15 = a from Fin.ext hp.2.2.1,
    show wordFin 32 w 10 = b from Fin.ext hp.2.2.2.1,
    show wordFin 16 w 6 = mk from Fin.ext hp.2.2.2.2.1]

theorem Roundtrip.vsetl (d : GReg) (a : GReg) (b : GReg) : Roundtrip.Statement (.vsetl d a b) := by
  refine Roundtrip.of_raw _ ?_
  have hp := pack_fields (l := [(0x38, 7), (d.val, 5), (a.val, 5), (b.val, 5), (1, 10)]) ⟨by decide, d.isLt, a.isLt, b.isLt, by decide, trivial⟩
  change decodeRaw (packWord [(0x38, 7), (d.val, 5), (a.val, 5), (b.val, 5), (1, 10)]) = _
  generalize packWord [(0x38, 7), (d.val, 5), (a.val, 5), (b.val, 5), (1, 10)] = w at *
  rw [decodeRaw_38 hp.1]
  unfold decodeMajor38
  rw [show wordBits w 0 10 = 1 from hp.2.2.2.2.1,
    show wordFin 32 w 20 = d from Fin.ext hp.2.1,
    show wordFin 32 w 15 = a from Fin.ext hp.2.2.1,
    show wordFin 32 w 10 = b from Fin.ext hp.2.2.2.1]
  try rfl

theorem Roundtrip.vsetmf (a : GReg) : Roundtrip.Statement (.vsetmf a) := by
  refine Roundtrip.of_raw _ ?_
  have hp := pack_fields (l := [(0x38, 7), (0, 5), (a.val, 5), (0, 5), (2, 10)]) ⟨by decide, by decide, a.isLt, by decide, by decide, trivial⟩
  change decodeRaw (packWord [(0x38, 7), (0, 5), (a.val, 5), (0, 5), (2, 10)]) = _
  generalize packWord [(0x38, 7), (0, 5), (a.val, 5), (0, 5), (2, 10)] = w at *
  rw [decodeRaw_38 hp.1]
  have f : wordBits w 0 10 = 2 := hp.2.2.2.2.1
  have g0 : wordBits w 10 5 = 0 := hp.2.2.2.1
  have g1 : wordBits w 20 5 = 0 := hp.2.1
  simp only [decodeMajor38, f, g0, g1, and_self, ↓reduceIte]
  rw [show wordFin 32 w 15 = a from Fin.ext hp.2.2.1]

theorem Roundtrip.vsplit (a : GReg) (b : GReg) : Roundtrip.Statement (.vsplit a b) := by
  refine Roundtrip.of_raw _ ?_
  have hp := pack_fields (l := [(0x38, 7), (0, 5), (a.val, 5), (b.val, 5), (3, 10)]) ⟨by decide, by decide, a.isLt, b.isLt, by decide, trivial⟩
  change decodeRaw (packWord [(0x38, 7), (0, 5), (a.val, 5), (b.val, 5), (3, 10)]) = _
  generalize packWord [(0x38, 7), (0, 5), (a.val, 5), (b.val, 5), (3, 10)] = w at *
  rw [decodeRaw_38 hp.1]
  have f : wordBits w 0 10 = 3 := hp.2.2.2.2.1
  have g0 : wordBits w 20 5 = 0 := hp.2.1
  simp only [decodeMajor38, f, g0, ↓reduceIte]
  rw [show wordFin 32 w 15 = a from Fin.ext hp.2.2.1,
    show wordFin 32 w 10 = b from Fin.ext hp.2.2.2.1]

theorem Roundtrip.vfuse : Roundtrip.Statement .vfuse := by
  refine Roundtrip.of_raw _ ?_
  have hp := pack_fields (l := [(0x38, 7), (0, 15), (4, 10)]) ⟨by decide, by decide, by decide, trivial⟩
  change decodeRaw (packWord [(0x38, 7), (0, 15), (4, 10)]) = _
  generalize packWord [(0x38, 7), (0, 15), (4, 10)] = w at *
  rw [decodeRaw_38 hp.1]
  have f : wordBits w 0 10 = 4 := hp.2.2.1
  have g0 : wordBits w 10 15 = 0 := hp.2.1
  simp only [decodeMajor38, f, g0, ↓reduceIte]

theorem Roundtrip.mpopv (d : VReg) (a : MReg) (mk : MReg) (me : Bool) : Roundtrip.Statement (.mpopv d a mk me) := by
  refine Roundtrip.of_raw _ ?_
  have hp := pack_fields (l := [(0x3A, 7), (d.val, 5), (0, 1), (a.val, 4), (0, 5), (mk.val, 4), (me.toNat, 1), (0, 5)]) ⟨by decide, d.isLt, by decide, a.isLt, by decide, mk.isLt, Bool.toNat_lt me, by decide, trivial⟩
  change decodeRaw (packWord [(0x3A, 7), (d.val, 5), (0, 1), (a.val, 4), (0, 5), (mk.val, 4), (me.toNat, 1), (0, 5)]) = _
  generalize packWord [(0x3A, 7), (d.val, 5), (0, 1), (a.val, 4), (0, 5), (mk.val, 4), (me.toNat, 1), (0, 5)] = w at *
  rw [decodeRaw_3A hp.1]
  have f : wordBits w 0 5 = 0 := hp.2.2.2.2.2.2.2.1
  have g0 : wordBits w 10 5 = 0 := hp.2.2.2.2.1
  have g1 : wordBits w 19 1 = 0 := hp.2.2.1
  simp only [decodeMajor3A, f, g0, g1, and_self, ↓reduceIte]
  rw [show wordFin 32 w 20 = d from Fin.ext hp.2.1,
    show wordFin 16 w 15 = a from Fin.ext hp.2.2.2.1,
    show wordFin 16 w 6 = mk from Fin.ext hp.2.2.2.2.2.1,
    show (wordBits w 5 1 == 1) = me from bool_bits _ hp.2.2.2.2.2.2.1]

theorem Roundtrip.mand (d : MReg) (a : MReg) (b : MReg) : Roundtrip.Statement (.mand d a b) := by
  refine Roundtrip.of_raw _ ?_
  have hp := pack_fields (l := [(0x3B, 7), (0, 1), (d.val, 4), (0, 1), (a.val, 4), (0, 1), (b.val, 4), (0, 10)]) ⟨by decide, by decide, d.isLt, by decide, a.isLt, by decide, b.isLt, by decide, trivial⟩
  change decodeRaw (packWord [(0x3B, 7), (0, 1), (d.val, 4), (0, 1), (a.val, 4), (0, 1), (b.val, 4), (0, 10)]) = _
  generalize packWord [(0x3B, 7), (0, 1), (d.val, 4), (0, 1), (a.val, 4), (0, 1), (b.val, 4), (0, 10)] = w at *
  rw [decodeRaw_3B hp.1]
  have f : wordBits w 0 10 = 0 := hp.2.2.2.2.2.2.2.1
  have g0 : wordBits w 14 1 = 0 := hp.2.2.2.2.2.1
  have g1 : wordBits w 19 1 = 0 := hp.2.2.2.1
  have g2 : wordBits w 24 1 = 0 := hp.2.1
  simp only [decodeMajor3B, f, g0, g1, g2, and_self, ↓reduceIte]
  rw [show wordFin 16 w 20 = d from Fin.ext hp.2.2.1,
    show wordFin 16 w 15 = a from Fin.ext hp.2.2.2.2.1,
    show wordFin 16 w 10 = b from Fin.ext hp.2.2.2.2.2.2.1]

theorem Roundtrip.mor (d : MReg) (a : MReg) (b : MReg) : Roundtrip.Statement (.mor d a b) := by
  refine Roundtrip.of_raw _ ?_
  have hp := pack_fields (l := [(0x3B, 7), (0, 1), (d.val, 4), (0, 1), (a.val, 4), (0, 1), (b.val, 4), (1, 10)]) ⟨by decide, by decide, d.isLt, by decide, a.isLt, by decide, b.isLt, by decide, trivial⟩
  change decodeRaw (packWord [(0x3B, 7), (0, 1), (d.val, 4), (0, 1), (a.val, 4), (0, 1), (b.val, 4), (1, 10)]) = _
  generalize packWord [(0x3B, 7), (0, 1), (d.val, 4), (0, 1), (a.val, 4), (0, 1), (b.val, 4), (1, 10)] = w at *
  rw [decodeRaw_3B hp.1]
  have f : wordBits w 0 10 = 1 := hp.2.2.2.2.2.2.2.1
  have g0 : wordBits w 14 1 = 0 := hp.2.2.2.2.2.1
  have g1 : wordBits w 19 1 = 0 := hp.2.2.2.1
  have g2 : wordBits w 24 1 = 0 := hp.2.1
  simp only [decodeMajor3B, f, g0, g1, g2, and_self, ↓reduceIte]
  rw [show wordFin 16 w 20 = d from Fin.ext hp.2.2.1,
    show wordFin 16 w 15 = a from Fin.ext hp.2.2.2.2.1,
    show wordFin 16 w 10 = b from Fin.ext hp.2.2.2.2.2.2.1]

theorem Roundtrip.mxor (d : MReg) (a : MReg) (b : MReg) : Roundtrip.Statement (.mxor d a b) := by
  refine Roundtrip.of_raw _ ?_
  have hp := pack_fields (l := [(0x3B, 7), (0, 1), (d.val, 4), (0, 1), (a.val, 4), (0, 1), (b.val, 4), (2, 10)]) ⟨by decide, by decide, d.isLt, by decide, a.isLt, by decide, b.isLt, by decide, trivial⟩
  change decodeRaw (packWord [(0x3B, 7), (0, 1), (d.val, 4), (0, 1), (a.val, 4), (0, 1), (b.val, 4), (2, 10)]) = _
  generalize packWord [(0x3B, 7), (0, 1), (d.val, 4), (0, 1), (a.val, 4), (0, 1), (b.val, 4), (2, 10)] = w at *
  rw [decodeRaw_3B hp.1]
  have f : wordBits w 0 10 = 2 := hp.2.2.2.2.2.2.2.1
  have g0 : wordBits w 14 1 = 0 := hp.2.2.2.2.2.1
  have g1 : wordBits w 19 1 = 0 := hp.2.2.2.1
  have g2 : wordBits w 24 1 = 0 := hp.2.1
  simp only [decodeMajor3B, f, g0, g1, g2, and_self, ↓reduceIte]
  rw [show wordFin 16 w 20 = d from Fin.ext hp.2.2.1,
    show wordFin 16 w 15 = a from Fin.ext hp.2.2.2.2.1,
    show wordFin 16 w 10 = b from Fin.ext hp.2.2.2.2.2.2.1]

theorem Roundtrip.mnot (d : MReg) (a : MReg) : Roundtrip.Statement (.mnot d a) := by
  refine Roundtrip.of_raw _ ?_
  have hp := pack_fields (l := [(0x3B, 7), (0, 1), (d.val, 4), (0, 1), (a.val, 4), (0, 5), (3, 10)]) ⟨by decide, by decide, d.isLt, by decide, a.isLt, by decide, by decide, trivial⟩
  change decodeRaw (packWord [(0x3B, 7), (0, 1), (d.val, 4), (0, 1), (a.val, 4), (0, 5), (3, 10)]) = _
  generalize packWord [(0x3B, 7), (0, 1), (d.val, 4), (0, 1), (a.val, 4), (0, 5), (3, 10)] = w at *
  rw [decodeRaw_3B hp.1]
  have f : wordBits w 0 10 = 3 := hp.2.2.2.2.2.2.1
  have g0 : wordBits w 10 5 = 0 := hp.2.2.2.2.2.1
  have g1 : wordBits w 19 1 = 0 := hp.2.2.2.1
  have g2 : wordBits w 24 1 = 0 := hp.2.1
  simp only [decodeMajor3B, f, g0, g1, g2, and_self, ↓reduceIte]
  rw [show wordFin 16 w 20 = d from Fin.ext hp.2.2.1,
    show wordFin 16 w 15 = a from Fin.ext hp.2.2.2.2.1]

theorem Roundtrip.mset (d : MReg) : Roundtrip.Statement (.mset d) := by
  refine Roundtrip.of_raw _ ?_
  have hp := pack_fields (l := [(0x3B, 7), (0, 1), (d.val, 4), (0, 10), (4, 10)]) ⟨by decide, by decide, d.isLt, by decide, by decide, trivial⟩
  change decodeRaw (packWord [(0x3B, 7), (0, 1), (d.val, 4), (0, 10), (4, 10)]) = _
  generalize packWord [(0x3B, 7), (0, 1), (d.val, 4), (0, 10), (4, 10)] = w at *
  rw [decodeRaw_3B hp.1]
  have f : wordBits w 0 10 = 4 := hp.2.2.2.2.1
  have g0 : wordBits w 10 10 = 0 := hp.2.2.2.1
  have g1 : wordBits w 24 1 = 0 := hp.2.1
  simp only [decodeMajor3B, f, g0, g1, and_self, ↓reduceIte]
  rw [show wordFin 16 w 20 = d from Fin.ext hp.2.2.1]

theorem Roundtrip.mclr (d : MReg) : Roundtrip.Statement (.mclr d) := by
  refine Roundtrip.of_raw _ ?_
  have hp := pack_fields (l := [(0x3B, 7), (0, 1), (d.val, 4), (0, 10), (5, 10)]) ⟨by decide, by decide, d.isLt, by decide, by decide, trivial⟩
  change decodeRaw (packWord [(0x3B, 7), (0, 1), (d.val, 4), (0, 10), (5, 10)]) = _
  generalize packWord [(0x3B, 7), (0, 1), (d.val, 4), (0, 10), (5, 10)] = w at *
  rw [decodeRaw_3B hp.1]
  have f : wordBits w 0 10 = 5 := hp.2.2.2.2.1
  have g0 : wordBits w 10 10 = 0 := hp.2.2.2.1
  have g1 : wordBits w 24 1 = 0 := hp.2.1
  simp only [decodeMajor3B, f, g0, g1, and_self, ↓reduceIte]
  rw [show wordFin 16 w 20 = d from Fin.ext hp.2.2.1]

theorem Roundtrip.mfromfm (d : MReg) : Roundtrip.Statement (.mfromfm d) := by
  refine Roundtrip.of_raw _ ?_
  have hp := pack_fields (l := [(0x3B, 7), (0, 1), (d.val, 4), (0, 10), (6, 10)]) ⟨by decide, by decide, d.isLt, by decide, by decide, trivial⟩
  change decodeRaw (packWord [(0x3B, 7), (0, 1), (d.val, 4), (0, 10), (6, 10)]) = _
  generalize packWord [(0x3B, 7), (0, 1), (d.val, 4), (0, 10), (6, 10)] = w at *
  rw [decodeRaw_3B hp.1]
  have f : wordBits w 0 10 = 6 := hp.2.2.2.2.1
  have g0 : wordBits w 10 10 = 0 := hp.2.2.2.1
  have g1 : wordBits w 24 1 = 0 := hp.2.1
  simp only [decodeMajor3B, f, g0, g1, and_self, ↓reduceIte]
  rw [show wordFin 16 w 20 = d from Fin.ext hp.2.2.1]

theorem Roundtrip.mcnt (d : GReg) (a : MReg) : Roundtrip.Statement (.mcnt d a) := by
  refine Roundtrip.of_raw _ ?_
  have hp := pack_fields (l := [(0x3B, 7), (d.val, 5), (0, 1), (a.val, 4), (0, 5), (256, 10)]) ⟨by decide, d.isLt, by decide, a.isLt, by decide, by decide, trivial⟩
  change decodeRaw (packWord [(0x3B, 7), (d.val, 5), (0, 1), (a.val, 4), (0, 5), (256, 10)]) = _
  generalize packWord [(0x3B, 7), (d.val, 5), (0, 1), (a.val, 4), (0, 5), (256, 10)] = w at *
  rw [decodeRaw_3B hp.1]
  have f : wordBits w 0 10 = 256 := hp.2.2.2.2.2.1
  have g0 : wordBits w 10 5 = 0 := hp.2.2.2.2.1
  have g1 : wordBits w 19 1 = 0 := hp.2.2.1
  simp only [decodeMajor3B, f, g0, g1, and_self, ↓reduceIte]
  rw [show wordFin 32 w 20 = d from Fin.ext hp.2.1,
    show wordFin 16 w 15 = a from Fin.ext hp.2.2.2.1]

theorem Roundtrip.many (d : GReg) (a : MReg) : Roundtrip.Statement (.many d a) := by
  refine Roundtrip.of_raw _ ?_
  have hp := pack_fields (l := [(0x3B, 7), (d.val, 5), (0, 1), (a.val, 4), (0, 5), (257, 10)]) ⟨by decide, d.isLt, by decide, a.isLt, by decide, by decide, trivial⟩
  change decodeRaw (packWord [(0x3B, 7), (d.val, 5), (0, 1), (a.val, 4), (0, 5), (257, 10)]) = _
  generalize packWord [(0x3B, 7), (d.val, 5), (0, 1), (a.val, 4), (0, 5), (257, 10)] = w at *
  rw [decodeRaw_3B hp.1]
  have f : wordBits w 0 10 = 257 := hp.2.2.2.2.2.1
  have g0 : wordBits w 10 5 = 0 := hp.2.2.2.2.1
  have g1 : wordBits w 19 1 = 0 := hp.2.2.1
  simp only [decodeMajor3B, f, g0, g1, and_self, ↓reduceIte]
  rw [show wordFin 32 w 20 = d from Fin.ext hp.2.1,
    show wordFin 16 w 15 = a from Fin.ext hp.2.2.2.1]

theorem Roundtrip.mfirst (d : GReg) (a : MReg) : Roundtrip.Statement (.mfirst d a) := by
  refine Roundtrip.of_raw _ ?_
  have hp := pack_fields (l := [(0x3B, 7), (d.val, 5), (0, 1), (a.val, 4), (0, 5), (258, 10)]) ⟨by decide, d.isLt, by decide, a.isLt, by decide, by decide, trivial⟩
  change decodeRaw (packWord [(0x3B, 7), (d.val, 5), (0, 1), (a.val, 4), (0, 5), (258, 10)]) = _
  generalize packWord [(0x3B, 7), (d.val, 5), (0, 1), (a.val, 4), (0, 5), (258, 10)] = w at *
  rw [decodeRaw_3B hp.1]
  have f : wordBits w 0 10 = 258 := hp.2.2.2.2.2.1
  have g0 : wordBits w 10 5 = 0 := hp.2.2.2.2.1
  have g1 : wordBits w 19 1 = 0 := hp.2.2.1
  simp only [decodeMajor3B, f, g0, g1, and_self, ↓reduceIte]
  rw [show wordFin 32 w 20 = d from Fin.ext hp.2.1,
    show wordFin 16 w 15 = a from Fin.ext hp.2.2.2.1]

theorem Roundtrip.vslideup (d : VReg) (a : VReg) (b : GReg) (mk : MReg) (me : Bool) : Roundtrip.Statement (.vslideup d a b mk me) := by
  refine Roundtrip.of_raw _ ?_
  have hp := pack_fields (l := [(0x3C, 7), (d.val, 5), (a.val, 5), (b.val, 5), (mk.val, 4), (me.toNat, 1), (0, 5)]) ⟨by decide, d.isLt, a.isLt, b.isLt, mk.isLt, Bool.toNat_lt me, by decide, trivial⟩
  change decodeRaw (packWord [(0x3C, 7), (d.val, 5), (a.val, 5), (b.val, 5), (mk.val, 4), (me.toNat, 1), (0, 5)]) = _
  generalize packWord [(0x3C, 7), (d.val, 5), (a.val, 5), (b.val, 5), (mk.val, 4), (me.toNat, 1), (0, 5)] = w at *
  rw [decodeRaw_3C hp.1]
  unfold decodeMajor3C
  rw [show wordBits w 0 5 = 0 from hp.2.2.2.2.2.2.1,
    show wordFin 32 w 20 = d from Fin.ext hp.2.1,
    show wordFin 32 w 15 = a from Fin.ext hp.2.2.1,
    show wordFin 32 w 10 = b from Fin.ext hp.2.2.2.1,
    show wordFin 16 w 6 = mk from Fin.ext hp.2.2.2.2.1,
    show (wordBits w 5 1 == 1) = me from bool_bits _ hp.2.2.2.2.2.1]
  try rfl

theorem Roundtrip.vslidedn (d : VReg) (a : VReg) (b : GReg) (mk : MReg) (me : Bool) : Roundtrip.Statement (.vslidedn d a b mk me) := by
  refine Roundtrip.of_raw _ ?_
  have hp := pack_fields (l := [(0x3C, 7), (d.val, 5), (a.val, 5), (b.val, 5), (mk.val, 4), (me.toNat, 1), (1, 5)]) ⟨by decide, d.isLt, a.isLt, b.isLt, mk.isLt, Bool.toNat_lt me, by decide, trivial⟩
  change decodeRaw (packWord [(0x3C, 7), (d.val, 5), (a.val, 5), (b.val, 5), (mk.val, 4), (me.toNat, 1), (1, 5)]) = _
  generalize packWord [(0x3C, 7), (d.val, 5), (a.val, 5), (b.val, 5), (mk.val, 4), (me.toNat, 1), (1, 5)] = w at *
  rw [decodeRaw_3C hp.1]
  unfold decodeMajor3C
  rw [show wordBits w 0 5 = 1 from hp.2.2.2.2.2.2.1,
    show wordFin 32 w 20 = d from Fin.ext hp.2.1,
    show wordFin 32 w 15 = a from Fin.ext hp.2.2.1,
    show wordFin 32 w 10 = b from Fin.ext hp.2.2.2.1,
    show wordFin 16 w 6 = mk from Fin.ext hp.2.2.2.2.1,
    show (wordBits w 5 1 == 1) = me from bool_bits _ hp.2.2.2.2.2.1]
  try rfl

theorem Roundtrip.vshuf (d : VReg) (a : VReg) (b : VReg) (mk : MReg) (me : Bool) : Roundtrip.Statement (.vshuf d a b mk me) := by
  refine Roundtrip.of_raw _ ?_
  have hp := pack_fields (l := [(0x3C, 7), (d.val, 5), (a.val, 5), (b.val, 5), (mk.val, 4), (me.toNat, 1), (2, 5)]) ⟨by decide, d.isLt, a.isLt, b.isLt, mk.isLt, Bool.toNat_lt me, by decide, trivial⟩
  change decodeRaw (packWord [(0x3C, 7), (d.val, 5), (a.val, 5), (b.val, 5), (mk.val, 4), (me.toNat, 1), (2, 5)]) = _
  generalize packWord [(0x3C, 7), (d.val, 5), (a.val, 5), (b.val, 5), (mk.val, 4), (me.toNat, 1), (2, 5)] = w at *
  rw [decodeRaw_3C hp.1]
  unfold decodeMajor3C
  rw [show wordBits w 0 5 = 2 from hp.2.2.2.2.2.2.1,
    show wordFin 32 w 20 = d from Fin.ext hp.2.1,
    show wordFin 32 w 15 = a from Fin.ext hp.2.2.1,
    show wordFin 32 w 10 = b from Fin.ext hp.2.2.2.1,
    show wordFin 16 w 6 = mk from Fin.ext hp.2.2.2.2.1,
    show (wordBits w 5 1 == 1) = me from bool_bits _ hp.2.2.2.2.2.1]
  try rfl

theorem Roundtrip.vrev (d : VReg) (a : VReg) (mk : MReg) (me : Bool) : Roundtrip.Statement (.vrev d a mk me) := by
  refine Roundtrip.of_raw _ ?_
  have hp := pack_fields (l := [(0x3C, 7), (d.val, 5), (a.val, 5), (0, 5), (mk.val, 4), (me.toNat, 1), (3, 5)]) ⟨by decide, d.isLt, a.isLt, by decide, mk.isLt, Bool.toNat_lt me, by decide, trivial⟩
  change decodeRaw (packWord [(0x3C, 7), (d.val, 5), (a.val, 5), (0, 5), (mk.val, 4), (me.toNat, 1), (3, 5)]) = _
  generalize packWord [(0x3C, 7), (d.val, 5), (a.val, 5), (0, 5), (mk.val, 4), (me.toNat, 1), (3, 5)] = w at *
  rw [decodeRaw_3C hp.1]
  have f : wordBits w 0 5 = 3 := hp.2.2.2.2.2.2.1
  have g0 : wordBits w 10 5 = 0 := hp.2.2.2.1
  simp only [decodeMajor3C, f, g0, ↓reduceIte]
  rw [show wordFin 32 w 20 = d from Fin.ext hp.2.1,
    show wordFin 32 w 15 = a from Fin.ext hp.2.2.1,
    show wordFin 16 w 6 = mk from Fin.ext hp.2.2.2.2.1,
    show (wordBits w 5 1 == 1) = me from bool_bits _ hp.2.2.2.2.2.1]

theorem Roundtrip.vcompress (d : VReg) (a : VReg) (mk : MReg) : Roundtrip.Statement (.vcompress d a mk) := by
  refine Roundtrip.of_raw _ ?_
  have hp := pack_fields (l := [(0x3C, 7), (d.val, 5), (a.val, 5), (0, 5), (mk.val, 4), (1, 1), (4, 5)]) ⟨by decide, d.isLt, a.isLt, by decide, mk.isLt, by decide, by decide, trivial⟩
  change decodeRaw (packWord [(0x3C, 7), (d.val, 5), (a.val, 5), (0, 5), (mk.val, 4), (1, 1), (4, 5)]) = _
  generalize packWord [(0x3C, 7), (d.val, 5), (a.val, 5), (0, 5), (mk.val, 4), (1, 1), (4, 5)] = w at *
  rw [decodeRaw_3C hp.1]
  have f : wordBits w 0 5 = 4 := hp.2.2.2.2.2.2.1
  have g0 : wordBits w 5 1 = 1 := hp.2.2.2.2.2.1
  have g1 : wordBits w 10 5 = 0 := hp.2.2.2.1
  simp only [decodeMajor3C, f, g0, g1, and_self, ↓reduceIte]
  rw [show wordFin 32 w 20 = d from Fin.ext hp.2.1,
    show wordFin 32 w 15 = a from Fin.ext hp.2.2.1,
    show wordFin 16 w 6 = mk from Fin.ext hp.2.2.2.2.1]

theorem Roundtrip.vexpand (d : VReg) (a : VReg) (mk : MReg) : Roundtrip.Statement (.vexpand d a mk) := by
  refine Roundtrip.of_raw _ ?_
  have hp := pack_fields (l := [(0x3C, 7), (d.val, 5), (a.val, 5), (0, 5), (mk.val, 4), (1, 1), (5, 5)]) ⟨by decide, d.isLt, a.isLt, by decide, mk.isLt, by decide, by decide, trivial⟩
  change decodeRaw (packWord [(0x3C, 7), (d.val, 5), (a.val, 5), (0, 5), (mk.val, 4), (1, 1), (5, 5)]) = _
  generalize packWord [(0x3C, 7), (d.val, 5), (a.val, 5), (0, 5), (mk.val, 4), (1, 1), (5, 5)] = w at *
  rw [decodeRaw_3C hp.1]
  have f : wordBits w 0 5 = 5 := hp.2.2.2.2.2.2.1
  have g0 : wordBits w 5 1 = 1 := hp.2.2.2.2.2.1
  have g1 : wordBits w 10 5 = 0 := hp.2.2.2.1
  simp only [decodeMajor3C, f, g0, g1, and_self, ↓reduceIte]
  rw [show wordFin 32 w 20 = d from Fin.ext hp.2.1,
    show wordFin 32 w 15 = a from Fin.ext hp.2.2.1,
    show wordFin 16 w 6 = mk from Fin.ext hp.2.2.2.2.1]

theorem Roundtrip.vscan (d : VReg) (a : VReg) (mk : MReg) (me : Bool) : Roundtrip.Statement (.vscan d a mk me) := by
  refine Roundtrip.of_raw _ ?_
  have hp := pack_fields (l := [(0x3D, 7), (d.val, 5), (a.val, 5), (0, 5), (mk.val, 4), (me.toNat, 1), (0, 5)]) ⟨by decide, d.isLt, a.isLt, by decide, mk.isLt, Bool.toNat_lt me, by decide, trivial⟩
  change decodeRaw (packWord [(0x3D, 7), (d.val, 5), (a.val, 5), (0, 5), (mk.val, 4), (me.toNat, 1), (0, 5)]) = _
  generalize packWord [(0x3D, 7), (d.val, 5), (a.val, 5), (0, 5), (mk.val, 4), (me.toNat, 1), (0, 5)] = w at *
  rw [decodeRaw_3D hp.1]
  have f : wordBits w 0 5 = 0 := hp.2.2.2.2.2.2.1
  have g0 : wordBits w 10 5 = 0 := hp.2.2.2.1
  simp only [decodeMajor3D, f, g0, ↓reduceIte]
  rw [show wordFin 32 w 20 = d from Fin.ext hp.2.1,
    show wordFin 32 w 15 = a from Fin.ext hp.2.2.1,
    show wordFin 16 w 6 = mk from Fin.ext hp.2.2.2.2.1,
    show (wordBits w 5 1 == 1) = me from bool_bits _ hp.2.2.2.2.2.1]

theorem Roundtrip.vscanMin (d : VReg) (a : VReg) (mk : MReg) (me : Bool) : Roundtrip.Statement (.vscanMin d a mk me) := by
  refine Roundtrip.of_raw _ ?_
  have hp := pack_fields (l := [(0x3D, 7), (d.val, 5), (a.val, 5), (0, 5), (mk.val, 4), (me.toNat, 1), (1, 5)]) ⟨by decide, d.isLt, a.isLt, by decide, mk.isLt, Bool.toNat_lt me, by decide, trivial⟩
  change decodeRaw (packWord [(0x3D, 7), (d.val, 5), (a.val, 5), (0, 5), (mk.val, 4), (me.toNat, 1), (1, 5)]) = _
  generalize packWord [(0x3D, 7), (d.val, 5), (a.val, 5), (0, 5), (mk.val, 4), (me.toNat, 1), (1, 5)] = w at *
  rw [decodeRaw_3D hp.1]
  have f : wordBits w 0 5 = 1 := hp.2.2.2.2.2.2.1
  have g0 : wordBits w 10 5 = 0 := hp.2.2.2.1
  simp only [decodeMajor3D, f, g0, ↓reduceIte]
  rw [show wordFin 32 w 20 = d from Fin.ext hp.2.1,
    show wordFin 32 w 15 = a from Fin.ext hp.2.2.1,
    show wordFin 16 w 6 = mk from Fin.ext hp.2.2.2.2.1,
    show (wordBits w 5 1 == 1) = me from bool_bits _ hp.2.2.2.2.2.1]

theorem Roundtrip.vscanMax (d : VReg) (a : VReg) (mk : MReg) (me : Bool) : Roundtrip.Statement (.vscanMax d a mk me) := by
  refine Roundtrip.of_raw _ ?_
  have hp := pack_fields (l := [(0x3D, 7), (d.val, 5), (a.val, 5), (0, 5), (mk.val, 4), (me.toNat, 1), (2, 5)]) ⟨by decide, d.isLt, a.isLt, by decide, mk.isLt, Bool.toNat_lt me, by decide, trivial⟩
  change decodeRaw (packWord [(0x3D, 7), (d.val, 5), (a.val, 5), (0, 5), (mk.val, 4), (me.toNat, 1), (2, 5)]) = _
  generalize packWord [(0x3D, 7), (d.val, 5), (a.val, 5), (0, 5), (mk.val, 4), (me.toNat, 1), (2, 5)] = w at *
  rw [decodeRaw_3D hp.1]
  have f : wordBits w 0 5 = 2 := hp.2.2.2.2.2.2.1
  have g0 : wordBits w 10 5 = 0 := hp.2.2.2.1
  simp only [decodeMajor3D, f, g0, ↓reduceIte]
  rw [show wordFin 32 w 20 = d from Fin.ext hp.2.1,
    show wordFin 32 w 15 = a from Fin.ext hp.2.2.1,
    show wordFin 16 w 6 = mk from Fin.ext hp.2.2.2.2.1,
    show (wordBits w 5 1 == 1) = me from bool_bits _ hp.2.2.2.2.2.1]

theorem Roundtrip.vredsum (d : VReg) (a : VReg) (b : VReg) (mk : MReg) (me : Bool) : Roundtrip.Statement (.vredsum d a b mk me) := by
  refine Roundtrip.of_raw _ ?_
  have hp := pack_fields (l := [(0x3E, 7), (d.val, 5), (a.val, 5), (b.val, 5), (mk.val, 4), (me.toNat, 1), (0, 5)]) ⟨by decide, d.isLt, a.isLt, b.isLt, mk.isLt, Bool.toNat_lt me, by decide, trivial⟩
  change decodeRaw (packWord [(0x3E, 7), (d.val, 5), (a.val, 5), (b.val, 5), (mk.val, 4), (me.toNat, 1), (0, 5)]) = _
  generalize packWord [(0x3E, 7), (d.val, 5), (a.val, 5), (b.val, 5), (mk.val, 4), (me.toNat, 1), (0, 5)] = w at *
  rw [decodeRaw_3E hp.1]
  unfold decodeMajor3E
  rw [show wordBits w 0 5 = 0 from hp.2.2.2.2.2.2.1,
    show wordFin 32 w 20 = d from Fin.ext hp.2.1,
    show wordFin 32 w 15 = a from Fin.ext hp.2.2.1,
    show wordFin 32 w 10 = b from Fin.ext hp.2.2.2.1,
    show wordFin 16 w 6 = mk from Fin.ext hp.2.2.2.2.1,
    show (wordBits w 5 1 == 1) = me from bool_bits _ hp.2.2.2.2.2.1]
  try rfl

theorem Roundtrip.vredsumF (d : VReg) (a : VReg) (b : VReg) (mk : MReg) (me : Bool) : Roundtrip.Statement (.vredsumF d a b mk me) := by
  refine Roundtrip.of_raw _ ?_
  have hp := pack_fields (l := [(0x3E, 7), (d.val, 5), (a.val, 5), (b.val, 5), (mk.val, 4), (me.toNat, 1), (1, 5)]) ⟨by decide, d.isLt, a.isLt, b.isLt, mk.isLt, Bool.toNat_lt me, by decide, trivial⟩
  change decodeRaw (packWord [(0x3E, 7), (d.val, 5), (a.val, 5), (b.val, 5), (mk.val, 4), (me.toNat, 1), (1, 5)]) = _
  generalize packWord [(0x3E, 7), (d.val, 5), (a.val, 5), (b.val, 5), (mk.val, 4), (me.toNat, 1), (1, 5)] = w at *
  rw [decodeRaw_3E hp.1]
  unfold decodeMajor3E
  rw [show wordBits w 0 5 = 1 from hp.2.2.2.2.2.2.1,
    show wordFin 32 w 20 = d from Fin.ext hp.2.1,
    show wordFin 32 w 15 = a from Fin.ext hp.2.2.1,
    show wordFin 32 w 10 = b from Fin.ext hp.2.2.2.1,
    show wordFin 16 w 6 = mk from Fin.ext hp.2.2.2.2.1,
    show (wordBits w 5 1 == 1) = me from bool_bits _ hp.2.2.2.2.2.1]
  try rfl

theorem Roundtrip.vredmax (d : VReg) (a : VReg) (b : VReg) (mk : MReg) (me : Bool) : Roundtrip.Statement (.vredmax d a b mk me) := by
  refine Roundtrip.of_raw _ ?_
  have hp := pack_fields (l := [(0x3E, 7), (d.val, 5), (a.val, 5), (b.val, 5), (mk.val, 4), (me.toNat, 1), (2, 5)]) ⟨by decide, d.isLt, a.isLt, b.isLt, mk.isLt, Bool.toNat_lt me, by decide, trivial⟩
  change decodeRaw (packWord [(0x3E, 7), (d.val, 5), (a.val, 5), (b.val, 5), (mk.val, 4), (me.toNat, 1), (2, 5)]) = _
  generalize packWord [(0x3E, 7), (d.val, 5), (a.val, 5), (b.val, 5), (mk.val, 4), (me.toNat, 1), (2, 5)] = w at *
  rw [decodeRaw_3E hp.1]
  unfold decodeMajor3E
  rw [show wordBits w 0 5 = 2 from hp.2.2.2.2.2.2.1,
    show wordFin 32 w 20 = d from Fin.ext hp.2.1,
    show wordFin 32 w 15 = a from Fin.ext hp.2.2.1,
    show wordFin 32 w 10 = b from Fin.ext hp.2.2.2.1,
    show wordFin 16 w 6 = mk from Fin.ext hp.2.2.2.2.1,
    show (wordBits w 5 1 == 1) = me from bool_bits _ hp.2.2.2.2.2.1]
  try rfl

theorem Roundtrip.vredmin (d : VReg) (a : VReg) (b : VReg) (mk : MReg) (me : Bool) : Roundtrip.Statement (.vredmin d a b mk me) := by
  refine Roundtrip.of_raw _ ?_
  have hp := pack_fields (l := [(0x3E, 7), (d.val, 5), (a.val, 5), (b.val, 5), (mk.val, 4), (me.toNat, 1), (3, 5)]) ⟨by decide, d.isLt, a.isLt, b.isLt, mk.isLt, Bool.toNat_lt me, by decide, trivial⟩
  change decodeRaw (packWord [(0x3E, 7), (d.val, 5), (a.val, 5), (b.val, 5), (mk.val, 4), (me.toNat, 1), (3, 5)]) = _
  generalize packWord [(0x3E, 7), (d.val, 5), (a.val, 5), (b.val, 5), (mk.val, 4), (me.toNat, 1), (3, 5)] = w at *
  rw [decodeRaw_3E hp.1]
  unfold decodeMajor3E
  rw [show wordBits w 0 5 = 3 from hp.2.2.2.2.2.2.1,
    show wordFin 32 w 20 = d from Fin.ext hp.2.1,
    show wordFin 32 w 15 = a from Fin.ext hp.2.2.1,
    show wordFin 32 w 10 = b from Fin.ext hp.2.2.2.1,
    show wordFin 16 w 6 = mk from Fin.ext hp.2.2.2.2.1,
    show (wordBits w 5 1 == 1) = me from bool_bits _ hp.2.2.2.2.2.1]
  try rfl

theorem Roundtrip.vredsumQ (q : Fin 2) (a : VReg) (b : VReg) (mk : MReg) (me : Bool) : Roundtrip.Statement (.vredsumQ q a b mk me) := by
  refine Roundtrip.of_raw _ ?_
  have hp := pack_fields (l := [(0x3E, 7), (3, 4), (q.val, 1), (a.val, 5), (b.val, 5), (mk.val, 4), (me.toNat, 1), (16, 5)]) ⟨by decide, by decide, q.isLt, a.isLt, b.isLt, mk.isLt, Bool.toNat_lt me, by decide, trivial⟩
  change decodeRaw (packWord [(0x3E, 7), (3, 4), (q.val, 1), (a.val, 5), (b.val, 5), (mk.val, 4), (me.toNat, 1), (16, 5)]) = _
  generalize packWord [(0x3E, 7), (3, 4), (q.val, 1), (a.val, 5), (b.val, 5), (mk.val, 4), (me.toNat, 1), (16, 5)] = w at *
  rw [decodeRaw_3E hp.1]
  have f : wordBits w 0 5 = 16 := hp.2.2.2.2.2.2.2.1
  have g0 : wordBits w 21 4 = 3 := hp.2.1
  simp only [decodeMajor3E, f, g0, ↓reduceIte]
  rw [show wordFin 2 w 20 = q from Fin.ext hp.2.2.1,
    show wordFin 32 w 15 = a from Fin.ext hp.2.2.2.1,
    show wordFin 32 w 10 = b from Fin.ext hp.2.2.2.2.1,
    show wordFin 16 w 6 = mk from Fin.ext hp.2.2.2.2.2.1,
    show (wordBits w 5 1 == 1) = me from bool_bits _ hp.2.2.2.2.2.2.1]

theorem Roundtrip.vredsumFQ (q : Fin 2) (a : VReg) (b : VReg) (mk : MReg) (me : Bool) : Roundtrip.Statement (.vredsumFQ q a b mk me) := by
  refine Roundtrip.of_raw _ ?_
  have hp := pack_fields (l := [(0x3E, 7), (3, 4), (q.val, 1), (a.val, 5), (b.val, 5), (mk.val, 4), (me.toNat, 1), (17, 5)]) ⟨by decide, by decide, q.isLt, a.isLt, b.isLt, mk.isLt, Bool.toNat_lt me, by decide, trivial⟩
  change decodeRaw (packWord [(0x3E, 7), (3, 4), (q.val, 1), (a.val, 5), (b.val, 5), (mk.val, 4), (me.toNat, 1), (17, 5)]) = _
  generalize packWord [(0x3E, 7), (3, 4), (q.val, 1), (a.val, 5), (b.val, 5), (mk.val, 4), (me.toNat, 1), (17, 5)] = w at *
  rw [decodeRaw_3E hp.1]
  have f : wordBits w 0 5 = 17 := hp.2.2.2.2.2.2.2.1
  have g0 : wordBits w 21 4 = 3 := hp.2.1
  simp only [decodeMajor3E, f, g0, ↓reduceIte]
  rw [show wordFin 2 w 20 = q from Fin.ext hp.2.2.1,
    show wordFin 32 w 15 = a from Fin.ext hp.2.2.2.1,
    show wordFin 32 w 10 = b from Fin.ext hp.2.2.2.2.1,
    show wordFin 16 w 6 = mk from Fin.ext hp.2.2.2.2.2.1,
    show (wordBits w 5 1 == 1) = me from bool_bits _ hp.2.2.2.2.2.2.1]

theorem Roundtrip.vredmaxQ (q : Fin 2) (a : VReg) (b : VReg) (mk : MReg) (me : Bool) : Roundtrip.Statement (.vredmaxQ q a b mk me) := by
  refine Roundtrip.of_raw _ ?_
  have hp := pack_fields (l := [(0x3E, 7), (3, 4), (q.val, 1), (a.val, 5), (b.val, 5), (mk.val, 4), (me.toNat, 1), (18, 5)]) ⟨by decide, by decide, q.isLt, a.isLt, b.isLt, mk.isLt, Bool.toNat_lt me, by decide, trivial⟩
  change decodeRaw (packWord [(0x3E, 7), (3, 4), (q.val, 1), (a.val, 5), (b.val, 5), (mk.val, 4), (me.toNat, 1), (18, 5)]) = _
  generalize packWord [(0x3E, 7), (3, 4), (q.val, 1), (a.val, 5), (b.val, 5), (mk.val, 4), (me.toNat, 1), (18, 5)] = w at *
  rw [decodeRaw_3E hp.1]
  have f : wordBits w 0 5 = 18 := hp.2.2.2.2.2.2.2.1
  have g0 : wordBits w 21 4 = 3 := hp.2.1
  simp only [decodeMajor3E, f, g0, ↓reduceIte]
  rw [show wordFin 2 w 20 = q from Fin.ext hp.2.2.1,
    show wordFin 32 w 15 = a from Fin.ext hp.2.2.2.1,
    show wordFin 32 w 10 = b from Fin.ext hp.2.2.2.2.1,
    show wordFin 16 w 6 = mk from Fin.ext hp.2.2.2.2.2.1,
    show (wordBits w 5 1 == 1) = me from bool_bits _ hp.2.2.2.2.2.2.1]

theorem Roundtrip.vredminQ (q : Fin 2) (a : VReg) (b : VReg) (mk : MReg) (me : Bool) : Roundtrip.Statement (.vredminQ q a b mk me) := by
  refine Roundtrip.of_raw _ ?_
  have hp := pack_fields (l := [(0x3E, 7), (3, 4), (q.val, 1), (a.val, 5), (b.val, 5), (mk.val, 4), (me.toNat, 1), (19, 5)]) ⟨by decide, by decide, q.isLt, a.isLt, b.isLt, mk.isLt, Bool.toNat_lt me, by decide, trivial⟩
  change decodeRaw (packWord [(0x3E, 7), (3, 4), (q.val, 1), (a.val, 5), (b.val, 5), (mk.val, 4), (me.toNat, 1), (19, 5)]) = _
  generalize packWord [(0x3E, 7), (3, 4), (q.val, 1), (a.val, 5), (b.val, 5), (mk.val, 4), (me.toNat, 1), (19, 5)] = w at *
  rw [decodeRaw_3E hp.1]
  have f : wordBits w 0 5 = 19 := hp.2.2.2.2.2.2.2.1
  have g0 : wordBits w 21 4 = 3 := hp.2.1
  simp only [decodeMajor3E, f, g0, ↓reduceIte]
  rw [show wordFin 2 w 20 = q from Fin.ext hp.2.2.1,
    show wordFin 32 w 15 = a from Fin.ext hp.2.2.2.1,
    show wordFin 32 w 10 = b from Fin.ext hp.2.2.2.2.1,
    show wordFin 16 w 6 = mk from Fin.ext hp.2.2.2.2.2.1,
    show (wordBits w 5 1 == 1) = me from bool_bits _ hp.2.2.2.2.2.2.1]

theorem Roundtrip.vfold (k : KReg) (a : VReg) (mk : MReg) (me : Bool) : Roundtrip.Statement (.vfold k a mk me) := by
  refine Roundtrip.of_raw _ ?_
  have hp := pack_fields (l := [(0x3F, 7), (0, 3), (k.val, 2), (a.val, 5), (0, 5), (mk.val, 4), (me.toNat, 1), (0, 5)]) ⟨by decide, by decide, k.isLt, a.isLt, by decide, mk.isLt, Bool.toNat_lt me, by decide, trivial⟩
  change decodeRaw (packWord [(0x3F, 7), (0, 3), (k.val, 2), (a.val, 5), (0, 5), (mk.val, 4), (me.toNat, 1), (0, 5)]) = _
  generalize packWord [(0x3F, 7), (0, 3), (k.val, 2), (a.val, 5), (0, 5), (mk.val, 4), (me.toNat, 1), (0, 5)] = w at *
  rw [decodeRaw_3F hp.1]
  have f : wordBits w 0 5 = 0 := hp.2.2.2.2.2.2.2.1
  have g0 : wordBits w 10 5 = 0 := hp.2.2.2.2.1
  have g1 : wordBits w 22 3 = 0 := hp.2.1
  simp only [decodeMajor3F, f, g0, g1, and_self, ↓reduceIte]
  rw [show wordFin 4 w 20 = k from Fin.ext hp.2.2.1,
    show wordFin 32 w 15 = a from Fin.ext hp.2.2.2.1,
    show wordFin 16 w 6 = mk from Fin.ext hp.2.2.2.2.2.1,
    show (wordBits w 5 1 == 1) = me from bool_bits _ hp.2.2.2.2.2.2.1]

theorem Roundtrip.vfoldFin (d : VReg) (k : KReg) : Roundtrip.Statement (.vfoldFin d k) := by
  refine Roundtrip.of_raw _ ?_
  have hp := pack_fields (l := [(0x3F, 7), (d.val, 5), (0, 3), (k.val, 2), (0, 10), (1, 5)]) ⟨by decide, d.isLt, by decide, k.isLt, by decide, by decide, trivial⟩
  change decodeRaw (packWord [(0x3F, 7), (d.val, 5), (0, 3), (k.val, 2), (0, 10), (1, 5)]) = _
  generalize packWord [(0x3F, 7), (d.val, 5), (0, 3), (k.val, 2), (0, 10), (1, 5)] = w at *
  rw [decodeRaw_3F hp.1]
  have f : wordBits w 0 5 = 1 := hp.2.2.2.2.2.1
  have g0 : wordBits w 5 10 = 0 := hp.2.2.2.2.1
  have g1 : wordBits w 17 3 = 0 := hp.2.2.1
  simp only [decodeMajor3F, f, g0, g1, and_self, ↓reduceIte]
  rw [show wordFin 32 w 20 = d from Fin.ext hp.2.1,
    show wordFin 4 w 15 = k from Fin.ext hp.2.2.2.1]

theorem Roundtrip.vfoldClr (k : KReg) : Roundtrip.Statement (.vfoldClr k) := by
  refine Roundtrip.of_raw _ ?_
  have hp := pack_fields (l := [(0x3F, 7), (0, 3), (k.val, 2), (0, 15), (2, 5)]) ⟨by decide, by decide, k.isLt, by decide, by decide, trivial⟩
  change decodeRaw (packWord [(0x3F, 7), (0, 3), (k.val, 2), (0, 15), (2, 5)]) = _
  generalize packWord [(0x3F, 7), (0, 3), (k.val, 2), (0, 15), (2, 5)] = w at *
  rw [decodeRaw_3F hp.1]
  have f : wordBits w 0 5 = 2 := hp.2.2.2.2.1
  have g0 : wordBits w 5 15 = 0 := hp.2.2.2.1
  have g1 : wordBits w 22 3 = 0 := hp.2.1
  simp only [decodeMajor3F, f, g0, g1, and_self, ↓reduceIte]
  rw [show wordFin 4 w 20 = k from Fin.ext hp.2.2.1]

theorem Roundtrip.vfoldFinQ (q : Fin 2) (k : KReg) : Roundtrip.Statement (.vfoldFinQ q k) := by
  refine Roundtrip.of_raw _ ?_
  have hp := pack_fields (l := [(0x3F, 7), (3, 4), (q.val, 1), (0, 3), (k.val, 2), (0, 10), (3, 5)]) ⟨by decide, by decide, q.isLt, by decide, k.isLt, by decide, by decide, trivial⟩
  change decodeRaw (packWord [(0x3F, 7), (3, 4), (q.val, 1), (0, 3), (k.val, 2), (0, 10), (3, 5)]) = _
  generalize packWord [(0x3F, 7), (3, 4), (q.val, 1), (0, 3), (k.val, 2), (0, 10), (3, 5)] = w at *
  rw [decodeRaw_3F hp.1]
  have f : wordBits w 0 5 = 3 := hp.2.2.2.2.2.2.1
  have g0 : wordBits w 5 10 = 0 := hp.2.2.2.2.2.1
  have g1 : wordBits w 17 3 = 0 := hp.2.2.2.1
  have g2 : wordBits w 21 4 = 3 := hp.2.1
  simp only [decodeMajor3F, f, g0, g1, g2, and_self, ↓reduceIte]
  rw [show wordFin 2 w 20 = q from Fin.ext hp.2.2.1,
    show wordFin 4 w 15 = k from Fin.ext hp.2.2.2.2.1]

theorem Roundtrip.vconflict (d : VReg) (a : VReg) (mk : MReg) (me : Bool) : Roundtrip.Statement (.vconflict d a mk me) := by
  refine Roundtrip.of_raw _ ?_
  have hp := pack_fields (l := [(0x3F, 7), (d.val, 5), (a.val, 5), (0, 5), (mk.val, 4), (me.toNat, 1), (4, 5)]) ⟨by decide, d.isLt, a.isLt, by decide, mk.isLt, Bool.toNat_lt me, by decide, trivial⟩
  change decodeRaw (packWord [(0x3F, 7), (d.val, 5), (a.val, 5), (0, 5), (mk.val, 4), (me.toNat, 1), (4, 5)]) = _
  generalize packWord [(0x3F, 7), (d.val, 5), (a.val, 5), (0, 5), (mk.val, 4), (me.toNat, 1), (4, 5)] = w at *
  rw [decodeRaw_3F hp.1]
  have f : wordBits w 0 5 = 4 := hp.2.2.2.2.2.2.1
  have g0 : wordBits w 10 5 = 0 := hp.2.2.2.1
  simp only [decodeMajor3F, f, g0, ↓reduceIte]
  rw [show wordFin 32 w 20 = d from Fin.ext hp.2.1,
    show wordFin 32 w 15 = a from Fin.ext hp.2.2.1,
    show wordFin 16 w 6 = mk from Fin.ext hp.2.2.2.2.1,
    show (wordBits w 5 1 == 1) = me from bool_bits _ hp.2.2.2.2.2.1]

theorem Roundtrip.fld (d : FReg) (s : GReg) : Roundtrip.Statement (.fld d s) := by
  refine Roundtrip.of_raw _ ?_
  have hp := pack_fields (l := [(0x40, 7), (d.val, 3), (0, 11), (s.val, 5), (0, 6)]) ⟨by decide, d.isLt, by decide, s.isLt, by decide, trivial⟩
  change decodeRaw (packWord [(0x40, 7), (d.val, 3), (0, 11), (s.val, 5), (0, 6)]) = _
  generalize packWord [(0x40, 7), (d.val, 3), (0, 11), (s.val, 5), (0, 6)] = w at *
  rw [decodeRaw_40 hp.1]
  have f : wordBits w 0 6 = 0 := hp.2.2.2.2.1
  have g0 : wordBits w 11 11 = 0 := hp.2.2.1
  simp only [decodeMajor40, f, g0, ↓reduceIte]
  rw [show wordFin 8 w 22 = d from Fin.ext hp.2.1,
    show wordFin 32 w 6 = s from Fin.ext hp.2.2.2.1]

theorem Roundtrip.fst (a : FReg) (s : GReg) : Roundtrip.Statement (.fst a s) := by
  refine Roundtrip.of_raw _ ?_
  have hp := pack_fields (l := [(0x40, 7), (0, 3), (a.val, 3), (0, 8), (s.val, 5), (1, 6)]) ⟨by decide, by decide, a.isLt, by decide, s.isLt, by decide, trivial⟩
  change decodeRaw (packWord [(0x40, 7), (0, 3), (a.val, 3), (0, 8), (s.val, 5), (1, 6)]) = _
  generalize packWord [(0x40, 7), (0, 3), (a.val, 3), (0, 8), (s.val, 5), (1, 6)] = w at *
  rw [decodeRaw_40 hp.1]
  have f : wordBits w 0 6 = 1 := hp.2.2.2.2.2.1
  have g0 : wordBits w 11 8 = 0 := hp.2.2.2.1
  have g1 : wordBits w 22 3 = 0 := hp.2.1
  simp only [decodeMajor40, f, g0, g1, and_self, ↓reduceIte]
  rw [show wordFin 8 w 19 = a from Fin.ext hp.2.2.1,
    show wordFin 32 w 6 = s from Fin.ext hp.2.2.2.2.1]

theorem Roundtrip.fldlv (d : FReg) (s : GReg) : Roundtrip.Statement (.fldlv d s) := by
  refine Roundtrip.of_raw _ ?_
  have hp := pack_fields (l := [(0x40, 7), (d.val, 3), (0, 11), (s.val, 5), (2, 6)]) ⟨by decide, d.isLt, by decide, s.isLt, by decide, trivial⟩
  change decodeRaw (packWord [(0x40, 7), (d.val, 3), (0, 11), (s.val, 5), (2, 6)]) = _
  generalize packWord [(0x40, 7), (d.val, 3), (0, 11), (s.val, 5), (2, 6)] = w at *
  rw [decodeRaw_40 hp.1]
  have f : wordBits w 0 6 = 2 := hp.2.2.2.2.1
  have g0 : wordBits w 11 11 = 0 := hp.2.2.1
  simp only [decodeMajor40, f, g0, ↓reduceIte]
  rw [show wordFin 8 w 22 = d from Fin.ext hp.2.1,
    show wordFin 32 w 6 = s from Fin.ext hp.2.2.2.1]

theorem Roundtrip.fscat (a : FReg) (g : GReg) : Roundtrip.Statement (.fscat a g) := by
  refine Roundtrip.of_raw _ ?_
  have hp := pack_fields (l := [(0x40, 7), (0, 3), (a.val, 3), (0, 8), (g.val, 5), (3, 6)]) ⟨by decide, by decide, a.isLt, by decide, g.isLt, by decide, trivial⟩
  change decodeRaw (packWord [(0x40, 7), (0, 3), (a.val, 3), (0, 8), (g.val, 5), (3, 6)]) = _
  generalize packWord [(0x40, 7), (0, 3), (a.val, 3), (0, 8), (g.val, 5), (3, 6)] = w at *
  rw [decodeRaw_40 hp.1]
  have f : wordBits w 0 6 = 3 := hp.2.2.2.2.2.1
  have g0 : wordBits w 11 8 = 0 := hp.2.2.2.1
  have g1 : wordBits w 22 3 = 0 := hp.2.1
  simp only [decodeMajor40, f, g0, g1, and_self, ↓reduceIte]
  rw [show wordFin 8 w 19 = a from Fin.ext hp.2.2.1,
    show wordFin 32 w 6 = g from Fin.ext hp.2.2.2.2.1]

theorem Roundtrip.fintA (d : FReg) (a : FReg) (b : FReg) : Roundtrip.Statement (.fintA d a b) := by
  refine Roundtrip.of_raw _ ?_
  have hp := pack_fields (l := [(0x41, 7), (d.val, 3), (a.val, 3), (b.val, 3), (0, 16)]) ⟨by decide, d.isLt, a.isLt, b.isLt, by decide, trivial⟩
  change decodeRaw (packWord [(0x41, 7), (d.val, 3), (a.val, 3), (b.val, 3), (0, 16)]) = _
  generalize packWord [(0x41, 7), (d.val, 3), (a.val, 3), (b.val, 3), (0, 16)] = w at *
  rw [decodeRaw_41 hp.1]
  unfold decodeMajor41
  rw [show wordBits w 0 16 = 0 from hp.2.2.2.2.1,
    show wordFin 8 w 22 = d from Fin.ext hp.2.1,
    show wordFin 8 w 19 = a from Fin.ext hp.2.2.1,
    show wordFin 8 w 16 = b from Fin.ext hp.2.2.2.1]
  try rfl

theorem Roundtrip.fintB (d : FReg) (a : FReg) (b : FReg) : Roundtrip.Statement (.fintB d a b) := by
  refine Roundtrip.of_raw _ ?_
  have hp := pack_fields (l := [(0x41, 7), (d.val, 3), (a.val, 3), (b.val, 3), (1, 16)]) ⟨by decide, d.isLt, a.isLt, b.isLt, by decide, trivial⟩
  change decodeRaw (packWord [(0x41, 7), (d.val, 3), (a.val, 3), (b.val, 3), (1, 16)]) = _
  generalize packWord [(0x41, 7), (d.val, 3), (a.val, 3), (b.val, 3), (1, 16)] = w at *
  rw [decodeRaw_41 hp.1]
  unfold decodeMajor41
  rw [show wordBits w 0 16 = 1 from hp.2.2.2.2.1,
    show wordFin 8 w 22 = d from Fin.ext hp.2.1,
    show wordFin 8 w 19 = a from Fin.ext hp.2.2.1,
    show wordFin 8 w 16 = b from Fin.ext hp.2.2.2.1]
  try rfl

theorem Roundtrip.fintAdd (d : FReg) (a : FReg) (b : FReg) : Roundtrip.Statement (.fintAdd d a b) := by
  refine Roundtrip.of_raw _ ?_
  have hp := pack_fields (l := [(0x41, 7), (d.val, 3), (a.val, 3), (b.val, 3), (2, 16)]) ⟨by decide, d.isLt, a.isLt, b.isLt, by decide, trivial⟩
  change decodeRaw (packWord [(0x41, 7), (d.val, 3), (a.val, 3), (b.val, 3), (2, 16)]) = _
  generalize packWord [(0x41, 7), (d.val, 3), (a.val, 3), (b.val, 3), (2, 16)] = w at *
  rw [decodeRaw_41 hp.1]
  unfold decodeMajor41
  rw [show wordBits w 0 16 = 2 from hp.2.2.2.2.1,
    show wordFin 8 w 22 = d from Fin.ext hp.2.1,
    show wordFin 8 w 19 = a from Fin.ext hp.2.2.1,
    show wordFin 8 w 16 = b from Fin.ext hp.2.2.2.1]
  try rfl

theorem Roundtrip.fintMul (d : FReg) (a : FReg) (b : FReg) : Roundtrip.Statement (.fintMul d a b) := by
  refine Roundtrip.of_raw _ ?_
  have hp := pack_fields (l := [(0x41, 7), (d.val, 3), (a.val, 3), (b.val, 3), (3, 16)]) ⟨by decide, d.isLt, a.isLt, b.isLt, by decide, trivial⟩
  change decodeRaw (packWord [(0x41, 7), (d.val, 3), (a.val, 3), (b.val, 3), (3, 16)]) = _
  generalize packWord [(0x41, 7), (d.val, 3), (a.val, 3), (b.val, 3), (3, 16)] = w at *
  rw [decodeRaw_41 hp.1]
  unfold decodeMajor41
  rw [show wordBits w 0 16 = 3 from hp.2.2.2.2.1,
    show wordFin 8 w 22 = d from Fin.ext hp.2.1,
    show wordFin 8 w 19 = a from Fin.ext hp.2.2.1,
    show wordFin 8 w 16 = b from Fin.ext hp.2.2.2.1]
  try rfl

theorem Roundtrip.fintMin (d : FReg) (a : FReg) (b : FReg) : Roundtrip.Statement (.fintMin d a b) := by
  refine Roundtrip.of_raw _ ?_
  have hp := pack_fields (l := [(0x41, 7), (d.val, 3), (a.val, 3), (b.val, 3), (4, 16)]) ⟨by decide, d.isLt, a.isLt, b.isLt, by decide, trivial⟩
  change decodeRaw (packWord [(0x41, 7), (d.val, 3), (a.val, 3), (b.val, 3), (4, 16)]) = _
  generalize packWord [(0x41, 7), (d.val, 3), (a.val, 3), (b.val, 3), (4, 16)] = w at *
  rw [decodeRaw_41 hp.1]
  unfold decodeMajor41
  rw [show wordBits w 0 16 = 4 from hp.2.2.2.2.1,
    show wordFin 8 w 22 = d from Fin.ext hp.2.1,
    show wordFin 8 w 19 = a from Fin.ext hp.2.2.1,
    show wordFin 8 w 16 = b from Fin.ext hp.2.2.2.1]
  try rfl

theorem Roundtrip.fintMax (d : FReg) (a : FReg) (b : FReg) : Roundtrip.Statement (.fintMax d a b) := by
  refine Roundtrip.of_raw _ ?_
  have hp := pack_fields (l := [(0x41, 7), (d.val, 3), (a.val, 3), (b.val, 3), (5, 16)]) ⟨by decide, d.isLt, a.isLt, b.isLt, by decide, trivial⟩
  change decodeRaw (packWord [(0x41, 7), (d.val, 3), (a.val, 3), (b.val, 3), (5, 16)]) = _
  generalize packWord [(0x41, 7), (d.val, 3), (a.val, 3), (b.val, 3), (5, 16)] = w at *
  rw [decodeRaw_41 hp.1]
  unfold decodeMajor41
  rw [show wordBits w 0 16 = 5 from hp.2.2.2.2.1,
    show wordFin 8 w 22 = d from Fin.ext hp.2.1,
    show wordFin 8 w 19 = a from Fin.ext hp.2.2.1,
    show wordFin 8 w 16 = b from Fin.ext hp.2.2.2.1]
  try rfl

theorem Roundtrip.funiA (d : FReg) (a : FReg) (b : FReg) : Roundtrip.Statement (.funiA d a b) := by
  refine Roundtrip.of_raw _ ?_
  have hp := pack_fields (l := [(0x41, 7), (d.val, 3), (a.val, 3), (b.val, 3), (8, 16)]) ⟨by decide, d.isLt, a.isLt, b.isLt, by decide, trivial⟩
  change decodeRaw (packWord [(0x41, 7), (d.val, 3), (a.val, 3), (b.val, 3), (8, 16)]) = _
  generalize packWord [(0x41, 7), (d.val, 3), (a.val, 3), (b.val, 3), (8, 16)] = w at *
  rw [decodeRaw_41 hp.1]
  unfold decodeMajor41
  rw [show wordBits w 0 16 = 8 from hp.2.2.2.2.1,
    show wordFin 8 w 22 = d from Fin.ext hp.2.1,
    show wordFin 8 w 19 = a from Fin.ext hp.2.2.1,
    show wordFin 8 w 16 = b from Fin.ext hp.2.2.2.1]
  try rfl

theorem Roundtrip.funiB (d : FReg) (a : FReg) (b : FReg) : Roundtrip.Statement (.funiB d a b) := by
  refine Roundtrip.of_raw _ ?_
  have hp := pack_fields (l := [(0x41, 7), (d.val, 3), (a.val, 3), (b.val, 3), (9, 16)]) ⟨by decide, d.isLt, a.isLt, b.isLt, by decide, trivial⟩
  change decodeRaw (packWord [(0x41, 7), (d.val, 3), (a.val, 3), (b.val, 3), (9, 16)]) = _
  generalize packWord [(0x41, 7), (d.val, 3), (a.val, 3), (b.val, 3), (9, 16)] = w at *
  rw [decodeRaw_41 hp.1]
  unfold decodeMajor41
  rw [show wordBits w 0 16 = 9 from hp.2.2.2.2.1,
    show wordFin 8 w 22 = d from Fin.ext hp.2.1,
    show wordFin 8 w 19 = a from Fin.ext hp.2.2.1,
    show wordFin 8 w 16 = b from Fin.ext hp.2.2.2.1]
  try rfl

theorem Roundtrip.funiAdd (d : FReg) (a : FReg) (b : FReg) : Roundtrip.Statement (.funiAdd d a b) := by
  refine Roundtrip.of_raw _ ?_
  have hp := pack_fields (l := [(0x41, 7), (d.val, 3), (a.val, 3), (b.val, 3), (10, 16)]) ⟨by decide, d.isLt, a.isLt, b.isLt, by decide, trivial⟩
  change decodeRaw (packWord [(0x41, 7), (d.val, 3), (a.val, 3), (b.val, 3), (10, 16)]) = _
  generalize packWord [(0x41, 7), (d.val, 3), (a.val, 3), (b.val, 3), (10, 16)] = w at *
  rw [decodeRaw_41 hp.1]
  unfold decodeMajor41
  rw [show wordBits w 0 16 = 10 from hp.2.2.2.2.1,
    show wordFin 8 w 22 = d from Fin.ext hp.2.1,
    show wordFin 8 w 19 = a from Fin.ext hp.2.2.1,
    show wordFin 8 w 16 = b from Fin.ext hp.2.2.2.1]
  try rfl

theorem Roundtrip.funiMul (d : FReg) (a : FReg) (b : FReg) : Roundtrip.Statement (.funiMul d a b) := by
  refine Roundtrip.of_raw _ ?_
  have hp := pack_fields (l := [(0x41, 7), (d.val, 3), (a.val, 3), (b.val, 3), (11, 16)]) ⟨by decide, d.isLt, a.isLt, b.isLt, by decide, trivial⟩
  change decodeRaw (packWord [(0x41, 7), (d.val, 3), (a.val, 3), (b.val, 3), (11, 16)]) = _
  generalize packWord [(0x41, 7), (d.val, 3), (a.val, 3), (b.val, 3), (11, 16)] = w at *
  rw [decodeRaw_41 hp.1]
  unfold decodeMajor41
  rw [show wordBits w 0 16 = 11 from hp.2.2.2.2.1,
    show wordFin 8 w 22 = d from Fin.ext hp.2.1,
    show wordFin 8 w 19 = a from Fin.ext hp.2.2.1,
    show wordFin 8 w 16 = b from Fin.ext hp.2.2.2.1]
  try rfl

theorem Roundtrip.funiMin (d : FReg) (a : FReg) (b : FReg) : Roundtrip.Statement (.funiMin d a b) := by
  refine Roundtrip.of_raw _ ?_
  have hp := pack_fields (l := [(0x41, 7), (d.val, 3), (a.val, 3), (b.val, 3), (12, 16)]) ⟨by decide, d.isLt, a.isLt, b.isLt, by decide, trivial⟩
  change decodeRaw (packWord [(0x41, 7), (d.val, 3), (a.val, 3), (b.val, 3), (12, 16)]) = _
  generalize packWord [(0x41, 7), (d.val, 3), (a.val, 3), (b.val, 3), (12, 16)] = w at *
  rw [decodeRaw_41 hp.1]
  unfold decodeMajor41
  rw [show wordBits w 0 16 = 12 from hp.2.2.2.2.1,
    show wordFin 8 w 22 = d from Fin.ext hp.2.1,
    show wordFin 8 w 19 = a from Fin.ext hp.2.2.1,
    show wordFin 8 w 16 = b from Fin.ext hp.2.2.2.1]
  try rfl

theorem Roundtrip.funiMax (d : FReg) (a : FReg) (b : FReg) : Roundtrip.Statement (.funiMax d a b) := by
  refine Roundtrip.of_raw _ ?_
  have hp := pack_fields (l := [(0x41, 7), (d.val, 3), (a.val, 3), (b.val, 3), (13, 16)]) ⟨by decide, d.isLt, a.isLt, b.isLt, by decide, trivial⟩
  change decodeRaw (packWord [(0x41, 7), (d.val, 3), (a.val, 3), (b.val, 3), (13, 16)]) = _
  generalize packWord [(0x41, 7), (d.val, 3), (a.val, 3), (b.val, 3), (13, 16)] = w at *
  rw [decodeRaw_41 hp.1]
  unfold decodeMajor41
  rw [show wordBits w 0 16 = 13 from hp.2.2.2.2.1,
    show wordFin 8 w 22 = d from Fin.ext hp.2.1,
    show wordFin 8 w 19 = a from Fin.ext hp.2.2.1,
    show wordFin 8 w 16 = b from Fin.ext hp.2.2.2.1]
  try rfl

theorem Roundtrip.fmrg (d : FReg) (a : FReg) (b : FReg) : Roundtrip.Statement (.fmrg d a b) := by
  refine Roundtrip.of_raw _ ?_
  have hp := pack_fields (l := [(0x41, 7), (d.val, 3), (a.val, 3), (b.val, 3), (16, 16)]) ⟨by decide, d.isLt, a.isLt, b.isLt, by decide, trivial⟩
  change decodeRaw (packWord [(0x41, 7), (d.val, 3), (a.val, 3), (b.val, 3), (16, 16)]) = _
  generalize packWord [(0x41, 7), (d.val, 3), (a.val, 3), (b.val, 3), (16, 16)] = w at *
  rw [decodeRaw_41 hp.1]
  unfold decodeMajor41
  rw [show wordBits w 0 16 = 16 from hp.2.2.2.2.1,
    show wordFin 8 w 22 = d from Fin.ext hp.2.1,
    show wordFin 8 w 19 = a from Fin.ext hp.2.2.1,
    show wordFin 8 w 16 = b from Fin.ext hp.2.2.2.1]
  try rfl

theorem Roundtrip.fsort (d : FReg) (a : FReg) : Roundtrip.Statement (.fsort d a) := by
  refine Roundtrip.of_raw _ ?_
  have hp := pack_fields (l := [(0x41, 7), (d.val, 3), (a.val, 3), (0, 3), (17, 16)]) ⟨by decide, d.isLt, a.isLt, by decide, by decide, trivial⟩
  change decodeRaw (packWord [(0x41, 7), (d.val, 3), (a.val, 3), (0, 3), (17, 16)]) = _
  generalize packWord [(0x41, 7), (d.val, 3), (a.val, 3), (0, 3), (17, 16)] = w at *
  rw [decodeRaw_41 hp.1]
  have f : wordBits w 0 16 = 17 := hp.2.2.2.2.1
  have g0 : wordBits w 16 3 = 0 := hp.2.2.2.1
  simp only [decodeMajor41, f, g0, ↓reduceIte]
  rw [show wordFin 8 w 22 = d from Fin.ext hp.2.1,
    show wordFin 8 w 19 = a from Fin.ext hp.2.2.1]

theorem Roundtrip.fsortA (d : FReg) (a : FReg) : Roundtrip.Statement (.fsortA d a) := by
  refine Roundtrip.of_raw _ ?_
  have hp := pack_fields (l := [(0x41, 7), (d.val, 3), (a.val, 3), (0, 3), (24, 16)]) ⟨by decide, d.isLt, a.isLt, by decide, by decide, trivial⟩
  change decodeRaw (packWord [(0x41, 7), (d.val, 3), (a.val, 3), (0, 3), (24, 16)]) = _
  generalize packWord [(0x41, 7), (d.val, 3), (a.val, 3), (0, 3), (24, 16)] = w at *
  rw [decodeRaw_41 hp.1]
  have f : wordBits w 0 16 = 24 := hp.2.2.2.2.1
  have g0 : wordBits w 16 3 = 0 := hp.2.2.2.1
  simp only [decodeMajor41, f, g0, ↓reduceIte]
  rw [show wordFin 8 w 22 = d from Fin.ext hp.2.1,
    show wordFin 8 w 19 = a from Fin.ext hp.2.2.1]

theorem Roundtrip.fsortB (d : FReg) (a : FReg) : Roundtrip.Statement (.fsortB d a) := by
  refine Roundtrip.of_raw _ ?_
  have hp := pack_fields (l := [(0x41, 7), (d.val, 3), (a.val, 3), (0, 3), (25, 16)]) ⟨by decide, d.isLt, a.isLt, by decide, by decide, trivial⟩
  change decodeRaw (packWord [(0x41, 7), (d.val, 3), (a.val, 3), (0, 3), (25, 16)]) = _
  generalize packWord [(0x41, 7), (d.val, 3), (a.val, 3), (0, 3), (25, 16)] = w at *
  rw [decodeRaw_41 hp.1]
  have f : wordBits w 0 16 = 25 := hp.2.2.2.2.1
  have g0 : wordBits w 16 3 = 0 := hp.2.2.2.1
  simp only [decodeMajor41, f, g0, ↓reduceIte]
  rw [show wordFin 8 w 22 = d from Fin.ext hp.2.1,
    show wordFin 8 w 19 = a from Fin.ext hp.2.2.1]

theorem Roundtrip.fsortAdd (d : FReg) (a : FReg) : Roundtrip.Statement (.fsortAdd d a) := by
  refine Roundtrip.of_raw _ ?_
  have hp := pack_fields (l := [(0x41, 7), (d.val, 3), (a.val, 3), (0, 3), (26, 16)]) ⟨by decide, d.isLt, a.isLt, by decide, by decide, trivial⟩
  change decodeRaw (packWord [(0x41, 7), (d.val, 3), (a.val, 3), (0, 3), (26, 16)]) = _
  generalize packWord [(0x41, 7), (d.val, 3), (a.val, 3), (0, 3), (26, 16)] = w at *
  rw [decodeRaw_41 hp.1]
  have f : wordBits w 0 16 = 26 := hp.2.2.2.2.1
  have g0 : wordBits w 16 3 = 0 := hp.2.2.2.1
  simp only [decodeMajor41, f, g0, ↓reduceIte]
  rw [show wordFin 8 w 22 = d from Fin.ext hp.2.1,
    show wordFin 8 w 19 = a from Fin.ext hp.2.2.1]

theorem Roundtrip.fsortMul (d : FReg) (a : FReg) : Roundtrip.Statement (.fsortMul d a) := by
  refine Roundtrip.of_raw _ ?_
  have hp := pack_fields (l := [(0x41, 7), (d.val, 3), (a.val, 3), (0, 3), (27, 16)]) ⟨by decide, d.isLt, a.isLt, by decide, by decide, trivial⟩
  change decodeRaw (packWord [(0x41, 7), (d.val, 3), (a.val, 3), (0, 3), (27, 16)]) = _
  generalize packWord [(0x41, 7), (d.val, 3), (a.val, 3), (0, 3), (27, 16)] = w at *
  rw [decodeRaw_41 hp.1]
  have f : wordBits w 0 16 = 27 := hp.2.2.2.2.1
  have g0 : wordBits w 16 3 = 0 := hp.2.2.2.1
  simp only [decodeMajor41, f, g0, ↓reduceIte]
  rw [show wordFin 8 w 22 = d from Fin.ext hp.2.1,
    show wordFin 8 w 19 = a from Fin.ext hp.2.2.1]

theorem Roundtrip.fsortMin (d : FReg) (a : FReg) : Roundtrip.Statement (.fsortMin d a) := by
  refine Roundtrip.of_raw _ ?_
  have hp := pack_fields (l := [(0x41, 7), (d.val, 3), (a.val, 3), (0, 3), (28, 16)]) ⟨by decide, d.isLt, a.isLt, by decide, by decide, trivial⟩
  change decodeRaw (packWord [(0x41, 7), (d.val, 3), (a.val, 3), (0, 3), (28, 16)]) = _
  generalize packWord [(0x41, 7), (d.val, 3), (a.val, 3), (0, 3), (28, 16)] = w at *
  rw [decodeRaw_41 hp.1]
  have f : wordBits w 0 16 = 28 := hp.2.2.2.2.1
  have g0 : wordBits w 16 3 = 0 := hp.2.2.2.1
  simp only [decodeMajor41, f, g0, ↓reduceIte]
  rw [show wordFin 8 w 22 = d from Fin.ext hp.2.1,
    show wordFin 8 w 19 = a from Fin.ext hp.2.2.1]

theorem Roundtrip.fsortMax (d : FReg) (a : FReg) : Roundtrip.Statement (.fsortMax d a) := by
  refine Roundtrip.of_raw _ ?_
  have hp := pack_fields (l := [(0x41, 7), (d.val, 3), (a.val, 3), (0, 3), (29, 16)]) ⟨by decide, d.isLt, a.isLt, by decide, by decide, trivial⟩
  change decodeRaw (packWord [(0x41, 7), (d.val, 3), (a.val, 3), (0, 3), (29, 16)]) = _
  generalize packWord [(0x41, 7), (d.val, 3), (a.val, 3), (0, 3), (29, 16)] = w at *
  rw [decodeRaw_41 hp.1]
  have f : wordBits w 0 16 = 29 := hp.2.2.2.2.1
  have g0 : wordBits w 16 3 = 0 := hp.2.2.2.1
  simp only [decodeMajor41, f, g0, ↓reduceIte]
  rw [show wordFin 8 w 22 = d from Fin.ext hp.2.1,
    show wordFin 8 w 19 = a from Fin.ext hp.2.2.1]

theorem Roundtrip.fcpt (d : FReg) (a : FReg) (m : MReg) : Roundtrip.Statement (.fcpt d a m) := by
  refine Roundtrip.of_raw _ ?_
  have hp := pack_fields (l := [(0x42, 7), (d.val, 3), (a.val, 3), (0, 4), (m.val, 4), (0, 5), (0, 6)]) ⟨by decide, d.isLt, a.isLt, by decide, m.isLt, by decide, by decide, trivial⟩
  change decodeRaw (packWord [(0x42, 7), (d.val, 3), (a.val, 3), (0, 4), (m.val, 4), (0, 5), (0, 6)]) = _
  generalize packWord [(0x42, 7), (d.val, 3), (a.val, 3), (0, 4), (m.val, 4), (0, 5), (0, 6)] = w at *
  rw [decodeRaw_42 hp.1]
  have f : wordBits w 0 6 = 0 := hp.2.2.2.2.2.2.1
  have g0 : wordBits w 6 5 = 0 := hp.2.2.2.2.2.1
  have g1 : wordBits w 15 4 = 0 := hp.2.2.2.1
  simp only [decodeMajor42, f, g0, g1, and_self, ↓reduceIte]
  rw [show wordFin 8 w 22 = d from Fin.ext hp.2.1,
    show wordFin 8 w 19 = a from Fin.ext hp.2.2.1,
    show wordFin 16 w 11 = m from Fin.ext hp.2.2.2.2.1]

theorem Roundtrip.fcptZ (d : FReg) (a : FReg) : Roundtrip.Statement (.fcptZ d a) := by
  refine Roundtrip.of_raw _ ?_
  have hp := pack_fields (l := [(0x42, 7), (d.val, 3), (a.val, 3), (0, 13), (1, 6)]) ⟨by decide, d.isLt, a.isLt, by decide, by decide, trivial⟩
  change decodeRaw (packWord [(0x42, 7), (d.val, 3), (a.val, 3), (0, 13), (1, 6)]) = _
  generalize packWord [(0x42, 7), (d.val, 3), (a.val, 3), (0, 13), (1, 6)] = w at *
  rw [decodeRaw_42 hp.1]
  have f : wordBits w 0 6 = 1 := hp.2.2.2.2.1
  have g0 : wordBits w 6 13 = 0 := hp.2.2.2.1
  simp only [decodeMajor42, f, g0, ↓reduceIte]
  rw [show wordFin 8 w 22 = d from Fin.ext hp.2.1,
    show wordFin 8 w 19 = a from Fin.ext hp.2.2.1]

theorem Roundtrip.fexp (a : FReg) (v : VReg) (s : GReg) : Roundtrip.Statement (.fexp a v s) := by
  refine Roundtrip.of_raw _ ?_
  have hp := pack_fields (l := [(0x42, 7), (0, 3), (a.val, 3), (0, 3), (v.val, 5), (s.val, 5), (2, 6)]) ⟨by decide, by decide, a.isLt, by decide, v.isLt, s.isLt, by decide, trivial⟩
  change decodeRaw (packWord [(0x42, 7), (0, 3), (a.val, 3), (0, 3), (v.val, 5), (s.val, 5), (2, 6)]) = _
  generalize packWord [(0x42, 7), (0, 3), (a.val, 3), (0, 3), (v.val, 5), (s.val, 5), (2, 6)] = w at *
  rw [decodeRaw_42 hp.1]
  have f : wordBits w 0 6 = 2 := hp.2.2.2.2.2.2.1
  have g0 : wordBits w 16 3 = 0 := hp.2.2.2.1
  have g1 : wordBits w 22 3 = 0 := hp.2.1
  simp only [decodeMajor42, f, g0, g1, and_self, ↓reduceIte]
  rw [show wordFin 8 w 19 = a from Fin.ext hp.2.2.1,
    show wordFin 32 w 11 = v from Fin.ext hp.2.2.2.2.1,
    show wordFin 32 w 6 = s from Fin.ext hp.2.2.2.2.2.1]

theorem Roundtrip.ffromv (d : FReg) (v : VReg) (g : GReg) : Roundtrip.Statement (.ffromv d v g) := by
  refine Roundtrip.of_raw _ ?_
  have hp := pack_fields (l := [(0x42, 7), (d.val, 3), (0, 6), (v.val, 5), (g.val, 5), (3, 6)]) ⟨by decide, d.isLt, by decide, v.isLt, g.isLt, by decide, trivial⟩
  change decodeRaw (packWord [(0x42, 7), (d.val, 3), (0, 6), (v.val, 5), (g.val, 5), (3, 6)]) = _
  generalize packWord [(0x42, 7), (d.val, 3), (0, 6), (v.val, 5), (g.val, 5), (3, 6)] = w at *
  rw [decodeRaw_42 hp.1]
  have f : wordBits w 0 6 = 3 := hp.2.2.2.2.2.1
  have g0 : wordBits w 16 6 = 0 := hp.2.2.1
  simp only [decodeMajor42, f, g0, ↓reduceIte]
  rw [show wordFin 8 w 22 = d from Fin.ext hp.2.1,
    show wordFin 32 w 11 = v from Fin.ext hp.2.2.2.1,
    show wordFin 32 w 6 = g from Fin.ext hp.2.2.2.2.1]

theorem Roundtrip.fcrd (a : FReg) (v : VReg) : Roundtrip.Statement (.fcrd a v) := by
  refine Roundtrip.of_raw _ ?_
  have hp := pack_fields (l := [(0x42, 7), (0, 3), (a.val, 3), (0, 3), (v.val, 5), (0, 5), (4, 6)]) ⟨by decide, by decide, a.isLt, by decide, v.isLt, by decide, by decide, trivial⟩
  change decodeRaw (packWord [(0x42, 7), (0, 3), (a.val, 3), (0, 3), (v.val, 5), (0, 5), (4, 6)]) = _
  generalize packWord [(0x42, 7), (0, 3), (a.val, 3), (0, 3), (v.val, 5), (0, 5), (4, 6)] = w at *
  rw [decodeRaw_42 hp.1]
  have f : wordBits w 0 6 = 4 := hp.2.2.2.2.2.2.1
  have g0 : wordBits w 6 5 = 0 := hp.2.2.2.2.2.1
  have g1 : wordBits w 16 3 = 0 := hp.2.2.2.1
  have g2 : wordBits w 22 3 = 0 := hp.2.1
  simp only [decodeMajor42, f, g0, g1, g2, and_self, ↓reduceIte]
  rw [show wordFin 8 w 19 = a from Fin.ext hp.2.2.1,
    show wordFin 32 w 11 = v from Fin.ext hp.2.2.2.2.1]

theorem Roundtrip.fval (a : FReg) (v : VReg) : Roundtrip.Statement (.fval a v) := by
  refine Roundtrip.of_raw _ ?_
  have hp := pack_fields (l := [(0x42, 7), (0, 3), (a.val, 3), (0, 3), (v.val, 5), (0, 5), (5, 6)]) ⟨by decide, by decide, a.isLt, by decide, v.isLt, by decide, by decide, trivial⟩
  change decodeRaw (packWord [(0x42, 7), (0, 3), (a.val, 3), (0, 3), (v.val, 5), (0, 5), (5, 6)]) = _
  generalize packWord [(0x42, 7), (0, 3), (a.val, 3), (0, 3), (v.val, 5), (0, 5), (5, 6)] = w at *
  rw [decodeRaw_42 hp.1]
  have f : wordBits w 0 6 = 5 := hp.2.2.2.2.2.2.1
  have g0 : wordBits w 6 5 = 0 := hp.2.2.2.2.2.1
  have g1 : wordBits w 16 3 = 0 := hp.2.2.2.1
  have g2 : wordBits w 22 3 = 0 := hp.2.1
  simp only [decodeMajor42, f, g0, g1, g2, and_self, ↓reduceIte]
  rw [show wordFin 8 w 19 = a from Fin.ext hp.2.2.1,
    show wordFin 32 w 11 = v from Fin.ext hp.2.2.2.2.1]

theorem Roundtrip.fcnt (q : Fin 2) (a : FReg) : Roundtrip.Statement (.fcnt q a) := by
  refine Roundtrip.of_raw _ ?_
  have hp := pack_fields (l := [(0x42, 7), (3, 2), (q.val, 1), (a.val, 3), (0, 13), (6, 6)]) ⟨by decide, by decide, q.isLt, a.isLt, by decide, by decide, trivial⟩
  change decodeRaw (packWord [(0x42, 7), (3, 2), (q.val, 1), (a.val, 3), (0, 13), (6, 6)]) = _
  generalize packWord [(0x42, 7), (3, 2), (q.val, 1), (a.val, 3), (0, 13), (6, 6)] = w at *
  rw [decodeRaw_42 hp.1]
  have f : wordBits w 0 6 = 6 := hp.2.2.2.2.2.1
  have g0 : wordBits w 6 13 = 0 := hp.2.2.2.2.1
  have g1 : wordBits w 23 2 = 3 := hp.2.1
  simp only [decodeMajor42, f, g0, g1, and_self, ↓reduceIte]
  rw [show wordFin 2 w 22 = q from Fin.ext hp.2.2.1,
    show wordFin 8 w 19 = a from Fin.ext hp.2.2.2.1]

theorem Roundtrip.mmaT (d : DReg) (a : VReg) (g : GReg) : Roundtrip.Statement (.mmaT d a g) := by
  refine Roundtrip.of_raw _ ?_
  have hp := pack_fields (l := [(0x48, 7), (d.val, 3), (a.val, 5), (0, 5), (g.val, 5), (0, 7)]) ⟨by decide, d.isLt, a.isLt, by decide, g.isLt, by decide, trivial⟩
  change decodeRaw (packWord [(0x48, 7), (d.val, 3), (a.val, 5), (0, 5), (g.val, 5), (0, 7)]) = _
  generalize packWord [(0x48, 7), (d.val, 3), (a.val, 5), (0, 5), (g.val, 5), (0, 7)] = w at *
  rw [decodeRaw_48 hp.1]
  have f : wordBits w 0 7 = 0 := hp.2.2.2.2.2.1
  have g0 : wordBits w 12 5 = 0 := hp.2.2.2.1
  simp only [decodeMajor48, f, g0, ↓reduceIte]
  rw [show wordFin 8 w 22 = d from Fin.ext hp.2.1,
    show wordFin 32 w 17 = a from Fin.ext hp.2.2.1,
    show wordFin 32 w 7 = g from Fin.ext hp.2.2.2.2.1]

theorem Roundtrip.mmaM (d : DReg) (a : VReg) (g : GReg) : Roundtrip.Statement (.mmaM d a g) := by
  refine Roundtrip.of_raw _ ?_
  have hp := pack_fields (l := [(0x48, 7), (d.val, 3), (a.val, 5), (0, 5), (g.val, 5), (1, 7)]) ⟨by decide, d.isLt, a.isLt, by decide, g.isLt, by decide, trivial⟩
  change decodeRaw (packWord [(0x48, 7), (d.val, 3), (a.val, 5), (0, 5), (g.val, 5), (1, 7)]) = _
  generalize packWord [(0x48, 7), (d.val, 3), (a.val, 5), (0, 5), (g.val, 5), (1, 7)] = w at *
  rw [decodeRaw_48 hp.1]
  have f : wordBits w 0 7 = 1 := hp.2.2.2.2.2.1
  have g0 : wordBits w 12 5 = 0 := hp.2.2.2.1
  simp only [decodeMajor48, f, g0, ↓reduceIte]
  rw [show wordFin 8 w 22 = d from Fin.ext hp.2.1,
    show wordFin 32 w 17 = a from Fin.ext hp.2.2.1,
    show wordFin 32 w 7 = g from Fin.ext hp.2.2.2.2.1]

theorem Roundtrip.mmaxT (d : DReg) (a : VReg) (b : VReg) (g : GReg) : Roundtrip.Statement (.mmaxT d a b g) := by
  refine Roundtrip.of_raw _ ?_
  have hp := pack_fields (l := [(0x48, 7), (d.val, 3), (a.val, 5), (b.val, 5), (g.val, 5), (2, 7)]) ⟨by decide, d.isLt, a.isLt, b.isLt, g.isLt, by decide, trivial⟩
  change decodeRaw (packWord [(0x48, 7), (d.val, 3), (a.val, 5), (b.val, 5), (g.val, 5), (2, 7)]) = _
  generalize packWord [(0x48, 7), (d.val, 3), (a.val, 5), (b.val, 5), (g.val, 5), (2, 7)] = w at *
  rw [decodeRaw_48 hp.1]
  unfold decodeMajor48
  rw [show wordBits w 0 7 = 2 from hp.2.2.2.2.2.1,
    show wordFin 8 w 22 = d from Fin.ext hp.2.1,
    show wordFin 32 w 17 = a from Fin.ext hp.2.2.1,
    show wordFin 32 w 12 = b from Fin.ext hp.2.2.2.1,
    show wordFin 32 w 7 = g from Fin.ext hp.2.2.2.2.1]
  try rfl

theorem Roundtrip.mmaxM (d : DReg) (a : VReg) (b : VReg) (g : GReg) : Roundtrip.Statement (.mmaxM d a b g) := by
  refine Roundtrip.of_raw _ ?_
  have hp := pack_fields (l := [(0x48, 7), (d.val, 3), (a.val, 5), (b.val, 5), (g.val, 5), (3, 7)]) ⟨by decide, d.isLt, a.isLt, b.isLt, g.isLt, by decide, trivial⟩
  change decodeRaw (packWord [(0x48, 7), (d.val, 3), (a.val, 5), (b.val, 5), (g.val, 5), (3, 7)]) = _
  generalize packWord [(0x48, 7), (d.val, 3), (a.val, 5), (b.val, 5), (g.val, 5), (3, 7)] = w at *
  rw [decodeRaw_48 hp.1]
  unfold decodeMajor48
  rw [show wordBits w 0 7 = 3 from hp.2.2.2.2.2.1,
    show wordFin 8 w 22 = d from Fin.ext hp.2.1,
    show wordFin 32 w 17 = a from Fin.ext hp.2.2.1,
    show wordFin 32 w 12 = b from Fin.ext hp.2.2.2.1,
    show wordFin 32 w 7 = g from Fin.ext hp.2.2.2.2.1]
  try rfl

theorem Roundtrip.mmasT (d : DReg) (a : VReg) (b : VReg) (g : GReg) : Roundtrip.Statement (.mmasT d a b g) := by
  refine Roundtrip.of_raw _ ?_
  have hp := pack_fields (l := [(0x48, 7), (d.val, 3), (a.val, 5), (b.val, 5), (g.val, 5), (4, 7)]) ⟨by decide, d.isLt, a.isLt, b.isLt, g.isLt, by decide, trivial⟩
  change decodeRaw (packWord [(0x48, 7), (d.val, 3), (a.val, 5), (b.val, 5), (g.val, 5), (4, 7)]) = _
  generalize packWord [(0x48, 7), (d.val, 3), (a.val, 5), (b.val, 5), (g.val, 5), (4, 7)] = w at *
  rw [decodeRaw_48 hp.1]
  unfold decodeMajor48
  rw [show wordBits w 0 7 = 4 from hp.2.2.2.2.2.1,
    show wordFin 8 w 22 = d from Fin.ext hp.2.1,
    show wordFin 32 w 17 = a from Fin.ext hp.2.2.1,
    show wordFin 32 w 12 = b from Fin.ext hp.2.2.2.1,
    show wordFin 32 w 7 = g from Fin.ext hp.2.2.2.2.1]
  try rfl

theorem Roundtrip.mmasM (d : DReg) (a : VReg) (b : VReg) (g : GReg) : Roundtrip.Statement (.mmasM d a b g) := by
  refine Roundtrip.of_raw _ ?_
  have hp := pack_fields (l := [(0x48, 7), (d.val, 3), (a.val, 5), (b.val, 5), (g.val, 5), (5, 7)]) ⟨by decide, d.isLt, a.isLt, b.isLt, g.isLt, by decide, trivial⟩
  change decodeRaw (packWord [(0x48, 7), (d.val, 3), (a.val, 5), (b.val, 5), (g.val, 5), (5, 7)]) = _
  generalize packWord [(0x48, 7), (d.val, 3), (a.val, 5), (b.val, 5), (g.val, 5), (5, 7)] = w at *
  rw [decodeRaw_48 hp.1]
  unfold decodeMajor48
  rw [show wordBits w 0 7 = 5 from hp.2.2.2.2.2.1,
    show wordFin 8 w 22 = d from Fin.ext hp.2.1,
    show wordFin 32 w 17 = a from Fin.ext hp.2.2.1,
    show wordFin 32 w 12 = b from Fin.ext hp.2.2.2.1,
    show wordFin 32 w 7 = g from Fin.ext hp.2.2.2.2.1]
  try rfl

theorem Roundtrip.tshape (g : GReg) : Roundtrip.Statement (.tshape g) := by
  refine Roundtrip.of_raw _ ?_
  have hp := pack_fields (l := [(0x49, 7), (0, 13), (g.val, 5), (0, 7)]) ⟨by decide, by decide, g.isLt, by decide, trivial⟩
  change decodeRaw (packWord [(0x49, 7), (0, 13), (g.val, 5), (0, 7)]) = _
  generalize packWord [(0x49, 7), (0, 13), (g.val, 5), (0, 7)] = w at *
  rw [decodeRaw_49 hp.1]
  have f : wordBits w 0 7 = 0 := hp.2.2.2.1
  have g0 : wordBits w 12 13 = 0 := hp.2.1
  simp only [decodeMajor49, f, g0, ↓reduceIte]
  rw [show wordFin 32 w 7 = g from Fin.ext hp.2.2.1]

theorem Roundtrip.accz (d : DReg) (g : GReg) : Roundtrip.Statement (.accz d g) := by
  refine Roundtrip.of_raw _ ?_
  have hp := pack_fields (l := [(0x4A, 7), (d.val, 3), (0, 10), (g.val, 5), (0, 7)]) ⟨by decide, d.isLt, by decide, g.isLt, by decide, trivial⟩
  change decodeRaw (packWord [(0x4A, 7), (d.val, 3), (0, 10), (g.val, 5), (0, 7)]) = _
  generalize packWord [(0x4A, 7), (d.val, 3), (0, 10), (g.val, 5), (0, 7)] = w at *
  rw [decodeRaw_4A hp.1]
  have f : wordBits w 0 7 = 0 := hp.2.2.2.2.1
  have g0 : wordBits w 12 10 = 0 := hp.2.2.1
  simp only [decodeMajor4A, f, g0, ↓reduceIte]
  rw [show wordFin 8 w 22 = d from Fin.ext hp.2.1,
    show wordFin 32 w 7 = g from Fin.ext hp.2.2.2.1]

theorem Roundtrip.accld (d : DReg) (g : GReg) : Roundtrip.Statement (.accld d g) := by
  refine Roundtrip.of_raw _ ?_
  have hp := pack_fields (l := [(0x4A, 7), (d.val, 3), (0, 10), (g.val, 5), (1, 7)]) ⟨by decide, d.isLt, by decide, g.isLt, by decide, trivial⟩
  change decodeRaw (packWord [(0x4A, 7), (d.val, 3), (0, 10), (g.val, 5), (1, 7)]) = _
  generalize packWord [(0x4A, 7), (d.val, 3), (0, 10), (g.val, 5), (1, 7)] = w at *
  rw [decodeRaw_4A hp.1]
  have f : wordBits w 0 7 = 1 := hp.2.2.2.2.1
  have g0 : wordBits w 12 10 = 0 := hp.2.2.1
  simp only [decodeMajor4A, f, g0, ↓reduceIte]
  rw [show wordFin 8 w 22 = d from Fin.ext hp.2.1,
    show wordFin 32 w 7 = g from Fin.ext hp.2.2.2.1]

theorem Roundtrip.accst (d : DReg) (g : GReg) : Roundtrip.Statement (.accst d g) := by
  refine Roundtrip.of_raw _ ?_
  have hp := pack_fields (l := [(0x4A, 7), (d.val, 3), (0, 10), (g.val, 5), (2, 7)]) ⟨by decide, d.isLt, by decide, g.isLt, by decide, trivial⟩
  change decodeRaw (packWord [(0x4A, 7), (d.val, 3), (0, 10), (g.val, 5), (2, 7)]) = _
  generalize packWord [(0x4A, 7), (d.val, 3), (0, 10), (g.val, 5), (2, 7)] = w at *
  rw [decodeRaw_4A hp.1]
  have f : wordBits w 0 7 = 2 := hp.2.2.2.2.1
  have g0 : wordBits w 12 10 = 0 := hp.2.2.1
  simp only [decodeMajor4A, f, g0, ↓reduceIte]
  rw [show wordFin 8 w 22 = d from Fin.ext hp.2.1,
    show wordFin 32 w 7 = g from Fin.ext hp.2.2.2.1]

theorem Roundtrip.accrd (d : DReg) (a : VReg) (g : GReg) : Roundtrip.Statement (.accrd d a g) := by
  refine Roundtrip.of_raw _ ?_
  have hp := pack_fields (l := [(0x4A, 7), (d.val, 3), (a.val, 5), (0, 5), (g.val, 5), (3, 7)]) ⟨by decide, d.isLt, a.isLt, by decide, g.isLt, by decide, trivial⟩
  change decodeRaw (packWord [(0x4A, 7), (d.val, 3), (a.val, 5), (0, 5), (g.val, 5), (3, 7)]) = _
  generalize packWord [(0x4A, 7), (d.val, 3), (a.val, 5), (0, 5), (g.val, 5), (3, 7)] = w at *
  rw [decodeRaw_4A hp.1]
  have f : wordBits w 0 7 = 3 := hp.2.2.2.2.2.1
  have g0 : wordBits w 12 5 = 0 := hp.2.2.2.1
  simp only [decodeMajor4A, f, g0, ↓reduceIte]
  rw [show wordFin 8 w 22 = d from Fin.ext hp.2.1,
    show wordFin 32 w 17 = a from Fin.ext hp.2.2.1,
    show wordFin 32 w 7 = g from Fin.ext hp.2.2.2.2.1]

theorem Roundtrip.accwr (d : DReg) (a : VReg) (g : GReg) : Roundtrip.Statement (.accwr d a g) := by
  refine Roundtrip.of_raw _ ?_
  have hp := pack_fields (l := [(0x4A, 7), (d.val, 3), (a.val, 5), (0, 5), (g.val, 5), (4, 7)]) ⟨by decide, d.isLt, a.isLt, by decide, g.isLt, by decide, trivial⟩
  change decodeRaw (packWord [(0x4A, 7), (d.val, 3), (a.val, 5), (0, 5), (g.val, 5), (4, 7)]) = _
  generalize packWord [(0x4A, 7), (d.val, 3), (a.val, 5), (0, 5), (g.val, 5), (4, 7)] = w at *
  rw [decodeRaw_4A hp.1]
  have f : wordBits w 0 7 = 4 := hp.2.2.2.2.2.1
  have g0 : wordBits w 12 5 = 0 := hp.2.2.2.1
  simp only [decodeMajor4A, f, g0, ↓reduceIte]
  rw [show wordFin 8 w 22 = d from Fin.ext hp.2.1,
    show wordFin 32 w 17 = a from Fin.ext hp.2.2.1,
    show wordFin 32 w 7 = g from Fin.ext hp.2.2.2.2.1]

theorem Roundtrip.acccvt (d : DReg) (a : VReg) (g : GReg) : Roundtrip.Statement (.acccvt d a g) := by
  refine Roundtrip.of_raw _ ?_
  have hp := pack_fields (l := [(0x4A, 7), (d.val, 3), (a.val, 5), (0, 5), (g.val, 5), (5, 7)]) ⟨by decide, d.isLt, a.isLt, by decide, g.isLt, by decide, trivial⟩
  change decodeRaw (packWord [(0x4A, 7), (d.val, 3), (a.val, 5), (0, 5), (g.val, 5), (5, 7)]) = _
  generalize packWord [(0x4A, 7), (d.val, 3), (a.val, 5), (0, 5), (g.val, 5), (5, 7)] = w at *
  rw [decodeRaw_4A hp.1]
  have f : wordBits w 0 7 = 5 := hp.2.2.2.2.2.1
  have g0 : wordBits w 12 5 = 0 := hp.2.2.2.1
  simp only [decodeMajor4A, f, g0, ↓reduceIte]
  rw [show wordFin 8 w 22 = d from Fin.ext hp.2.1,
    show wordFin 32 w 17 = a from Fin.ext hp.2.2.1,
    show wordFin 32 w 7 = g from Fin.ext hp.2.2.2.2.1]

theorem Roundtrip.accred (d : DReg) (g : GReg) : Roundtrip.Statement (.accred d g) := by
  refine Roundtrip.of_raw _ ?_
  have hp := pack_fields (l := [(0x4A, 7), (d.val, 3), (0, 10), (g.val, 5), (6, 7)]) ⟨by decide, d.isLt, by decide, g.isLt, by decide, trivial⟩
  change decodeRaw (packWord [(0x4A, 7), (d.val, 3), (0, 10), (g.val, 5), (6, 7)]) = _
  generalize packWord [(0x4A, 7), (d.val, 3), (0, 10), (g.val, 5), (6, 7)] = w at *
  rw [decodeRaw_4A hp.1]
  have f : wordBits w 0 7 = 6 := hp.2.2.2.2.1
  have g0 : wordBits w 12 10 = 0 := hp.2.2.1
  simp only [decodeMajor4A, f, g0, ↓reduceIte]
  rw [show wordFin 8 w 22 = d from Fin.ext hp.2.1,
    show wordFin 32 w 7 = g from Fin.ext hp.2.2.2.1]

theorem Roundtrip.accrdD (d : DReg) (q : Fin 2) : Roundtrip.Statement (.accrdD d q) := by
  refine Roundtrip.of_raw _ ?_
  have hp := pack_fields (l := [(0x4A, 7), (d.val, 3), (3, 14), (q.val, 1), (8, 7)]) ⟨by decide, d.isLt, by decide, q.isLt, by decide, trivial⟩
  change decodeRaw (packWord [(0x4A, 7), (d.val, 3), (3, 14), (q.val, 1), (8, 7)]) = _
  generalize packWord [(0x4A, 7), (d.val, 3), (3, 14), (q.val, 1), (8, 7)] = w at *
  rw [decodeRaw_4A hp.1]
  have f : wordBits w 0 7 = 8 := hp.2.2.2.2.1
  have g0 : wordBits w 8 14 = 3 := hp.2.2.1
  simp only [decodeMajor4A, f, g0, ↓reduceIte]
  rw [show wordFin 8 w 22 = d from Fin.ext hp.2.1,
    show wordFin 2 w 7 = q from Fin.ext hp.2.2.2.1]

theorem Roundtrip.accwrD (d : DReg) (g : GReg) : Roundtrip.Statement (.accwrD d g) := by
  refine Roundtrip.of_raw _ ?_
  have hp := pack_fields (l := [(0x4A, 7), (d.val, 3), (0, 10), (g.val, 5), (9, 7)]) ⟨by decide, d.isLt, by decide, g.isLt, by decide, trivial⟩
  change decodeRaw (packWord [(0x4A, 7), (d.val, 3), (0, 10), (g.val, 5), (9, 7)]) = _
  generalize packWord [(0x4A, 7), (d.val, 3), (0, 10), (g.val, 5), (9, 7)] = w at *
  rw [decodeRaw_4A hp.1]
  have f : wordBits w 0 7 = 9 := hp.2.2.2.2.1
  have g0 : wordBits w 12 10 = 0 := hp.2.2.1
  simp only [decodeMajor4A, f, g0, ↓reduceIte]
  rw [show wordFin 8 w 22 = d from Fin.ext hp.2.1,
    show wordFin 32 w 7 = g from Fin.ext hp.2.2.2.1]

theorem Roundtrip.tluf (d : DReg) (a : VReg) (g : GReg) : Roundtrip.Statement (.tluf d a g) := by
  refine Roundtrip.of_raw _ ?_
  have hp := pack_fields (l := [(0x4B, 7), (d.val, 3), (a.val, 5), (0, 5), (g.val, 5), (0, 7)]) ⟨by decide, d.isLt, a.isLt, by decide, g.isLt, by decide, trivial⟩
  change decodeRaw (packWord [(0x4B, 7), (d.val, 3), (a.val, 5), (0, 5), (g.val, 5), (0, 7)]) = _
  generalize packWord [(0x4B, 7), (d.val, 3), (a.val, 5), (0, 5), (g.val, 5), (0, 7)] = w at *
  rw [decodeRaw_4B hp.1]
  have g0 : wordBits w 0 7 = 0 := hp.2.2.2.2.2.1
  have g1 : wordBits w 12 5 = 0 := hp.2.2.2.1
  simp only [decodeMajor4B, g0, g1, and_true, true_and, and_false, false_and, and_self, Nat.reduceEqDiff, Nat.one_ne_zero, Nat.zero_ne_one, Nat.succ_ne_zero, ↓reduceIte]
  rw [show wordFin 8 w 22 = d from Fin.ext hp.2.1,
    show wordFin 32 w 17 = a from Fin.ext hp.2.2.1,
    show wordFin 32 w 7 = g from Fin.ext hp.2.2.2.2.1]

theorem Roundtrip.tchol (d : DReg) (g : GReg) : Roundtrip.Statement (.tchol d g) := by
  refine Roundtrip.of_raw _ ?_
  have hp := pack_fields (l := [(0x4B, 7), (d.val, 3), (0, 10), (g.val, 5), (1, 7)]) ⟨by decide, d.isLt, by decide, g.isLt, by decide, trivial⟩
  change decodeRaw (packWord [(0x4B, 7), (d.val, 3), (0, 10), (g.val, 5), (1, 7)]) = _
  generalize packWord [(0x4B, 7), (d.val, 3), (0, 10), (g.val, 5), (1, 7)] = w at *
  rw [decodeRaw_4B hp.1]
  have g0 : wordBits w 0 7 = 1 := hp.2.2.2.2.1
  have g1 : wordBits w 12 10 = 0 := hp.2.2.1
  simp only [decodeMajor4B, g0, g1, and_true, true_and, and_false, false_and, and_self, Nat.reduceEqDiff, Nat.one_ne_zero, Nat.zero_ne_one, Nat.succ_ne_zero, ↓reduceIte]
  rw [show wordFin 8 w 22 = d from Fin.ext hp.2.1,
    show wordFin 32 w 7 = g from Fin.ext hp.2.2.2.1]

theorem Roundtrip.ttrsL (d : DReg) (s : DReg) (g : GReg) : Roundtrip.Statement (.ttrsL d s g) := by
  refine Roundtrip.of_raw _ ?_
  have hp := pack_fields (l := [(0x4B, 7), (d.val, 3), (0, 7), (s.val, 3), (g.val, 5), (8, 7)]) ⟨by decide, d.isLt, by decide, s.isLt, g.isLt, by decide, trivial⟩
  change decodeRaw (packWord [(0x4B, 7), (d.val, 3), (0, 7), (s.val, 3), (g.val, 5), (8, 7)]) = _
  generalize packWord [(0x4B, 7), (d.val, 3), (0, 7), (s.val, 3), (g.val, 5), (8, 7)] = w at *
  rw [decodeRaw_4B hp.1]
  have g0 : wordBits w 0 7 = 8 := hp.2.2.2.2.2.1
  have g1 : wordBits w 15 7 = 0 := hp.2.2.1
  simp only [decodeMajor4B, g0, g1, and_true, true_and, and_false, false_and, and_self, Nat.reduceEqDiff, Nat.one_ne_zero, Nat.zero_ne_one, Nat.succ_ne_zero, ↓reduceIte]
  rw [show wordFin 8 w 22 = d from Fin.ext hp.2.1,
    show wordFin 8 w 12 = s from Fin.ext hp.2.2.2.1,
    show wordFin 32 w 7 = g from Fin.ext hp.2.2.2.2.1]

theorem Roundtrip.ttrsU (d : DReg) (s : DReg) (g : GReg) : Roundtrip.Statement (.ttrsU d s g) := by
  refine Roundtrip.of_raw _ ?_
  have hp := pack_fields (l := [(0x4B, 7), (d.val, 3), (0, 7), (s.val, 3), (g.val, 5), (9, 7)]) ⟨by decide, d.isLt, by decide, s.isLt, g.isLt, by decide, trivial⟩
  change decodeRaw (packWord [(0x4B, 7), (d.val, 3), (0, 7), (s.val, 3), (g.val, 5), (9, 7)]) = _
  generalize packWord [(0x4B, 7), (d.val, 3), (0, 7), (s.val, 3), (g.val, 5), (9, 7)] = w at *
  rw [decodeRaw_4B hp.1]
  have g0 : wordBits w 0 7 = 9 := hp.2.2.2.2.2.1
  have g1 : wordBits w 15 7 = 0 := hp.2.2.1
  simp only [decodeMajor4B, g0, g1, and_true, true_and, and_false, false_and, and_self, Nat.reduceEqDiff, Nat.one_ne_zero, Nat.zero_ne_one, Nat.succ_ne_zero, ↓reduceIte]
  rw [show wordFin 8 w 22 = d from Fin.ext hp.2.1,
    show wordFin 8 w 12 = s from Fin.ext hp.2.2.2.1,
    show wordFin 32 w 7 = g from Fin.ext hp.2.2.2.2.1]

theorem Roundtrip.ttrsL1 (d : DReg) (s : DReg) (g : GReg) : Roundtrip.Statement (.ttrsL1 d s g) := by
  refine Roundtrip.of_raw _ ?_
  have hp := pack_fields (l := [(0x4B, 7), (d.val, 3), (0, 7), (s.val, 3), (g.val, 5), (10, 7)]) ⟨by decide, d.isLt, by decide, s.isLt, g.isLt, by decide, trivial⟩
  change decodeRaw (packWord [(0x4B, 7), (d.val, 3), (0, 7), (s.val, 3), (g.val, 5), (10, 7)]) = _
  generalize packWord [(0x4B, 7), (d.val, 3), (0, 7), (s.val, 3), (g.val, 5), (10, 7)] = w at *
  rw [decodeRaw_4B hp.1]
  have g0 : wordBits w 0 7 = 10 := hp.2.2.2.2.2.1
  have g1 : wordBits w 15 7 = 0 := hp.2.2.1
  simp only [decodeMajor4B, g0, g1, and_true, true_and, and_false, false_and, and_self, Nat.reduceEqDiff, Nat.one_ne_zero, Nat.zero_ne_one, Nat.succ_ne_zero, ↓reduceIte]
  rw [show wordFin 8 w 22 = d from Fin.ext hp.2.1,
    show wordFin 8 w 12 = s from Fin.ext hp.2.2.2.1,
    show wordFin 32 w 7 = g from Fin.ext hp.2.2.2.2.1]

theorem Roundtrip.ttrsU1 (d : DReg) (s : DReg) (g : GReg) : Roundtrip.Statement (.ttrsU1 d s g) := by
  refine Roundtrip.of_raw _ ?_
  have hp := pack_fields (l := [(0x4B, 7), (d.val, 3), (0, 7), (s.val, 3), (g.val, 5), (11, 7)]) ⟨by decide, d.isLt, by decide, s.isLt, g.isLt, by decide, trivial⟩
  change decodeRaw (packWord [(0x4B, 7), (d.val, 3), (0, 7), (s.val, 3), (g.val, 5), (11, 7)]) = _
  generalize packWord [(0x4B, 7), (d.val, 3), (0, 7), (s.val, 3), (g.val, 5), (11, 7)] = w at *
  rw [decodeRaw_4B hp.1]
  have g0 : wordBits w 0 7 = 11 := hp.2.2.2.2.2.1
  have g1 : wordBits w 15 7 = 0 := hp.2.2.1
  simp only [decodeMajor4B, g0, g1, and_true, true_and, and_false, false_and, and_self, Nat.reduceEqDiff, Nat.one_ne_zero, Nat.zero_ne_one, Nat.succ_ne_zero, ↓reduceIte]
  rw [show wordFin 8 w 22 = d from Fin.ext hp.2.1,
    show wordFin 8 w 12 = s from Fin.ext hp.2.2.2.1,
    show wordFin 32 w 7 = g from Fin.ext hp.2.2.2.2.1]

theorem Roundtrip.ttrsLp (d : DReg) (a : VReg) (s : DReg) (g : GReg) : Roundtrip.Statement (.ttrsLp d a s g) := by
  refine Roundtrip.of_raw _ ?_
  have hp := pack_fields (l := [(0x4B, 7), (d.val, 3), (a.val, 5), (0, 2), (s.val, 3), (g.val, 5), (12, 7)]) ⟨by decide, d.isLt, a.isLt, by decide, s.isLt, g.isLt, by decide, trivial⟩
  change decodeRaw (packWord [(0x4B, 7), (d.val, 3), (a.val, 5), (0, 2), (s.val, 3), (g.val, 5), (12, 7)]) = _
  generalize packWord [(0x4B, 7), (d.val, 3), (a.val, 5), (0, 2), (s.val, 3), (g.val, 5), (12, 7)] = w at *
  rw [decodeRaw_4B hp.1]
  have g0 : wordBits w 0 7 = 12 := hp.2.2.2.2.2.2.1
  have g1 : wordBits w 15 2 = 0 := hp.2.2.2.1
  simp only [decodeMajor4B, g0, g1, and_true, true_and, and_false, false_and, and_self, Nat.reduceEqDiff, Nat.one_ne_zero, Nat.zero_ne_one, Nat.succ_ne_zero, ↓reduceIte]
  rw [show wordFin 8 w 22 = d from Fin.ext hp.2.1,
    show wordFin 32 w 17 = a from Fin.ext hp.2.2.1,
    show wordFin 8 w 12 = s from Fin.ext hp.2.2.2.2.1,
    show wordFin 32 w 7 = g from Fin.ext hp.2.2.2.2.2.1]

theorem Roundtrip.ttrsL1p (d : DReg) (a : VReg) (s : DReg) (g : GReg) : Roundtrip.Statement (.ttrsL1p d a s g) := by
  refine Roundtrip.of_raw _ ?_
  have hp := pack_fields (l := [(0x4B, 7), (d.val, 3), (a.val, 5), (0, 2), (s.val, 3), (g.val, 5), (14, 7)]) ⟨by decide, d.isLt, a.isLt, by decide, s.isLt, g.isLt, by decide, trivial⟩
  change decodeRaw (packWord [(0x4B, 7), (d.val, 3), (a.val, 5), (0, 2), (s.val, 3), (g.val, 5), (14, 7)]) = _
  generalize packWord [(0x4B, 7), (d.val, 3), (a.val, 5), (0, 2), (s.val, 3), (g.val, 5), (14, 7)] = w at *
  rw [decodeRaw_4B hp.1]
  have g0 : wordBits w 0 7 = 14 := hp.2.2.2.2.2.2.1
  have g1 : wordBits w 15 2 = 0 := hp.2.2.2.1
  simp only [decodeMajor4B, g0, g1, and_true, true_and, and_false, false_and, and_self, Nat.reduceEqDiff, Nat.one_ne_zero, Nat.zero_ne_one, Nat.succ_ne_zero, ↓reduceIte]
  rw [show wordFin 8 w 22 = d from Fin.ext hp.2.1,
    show wordFin 32 w 17 = a from Fin.ext hp.2.2.1,
    show wordFin 8 w 12 = s from Fin.ext hp.2.2.2.2.1,
    show wordFin 32 w 7 = g from Fin.ext hp.2.2.2.2.2.1]

theorem Roundtrip.tres (d : DReg) (b : DReg) (x : DReg) (g : GReg) (q : Fin 2) : Roundtrip.Statement (.tres d b x g q) := by
  refine Roundtrip.of_raw _ ?_
  have hp := pack_fields (l := [(0x4B, 7), (d.val, 3), (0, 2), (b.val, 3), (0, 2), (x.val, 3), (g.val, 5), (8, 6), (q.val, 1)]) ⟨by decide, d.isLt, by decide, b.isLt, by decide, x.isLt, g.isLt, by decide, q.isLt, trivial⟩
  change decodeRaw (packWord [(0x4B, 7), (d.val, 3), (0, 2), (b.val, 3), (0, 2), (x.val, 3), (g.val, 5), (8, 6), (q.val, 1)]) = _
  generalize packWord [(0x4B, 7), (d.val, 3), (0, 2), (b.val, 3), (0, 2), (x.val, 3), (g.val, 5), (8, 6), (q.val, 1)] = w at *
  rw [decodeRaw_4B hp.1]
  have g0 : wordBits w 1 6 = 8 := hp.2.2.2.2.2.2.2.1
  have g1 : wordBits w 15 2 = 0 := hp.2.2.2.2.1
  have g2 : wordBits w 20 2 = 0 := hp.2.2.1
  have n0 : ¬ wordBits w 0 7 = 0 := by unfold wordBits at *; omega
  have n1 : ¬ wordBits w 0 7 = 1 := by unfold wordBits at *; omega
  have n8 : ¬ wordBits w 0 7 = 8 := by unfold wordBits at *; omega
  have n9 : ¬ wordBits w 0 7 = 9 := by unfold wordBits at *; omega
  have n10 : ¬ wordBits w 0 7 = 10 := by unfold wordBits at *; omega
  have n11 : ¬ wordBits w 0 7 = 11 := by unfold wordBits at *; omega
  have n12 : ¬ wordBits w 0 7 = 12 := by unfold wordBits at *; omega
  have n14 : ¬ wordBits w 0 7 = 14 := by unfold wordBits at *; omega
  simp only [decodeMajor4B, g0, g1, g2, n0, n1, n8, n9, n10, n11, n12, n14, and_true, true_and, and_false, false_and, and_self, Nat.reduceEqDiff, Nat.one_ne_zero, Nat.zero_ne_one, Nat.succ_ne_zero, ↓reduceIte]
  rw [show wordFin 8 w 22 = d from Fin.ext hp.2.1,
    show wordFin 8 w 17 = b from Fin.ext hp.2.2.2.1,
    show wordFin 8 w 12 = x from Fin.ext hp.2.2.2.2.2.1,
    show wordFin 32 w 7 = g from Fin.ext hp.2.2.2.2.2.2.1,
    show wordFin 2 w 0 = q from Fin.ext hp.2.2.2.2.2.2.2.2.1]

theorem Roundtrip.titer (d : Fin 4) (a : VReg) (g : GReg) (q : Fin 2) : Roundtrip.Statement (.titer d a g q) := by
  refine Roundtrip.of_raw _ ?_
  have hp := pack_fields (l := [(0x4B, 7), (0, 1), (d.val, 2), (a.val, 5), (0, 5), (g.val, 5), (12, 6), (q.val, 1)]) ⟨by decide, by decide, d.isLt, a.isLt, by decide, g.isLt, by decide, q.isLt, trivial⟩
  change decodeRaw (packWord [(0x4B, 7), (0, 1), (d.val, 2), (a.val, 5), (0, 5), (g.val, 5), (12, 6), (q.val, 1)]) = _
  generalize packWord [(0x4B, 7), (0, 1), (d.val, 2), (a.val, 5), (0, 5), (g.val, 5), (12, 6), (q.val, 1)] = w at *
  rw [decodeRaw_4B hp.1]
  have g0 : wordBits w 1 6 = 12 := hp.2.2.2.2.2.2.1
  have g1 : wordBits w 12 5 = 0 := hp.2.2.2.2.1
  have g2 : wordBits w 24 1 = 0 := hp.2.1
  have n0 : ¬ wordBits w 0 7 = 0 := by unfold wordBits at *; omega
  have n1 : ¬ wordBits w 0 7 = 1 := by unfold wordBits at *; omega
  have n8 : ¬ wordBits w 0 7 = 8 := by unfold wordBits at *; omega
  have n9 : ¬ wordBits w 0 7 = 9 := by unfold wordBits at *; omega
  have n10 : ¬ wordBits w 0 7 = 10 := by unfold wordBits at *; omega
  have n11 : ¬ wordBits w 0 7 = 11 := by unfold wordBits at *; omega
  have n12 : ¬ wordBits w 0 7 = 12 := by unfold wordBits at *; omega
  have n14 : ¬ wordBits w 0 7 = 14 := by unfold wordBits at *; omega
  simp only [decodeMajor4B, g0, g1, g2, n0, n1, n8, n9, n10, n11, n12, n14, and_true, true_and, and_false, false_and, and_self, Nat.reduceEqDiff, Nat.one_ne_zero, Nat.zero_ne_one, Nat.succ_ne_zero, ↓reduceIte]
  rw [show wordFin 4 w 22 = d from Fin.ext hp.2.2.1,
    show wordFin 32 w 17 = a from Fin.ext hp.2.2.2.1,
    show wordFin 32 w 7 = g from Fin.ext hp.2.2.2.2.2.1,
    show wordFin 2 w 0 = q from Fin.ext hp.2.2.2.2.2.2.2.1]

theorem Roundtrip.rstv (s : VReg) (a : GReg) (mk : MReg) (me : Bool) (q : Fin 2) (l : Fin 4) : Roundtrip.Statement (.rstv s a mk me q l) := by
  refine Roundtrip.of_raw _ ?_
  have hp := pack_fields (l := [(0x5A, 7), (s.val, 5), (a.val, 5), (0, 5), (mk.val, 4), (me.toNat, 1), (0, 2), (q.val, 1), (l.val, 2)]) ⟨by decide, s.isLt, a.isLt, by decide, mk.isLt, Bool.toNat_lt me, by decide, q.isLt, l.isLt, trivial⟩
  change decodeRaw (packWord [(0x5A, 7), (s.val, 5), (a.val, 5), (0, 5), (mk.val, 4), (me.toNat, 1), (0, 2), (q.val, 1), (l.val, 2)]) = _
  generalize packWord [(0x5A, 7), (s.val, 5), (a.val, 5), (0, 5), (mk.val, 4), (me.toNat, 1), (0, 2), (q.val, 1), (l.val, 2)] = w at *
  rw [decodeRaw_5A hp.1]
  have g0 : wordBits w 3 2 = 0 := hp.2.2.2.2.2.2.1
  have g1 : wordBits w 10 5 = 0 := hp.2.2.2.1
  simp only [decodeMajor5A, g0, g1, and_true, true_and, and_false, false_and, and_self, Nat.reduceEqDiff, Nat.one_ne_zero, Nat.zero_ne_one, Nat.succ_ne_zero, ↓reduceIte]
  rw [show wordFin 32 w 20 = s from Fin.ext hp.2.1,
    show wordFin 32 w 15 = a from Fin.ext hp.2.2.1,
    show wordFin 16 w 6 = mk from Fin.ext hp.2.2.2.2.1,
    show (wordBits w 5 1 == 1) = me from bool_bits _ hp.2.2.2.2.2.1,
    show wordFin 2 w 2 = q from Fin.ext hp.2.2.2.2.2.2.2.1,
    show wordFin 4 w 0 = l from Fin.ext hp.2.2.2.2.2.2.2.2.1]

theorem Roundtrip.rstvMc (s : VReg) (a : GReg) (b : GReg) (mk : MReg) (me : Bool) (q : Fin 2) (l : Fin 4) : Roundtrip.Statement (.rstvMc s a b mk me q l) := by
  refine Roundtrip.of_raw _ ?_
  have hp := pack_fields (l := [(0x5A, 7), (s.val, 5), (a.val, 5), (b.val, 5), (mk.val, 4), (me.toNat, 1), (1, 2), (q.val, 1), (l.val, 2)]) ⟨by decide, s.isLt, a.isLt, b.isLt, mk.isLt, Bool.toNat_lt me, by decide, q.isLt, l.isLt, trivial⟩
  change decodeRaw (packWord [(0x5A, 7), (s.val, 5), (a.val, 5), (b.val, 5), (mk.val, 4), (me.toNat, 1), (1, 2), (q.val, 1), (l.val, 2)]) = _
  generalize packWord [(0x5A, 7), (s.val, 5), (a.val, 5), (b.val, 5), (mk.val, 4), (me.toNat, 1), (1, 2), (q.val, 1), (l.val, 2)] = w at *
  rw [decodeRaw_5A hp.1]
  have g0 : wordBits w 3 2 = 1 := hp.2.2.2.2.2.2.1
  simp only [decodeMajor5A, g0, and_true, true_and, and_false, false_and, and_self, Nat.reduceEqDiff, Nat.one_ne_zero, Nat.zero_ne_one, Nat.succ_ne_zero, ↓reduceIte]
  rw [show wordFin 32 w 20 = s from Fin.ext hp.2.1,
    show wordFin 32 w 15 = a from Fin.ext hp.2.2.1,
    show wordFin 32 w 10 = b from Fin.ext hp.2.2.2.1,
    show wordFin 16 w 6 = mk from Fin.ext hp.2.2.2.2.1,
    show (wordBits w 5 1 == 1) = me from bool_bits _ hp.2.2.2.2.2.1,
    show wordFin 2 w 2 = q from Fin.ext hp.2.2.2.2.2.2.2.1,
    show wordFin 4 w 0 = l from Fin.ext hp.2.2.2.2.2.2.2.2.1]

theorem Roundtrip.rstvAdd (s : VReg) (a : GReg) (mk : MReg) (me : Bool) (q : Fin 2) : Roundtrip.Statement (.rstvAdd s a mk me q) := by
  refine Roundtrip.of_raw _ ?_
  have hp := pack_fields (l := [(0x5A, 7), (s.val, 5), (a.val, 5), (0, 5), (mk.val, 4), (me.toNat, 1), (2, 2), (q.val, 1), (0, 2)]) ⟨by decide, s.isLt, a.isLt, by decide, mk.isLt, Bool.toNat_lt me, by decide, q.isLt, by decide, trivial⟩
  change decodeRaw (packWord [(0x5A, 7), (s.val, 5), (a.val, 5), (0, 5), (mk.val, 4), (me.toNat, 1), (2, 2), (q.val, 1), (0, 2)]) = _
  generalize packWord [(0x5A, 7), (s.val, 5), (a.val, 5), (0, 5), (mk.val, 4), (me.toNat, 1), (2, 2), (q.val, 1), (0, 2)] = w at *
  rw [decodeRaw_5A hp.1]
  have g0 : wordBits w 0 2 = 0 := hp.2.2.2.2.2.2.2.2.1
  have g1 : wordBits w 3 2 = 2 := hp.2.2.2.2.2.2.1
  have g2 : wordBits w 10 5 = 0 := hp.2.2.2.1
  simp only [decodeMajor5A, g0, g1, g2, and_true, true_and, and_false, false_and, and_self, Nat.reduceEqDiff, Nat.one_ne_zero, Nat.zero_ne_one, Nat.succ_ne_zero, ↓reduceIte]
  rw [show wordFin 32 w 20 = s from Fin.ext hp.2.1,
    show wordFin 32 w 15 = a from Fin.ext hp.2.2.1,
    show wordFin 16 w 6 = mk from Fin.ext hp.2.2.2.2.1,
    show (wordBits w 5 1 == 1) = me from bool_bits _ hp.2.2.2.2.2.1,
    show wordFin 2 w 2 = q from Fin.ext hp.2.2.2.2.2.2.2.1]

theorem Roundtrip.bnkexa (s : VReg) (a : GReg) (b : VReg) (mk : MReg) (me : Bool) : Roundtrip.Statement (.bnkexa s a b mk me) := by
  refine Roundtrip.of_raw _ ?_
  have hp := pack_fields (l := [(0x5B, 7), (s.val, 5), (a.val, 5), (b.val, 5), (mk.val, 4), (me.toNat, 1), (0, 5)]) ⟨by decide, s.isLt, a.isLt, b.isLt, mk.isLt, Bool.toNat_lt me, by decide, trivial⟩
  change decodeRaw (packWord [(0x5B, 7), (s.val, 5), (a.val, 5), (b.val, 5), (mk.val, 4), (me.toNat, 1), (0, 5)]) = _
  generalize packWord [(0x5B, 7), (s.val, 5), (a.val, 5), (b.val, 5), (mk.val, 4), (me.toNat, 1), (0, 5)] = w at *
  rw [decodeRaw_5B hp.1]
  unfold decodeMajor5B
  rw [show wordBits w 0 5 = 0 from hp.2.2.2.2.2.2.1,
    show wordFin 32 w 20 = s from Fin.ext hp.2.1,
    show wordFin 32 w 15 = a from Fin.ext hp.2.2.1,
    show wordFin 32 w 10 = b from Fin.ext hp.2.2.2.1,
    show wordFin 16 w 6 = mk from Fin.ext hp.2.2.2.2.1,
    show (wordBits w 5 1 == 1) = me from bool_bits _ hp.2.2.2.2.2.1]
  try rfl

theorem Roundtrip.cdep (s : VReg) (a : GReg) (b : Fin 16) (q : Fin 2) : Roundtrip.Statement (.cdep s a b q) := by
  refine Roundtrip.of_raw _ ?_
  have hp := pack_fields (l := [(0x5F, 7), (s.val, 5), (a.val, 5), (b.val, 4), (0, 8), (q.val, 1), (0, 2)]) ⟨by decide, s.isLt, a.isLt, b.isLt, by decide, q.isLt, by decide, trivial⟩
  change decodeRaw (packWord [(0x5F, 7), (s.val, 5), (a.val, 5), (b.val, 4), (0, 8), (q.val, 1), (0, 2)]) = _
  generalize packWord [(0x5F, 7), (s.val, 5), (a.val, 5), (b.val, 4), (0, 8), (q.val, 1), (0, 2)] = w at *
  rw [decodeRaw_5F hp.1]
  have f : wordBits w 0 2 = 0 := hp.2.2.2.2.2.2.1
  have g0 : wordBits w 3 8 = 0 := hp.2.2.2.2.1
  simp only [decodeMajor5F, f, g0, ↓reduceIte]
  rw [show wordFin 32 w 20 = s from Fin.ext hp.2.1,
    show wordFin 32 w 15 = a from Fin.ext hp.2.2.1,
    show wordFin 16 w 11 = b from Fin.ext hp.2.2.2.1,
    show wordFin 2 w 2 = q from Fin.ext hp.2.2.2.2.2.1]

theorem Roundtrip.ctas (b : Fin 32) : Roundtrip.Statement (.ctas b) := by
  refine Roundtrip.of_raw _ ?_
  have hp := pack_fields (l := [(0x50, 7), (0, 10), (b.val, 5), (0, 3), (0, 7)]) ⟨by decide, by decide, b.isLt, by decide, by decide, trivial⟩
  change decodeRaw (packWord [(0x50, 7), (0, 10), (b.val, 5), (0, 3), (0, 7)]) = _
  generalize packWord [(0x50, 7), (0, 10), (b.val, 5), (0, 3), (0, 7)] = w at *
  rw [decodeRaw_50 hp.1]
  have f : wordBits w 0 7 = 0 := hp.2.2.2.2.1
  have g0 : wordBits w 7 3 = 0 := hp.2.2.2.1
  have g1 : wordBits w 15 10 = 0 := hp.2.1
  simp only [decodeMajor50, f, g0, g1, and_self, ↓reduceIte]
  rw [show wordFin 32 w 10 = b from Fin.ext hp.2.2.1]

theorem Roundtrip.cclr (b : Fin 32) : Roundtrip.Statement (.cclr b) := by
  refine Roundtrip.of_raw _ ?_
  have hp := pack_fields (l := [(0x50, 7), (0, 10), (b.val, 5), (0, 3), (1, 7)]) ⟨by decide, by decide, b.isLt, by decide, by decide, trivial⟩
  change decodeRaw (packWord [(0x50, 7), (0, 10), (b.val, 5), (0, 3), (1, 7)]) = _
  generalize packWord [(0x50, 7), (0, 10), (b.val, 5), (0, 3), (1, 7)] = w at *
  rw [decodeRaw_50 hp.1]
  have f : wordBits w 0 7 = 1 := hp.2.2.2.2.1
  have g0 : wordBits w 7 3 = 0 := hp.2.2.2.1
  have g1 : wordBits w 15 10 = 0 := hp.2.1
  simp only [decodeMajor50, f, g0, g1, and_self, ↓reduceIte]
  rw [show wordFin 32 w 10 = b from Fin.ext hp.2.2.1]

theorem Roundtrip.crd (d : GReg) (r : Fin 16) : Roundtrip.Statement (.crd d r) := by
  refine Roundtrip.of_raw _ ?_
  have hp := pack_fields (l := [(0x50, 7), (d.val, 5), (0, 6), (r.val, 4), (0, 3), (2, 7)]) ⟨by decide, d.isLt, by decide, r.isLt, by decide, by decide, trivial⟩
  change decodeRaw (packWord [(0x50, 7), (d.val, 5), (0, 6), (r.val, 4), (0, 3), (2, 7)]) = _
  generalize packWord [(0x50, 7), (d.val, 5), (0, 6), (r.val, 4), (0, 3), (2, 7)] = w at *
  rw [decodeRaw_50 hp.1]
  have f : wordBits w 0 7 = 2 := hp.2.2.2.2.2.1
  have g0 : wordBits w 7 3 = 0 := hp.2.2.2.2.1
  have g1 : wordBits w 14 6 = 0 := hp.2.2.1
  simp only [decodeMajor50, f, g0, g1, and_self, ↓reduceIte]
  rw [show wordFin 32 w 20 = d from Fin.ext hp.2.1,
    show wordFin 16 w 10 = r from Fin.ext hp.2.2.2.1]

theorem Roundtrip.cwr (a : GReg) (r : Fin 16) : Roundtrip.Statement (.cwr a r) := by
  refine Roundtrip.of_raw _ ?_
  have hp := pack_fields (l := [(0x50, 7), (0, 5), (a.val, 5), (0, 1), (r.val, 4), (0, 3), (3, 7)]) ⟨by decide, by decide, a.isLt, by decide, r.isLt, by decide, by decide, trivial⟩
  change decodeRaw (packWord [(0x50, 7), (0, 5), (a.val, 5), (0, 1), (r.val, 4), (0, 3), (3, 7)]) = _
  generalize packWord [(0x50, 7), (0, 5), (a.val, 5), (0, 1), (r.val, 4), (0, 3), (3, 7)] = w at *
  rw [decodeRaw_50 hp.1]
  have f : wordBits w 0 7 = 3 := hp.2.2.2.2.2.2.1
  have g0 : wordBits w 7 3 = 0 := hp.2.2.2.2.2.1
  have g1 : wordBits w 14 1 = 0 := hp.2.2.2.1
  have g2 : wordBits w 20 5 = 0 := hp.2.1
  simp only [decodeMajor50, f, g0, g1, g2, and_self, ↓reduceIte]
  rw [show wordFin 32 w 15 = a from Fin.ext hp.2.2.1,
    show wordFin 16 w 10 = r from Fin.ext hp.2.2.2.2.1]

theorem Roundtrip.bar (a : GReg) (b : Fin 16) (s : Fin 8) : Roundtrip.Statement (.bar a b s) := by
  refine Roundtrip.of_raw _ ?_
  have hp := pack_fields (l := [(0x50, 7), (0, 5), (a.val, 5), (0, 1), (b.val, 4), (s.val, 3), (8, 7)]) ⟨by decide, by decide, a.isLt, by decide, b.isLt, s.isLt, by decide, trivial⟩
  change decodeRaw (packWord [(0x50, 7), (0, 5), (a.val, 5), (0, 1), (b.val, 4), (s.val, 3), (8, 7)]) = _
  generalize packWord [(0x50, 7), (0, 5), (a.val, 5), (0, 1), (b.val, 4), (s.val, 3), (8, 7)] = w at *
  rw [decodeRaw_50 hp.1]
  have f : wordBits w 0 7 = 8 := hp.2.2.2.2.2.2.1
  have g0 : wordBits w 14 1 = 0 := hp.2.2.2.1
  have g1 : wordBits w 20 5 = 0 := hp.2.1
  simp only [decodeMajor50, f, g0, g1, and_self, ↓reduceIte]
  rw [show wordFin 32 w 15 = a from Fin.ext hp.2.2.1,
    show wordFin 16 w 10 = b from Fin.ext hp.2.2.2.2.1,
    show wordFin 8 w 7 = s from Fin.ext hp.2.2.2.2.2.1]

theorem Roundtrip.fenceAv : Roundtrip.Statement .fenceAv := by
  refine Roundtrip.of_raw _ ?_
  have hp := pack_fields (l := [(0x51, 7), (0, 18), (0, 7)]) ⟨by decide, by decide, by decide, trivial⟩
  change decodeRaw (packWord [(0x51, 7), (0, 18), (0, 7)]) = _
  generalize packWord [(0x51, 7), (0, 18), (0, 7)] = w at *
  rw [decodeRaw_51 hp.1]
  have f : wordBits w 0 7 = 0 := hp.2.2.1
  have g0 : wordBits w 7 18 = 0 := hp.2.1
  simp only [decodeMajor51, f, g0, ↓reduceIte]

theorem Roundtrip.fenceVa : Roundtrip.Statement .fenceVa := by
  refine Roundtrip.of_raw _ ?_
  have hp := pack_fields (l := [(0x51, 7), (0, 18), (1, 7)]) ⟨by decide, by decide, by decide, trivial⟩
  change decodeRaw (packWord [(0x51, 7), (0, 18), (1, 7)]) = _
  generalize packWord [(0x51, 7), (0, 18), (1, 7)] = w at *
  rw [decodeRaw_51 hp.1]
  have f : wordBits w 0 7 = 1 := hp.2.2.1
  have g0 : wordBits w 7 18 = 0 := hp.2.1
  simp only [decodeMajor51, f, g0, ↓reduceIte]

theorem Roundtrip.fenceVv : Roundtrip.Statement .fenceVv := by
  refine Roundtrip.of_raw _ ?_
  have hp := pack_fields (l := [(0x51, 7), (0, 18), (2, 7)]) ⟨by decide, by decide, by decide, trivial⟩
  change decodeRaw (packWord [(0x51, 7), (0, 18), (2, 7)]) = _
  generalize packWord [(0x51, 7), (0, 18), (2, 7)] = w at *
  rw [decodeRaw_51 hp.1]
  have f : wordBits w 0 7 = 2 := hp.2.2.1
  have g0 : wordBits w 7 18 = 0 := hp.2.1
  simp only [decodeMajor51, f, g0, ↓reduceIte]

theorem Roundtrip.fenceAll : Roundtrip.Statement .fenceAll := by
  refine Roundtrip.of_raw _ ?_
  have hp := pack_fields (l := [(0x51, 7), (0, 18), (3, 7)]) ⟨by decide, by decide, by decide, trivial⟩
  change decodeRaw (packWord [(0x51, 7), (0, 18), (3, 7)]) = _
  generalize packWord [(0x51, 7), (0, 18), (3, 7)] = w at *
  rw [decodeRaw_51 hp.1]
  have f : wordBits w 0 7 = 3 := hp.2.2.1
  have g0 : wordBits w 7 18 = 0 := hp.2.1
  simp only [decodeMajor51, f, g0, ↓reduceIte]

theorem Roundtrip.xfence (p : Fin 8) (c : Fin 8) (s : Fin 8) : Roundtrip.Statement (.xfence p c s) := by
  refine Roundtrip.of_raw _ ?_
  have hp := pack_fields (l := [(0x51, 7), (0, 2), (p.val, 3), (0, 2), (c.val, 3), (0, 5), (s.val, 3), (4, 7)]) ⟨by decide, by decide, p.isLt, by decide, c.isLt, by decide, s.isLt, by decide, trivial⟩
  change decodeRaw (packWord [(0x51, 7), (0, 2), (p.val, 3), (0, 2), (c.val, 3), (0, 5), (s.val, 3), (4, 7)]) = _
  generalize packWord [(0x51, 7), (0, 2), (p.val, 3), (0, 2), (c.val, 3), (0, 5), (s.val, 3), (4, 7)] = w at *
  rw [decodeRaw_51 hp.1]
  have f : wordBits w 0 7 = 4 := hp.2.2.2.2.2.2.2.1
  have g0 : wordBits w 10 5 = 0 := hp.2.2.2.2.2.1
  have g1 : wordBits w 18 2 = 0 := hp.2.2.2.1
  have g2 : wordBits w 23 2 = 0 := hp.2.1
  simp only [decodeMajor51, f, g0, g1, g2, and_self, ↓reduceIte]
  rw [show wordFin 8 w 20 = p from Fin.ext hp.2.2.1,
    show wordFin 8 w 15 = c from Fin.ext hp.2.2.2.2.1,
    show wordFin 8 w 7 = s from Fin.ext hp.2.2.2.2.2.2.1]

theorem Roundtrip.siginc (a : GReg) (b : GReg) : Roundtrip.Statement (.siginc a b) := by
  refine Roundtrip.of_raw _ ?_
  have hp := pack_fields (l := [(0x52, 7), (0, 5), (a.val, 5), (b.val, 5), (0, 3), (0, 7)]) ⟨by decide, by decide, a.isLt, b.isLt, by decide, by decide, trivial⟩
  change decodeRaw (packWord [(0x52, 7), (0, 5), (a.val, 5), (b.val, 5), (0, 3), (0, 7)]) = _
  generalize packWord [(0x52, 7), (0, 5), (a.val, 5), (b.val, 5), (0, 3), (0, 7)] = w at *
  rw [decodeRaw_52 hp.1]
  have f : wordBits w 0 7 = 0 := hp.2.2.2.2.2.1
  have g0 : wordBits w 7 3 = 0 := hp.2.2.2.2.1
  have g1 : wordBits w 20 5 = 0 := hp.2.1
  simp only [decodeMajor52, f, g0, g1, and_self, ↓reduceIte]
  rw [show wordFin 32 w 15 = a from Fin.ext hp.2.2.1,
    show wordFin 32 w 10 = b from Fin.ext hp.2.2.2.1]

theorem Roundtrip.sigincR (a : GReg) (b : GReg) (s : Fin 8) : Roundtrip.Statement (.sigincR a b s) := by
  refine Roundtrip.of_raw _ ?_
  have hp := pack_fields (l := [(0x52, 7), (0, 5), (a.val, 5), (b.val, 5), (s.val, 3), (1, 7)]) ⟨by decide, by decide, a.isLt, b.isLt, s.isLt, by decide, trivial⟩
  change decodeRaw (packWord [(0x52, 7), (0, 5), (a.val, 5), (b.val, 5), (s.val, 3), (1, 7)]) = _
  generalize packWord [(0x52, 7), (0, 5), (a.val, 5), (b.val, 5), (s.val, 3), (1, 7)] = w at *
  rw [decodeRaw_52 hp.1]
  have f : wordBits w 0 7 = 1 := hp.2.2.2.2.2.1
  have g0 : wordBits w 20 5 = 0 := hp.2.1
  simp only [decodeMajor52, f, g0, ↓reduceIte]
  rw [show wordFin 32 w 15 = a from Fin.ext hp.2.2.1,
    show wordFin 32 w 10 = b from Fin.ext hp.2.2.2.1,
    show wordFin 8 w 7 = s from Fin.ext hp.2.2.2.2.1]

theorem Roundtrip.sigwait (d : GReg) (a : GReg) (b : GReg) (s : Fin 8) : Roundtrip.Statement (.sigwait d a b s) := by
  refine Roundtrip.of_raw _ ?_
  have hp := pack_fields (l := [(0x52, 7), (d.val, 5), (a.val, 5), (b.val, 5), (s.val, 3), (2, 7)]) ⟨by decide, d.isLt, a.isLt, b.isLt, s.isLt, by decide, trivial⟩
  change decodeRaw (packWord [(0x52, 7), (d.val, 5), (a.val, 5), (b.val, 5), (s.val, 3), (2, 7)]) = _
  generalize packWord [(0x52, 7), (d.val, 5), (a.val, 5), (b.val, 5), (s.val, 3), (2, 7)] = w at *
  rw [decodeRaw_52 hp.1]
  unfold decodeMajor52
  rw [show wordBits w 0 7 = 2 from hp.2.2.2.2.2.1,
    show wordFin 32 w 20 = d from Fin.ext hp.2.1,
    show wordFin 32 w 15 = a from Fin.ext hp.2.2.1,
    show wordFin 32 w 10 = b from Fin.ext hp.2.2.2.1,
    show wordFin 8 w 7 = s from Fin.ext hp.2.2.2.2.1]
  try rfl

theorem Roundtrip.timerd (d : GReg) : Roundtrip.Statement (.timerd d) := by
  refine Roundtrip.of_raw _ ?_
  have hp := pack_fields (l := [(0x53, 7), (d.val, 5), (0, 5), (0, 15)]) ⟨by decide, d.isLt, by decide, by decide, trivial⟩
  change decodeRaw (packWord [(0x53, 7), (d.val, 5), (0, 5), (0, 15)]) = _
  generalize packWord [(0x53, 7), (d.val, 5), (0, 5), (0, 15)] = w at *
  rw [decodeRaw_53 hp.1]
  have f : wordBits w 0 15 = 0 := hp.2.2.2.1
  have g0 : wordBits w 15 5 = 0 := hp.2.2.1
  simp only [decodeMajor53, f, g0, ↓reduceIte]
  rw [show wordFin 32 w 20 = d from Fin.ext hp.2.1]

theorem Roundtrip.waitt (d : GReg) (a : GReg) : Roundtrip.Statement (.waitt d a) := by
  refine Roundtrip.of_raw _ ?_
  have hp := pack_fields (l := [(0x53, 7), (d.val, 5), (a.val, 5), (1, 15)]) ⟨by decide, d.isLt, a.isLt, by decide, trivial⟩
  change decodeRaw (packWord [(0x53, 7), (d.val, 5), (a.val, 5), (1, 15)]) = _
  generalize packWord [(0x53, 7), (d.val, 5), (a.val, 5), (1, 15)] = w at *
  rw [decodeRaw_53 hp.1]
  unfold decodeMajor53
  rw [show wordBits w 0 15 = 1 from hp.2.2.2.1,
    show wordFin 32 w 20 = d from Fin.ext hp.2.1,
    show wordFin 32 w 15 = a from Fin.ext hp.2.2.1]
  try rfl

theorem Roundtrip.bnkopAdd (d : GReg) (a : GReg) (b : GReg) : Roundtrip.Statement (.bnkopAdd d a b) := by
  refine Roundtrip.of_raw _ ?_
  have hp := pack_fields (l := [(0x54, 7), (d.val, 5), (a.val, 5), (b.val, 5), (0, 10)]) ⟨by decide, d.isLt, a.isLt, b.isLt, by decide, trivial⟩
  change decodeRaw (packWord [(0x54, 7), (d.val, 5), (a.val, 5), (b.val, 5), (0, 10)]) = _
  generalize packWord [(0x54, 7), (d.val, 5), (a.val, 5), (b.val, 5), (0, 10)] = w at *
  rw [decodeRaw_54 hp.1]
  unfold decodeMajor54
  rw [show wordBits w 0 10 = 0 from hp.2.2.2.2.1,
    show wordFin 32 w 20 = d from Fin.ext hp.2.1,
    show wordFin 32 w 15 = a from Fin.ext hp.2.2.1,
    show wordFin 32 w 10 = b from Fin.ext hp.2.2.2.1]
  try rfl

theorem Roundtrip.bnkopMin (d : GReg) (a : GReg) (b : GReg) : Roundtrip.Statement (.bnkopMin d a b) := by
  refine Roundtrip.of_raw _ ?_
  have hp := pack_fields (l := [(0x54, 7), (d.val, 5), (a.val, 5), (b.val, 5), (1, 10)]) ⟨by decide, d.isLt, a.isLt, b.isLt, by decide, trivial⟩
  change decodeRaw (packWord [(0x54, 7), (d.val, 5), (a.val, 5), (b.val, 5), (1, 10)]) = _
  generalize packWord [(0x54, 7), (d.val, 5), (a.val, 5), (b.val, 5), (1, 10)] = w at *
  rw [decodeRaw_54 hp.1]
  unfold decodeMajor54
  rw [show wordBits w 0 10 = 1 from hp.2.2.2.2.1,
    show wordFin 32 w 20 = d from Fin.ext hp.2.1,
    show wordFin 32 w 15 = a from Fin.ext hp.2.2.1,
    show wordFin 32 w 10 = b from Fin.ext hp.2.2.2.1]
  try rfl

theorem Roundtrip.bnkopMax (d : GReg) (a : GReg) (b : GReg) : Roundtrip.Statement (.bnkopMax d a b) := by
  refine Roundtrip.of_raw _ ?_
  have hp := pack_fields (l := [(0x54, 7), (d.val, 5), (a.val, 5), (b.val, 5), (2, 10)]) ⟨by decide, d.isLt, a.isLt, b.isLt, by decide, trivial⟩
  change decodeRaw (packWord [(0x54, 7), (d.val, 5), (a.val, 5), (b.val, 5), (2, 10)]) = _
  generalize packWord [(0x54, 7), (d.val, 5), (a.val, 5), (b.val, 5), (2, 10)] = w at *
  rw [decodeRaw_54 hp.1]
  unfold decodeMajor54
  rw [show wordBits w 0 10 = 2 from hp.2.2.2.2.1,
    show wordFin 32 w 20 = d from Fin.ext hp.2.1,
    show wordFin 32 w 15 = a from Fin.ext hp.2.2.1,
    show wordFin 32 w 10 = b from Fin.ext hp.2.2.2.1]
  try rfl

theorem Roundtrip.bnkopMinn (d : GReg) (a : GReg) (b : GReg) : Roundtrip.Statement (.bnkopMinn d a b) := by
  refine Roundtrip.of_raw _ ?_
  have hp := pack_fields (l := [(0x54, 7), (d.val, 5), (a.val, 5), (b.val, 5), (3, 10)]) ⟨by decide, d.isLt, a.isLt, b.isLt, by decide, trivial⟩
  change decodeRaw (packWord [(0x54, 7), (d.val, 5), (a.val, 5), (b.val, 5), (3, 10)]) = _
  generalize packWord [(0x54, 7), (d.val, 5), (a.val, 5), (b.val, 5), (3, 10)] = w at *
  rw [decodeRaw_54 hp.1]
  unfold decodeMajor54
  rw [show wordBits w 0 10 = 3 from hp.2.2.2.2.1,
    show wordFin 32 w 20 = d from Fin.ext hp.2.1,
    show wordFin 32 w 15 = a from Fin.ext hp.2.2.1,
    show wordFin 32 w 10 = b from Fin.ext hp.2.2.2.1]
  try rfl

theorem Roundtrip.bnkopMaxn (d : GReg) (a : GReg) (b : GReg) : Roundtrip.Statement (.bnkopMaxn d a b) := by
  refine Roundtrip.of_raw _ ?_
  have hp := pack_fields (l := [(0x54, 7), (d.val, 5), (a.val, 5), (b.val, 5), (4, 10)]) ⟨by decide, d.isLt, a.isLt, b.isLt, by decide, trivial⟩
  change decodeRaw (packWord [(0x54, 7), (d.val, 5), (a.val, 5), (b.val, 5), (4, 10)]) = _
  generalize packWord [(0x54, 7), (d.val, 5), (a.val, 5), (b.val, 5), (4, 10)] = w at *
  rw [decodeRaw_54 hp.1]
  unfold decodeMajor54
  rw [show wordBits w 0 10 = 4 from hp.2.2.2.2.1,
    show wordFin 32 w 20 = d from Fin.ext hp.2.1,
    show wordFin 32 w 15 = a from Fin.ext hp.2.2.1,
    show wordFin 32 w 10 = b from Fin.ext hp.2.2.2.1]
  try rfl

theorem Roundtrip.bnkopAnd (d : GReg) (a : GReg) (b : GReg) : Roundtrip.Statement (.bnkopAnd d a b) := by
  refine Roundtrip.of_raw _ ?_
  have hp := pack_fields (l := [(0x54, 7), (d.val, 5), (a.val, 5), (b.val, 5), (5, 10)]) ⟨by decide, d.isLt, a.isLt, b.isLt, by decide, trivial⟩
  change decodeRaw (packWord [(0x54, 7), (d.val, 5), (a.val, 5), (b.val, 5), (5, 10)]) = _
  generalize packWord [(0x54, 7), (d.val, 5), (a.val, 5), (b.val, 5), (5, 10)] = w at *
  rw [decodeRaw_54 hp.1]
  unfold decodeMajor54
  rw [show wordBits w 0 10 = 5 from hp.2.2.2.2.1,
    show wordFin 32 w 20 = d from Fin.ext hp.2.1,
    show wordFin 32 w 15 = a from Fin.ext hp.2.2.1,
    show wordFin 32 w 10 = b from Fin.ext hp.2.2.2.1]
  try rfl

theorem Roundtrip.bnkopOr (d : GReg) (a : GReg) (b : GReg) : Roundtrip.Statement (.bnkopOr d a b) := by
  refine Roundtrip.of_raw _ ?_
  have hp := pack_fields (l := [(0x54, 7), (d.val, 5), (a.val, 5), (b.val, 5), (6, 10)]) ⟨by decide, d.isLt, a.isLt, b.isLt, by decide, trivial⟩
  change decodeRaw (packWord [(0x54, 7), (d.val, 5), (a.val, 5), (b.val, 5), (6, 10)]) = _
  generalize packWord [(0x54, 7), (d.val, 5), (a.val, 5), (b.val, 5), (6, 10)] = w at *
  rw [decodeRaw_54 hp.1]
  unfold decodeMajor54
  rw [show wordBits w 0 10 = 6 from hp.2.2.2.2.1,
    show wordFin 32 w 20 = d from Fin.ext hp.2.1,
    show wordFin 32 w 15 = a from Fin.ext hp.2.2.1,
    show wordFin 32 w 10 = b from Fin.ext hp.2.2.2.1]
  try rfl

theorem Roundtrip.bnkopXor (d : GReg) (a : GReg) (b : GReg) : Roundtrip.Statement (.bnkopXor d a b) := by
  refine Roundtrip.of_raw _ ?_
  have hp := pack_fields (l := [(0x54, 7), (d.val, 5), (a.val, 5), (b.val, 5), (7, 10)]) ⟨by decide, d.isLt, a.isLt, b.isLt, by decide, trivial⟩
  change decodeRaw (packWord [(0x54, 7), (d.val, 5), (a.val, 5), (b.val, 5), (7, 10)]) = _
  generalize packWord [(0x54, 7), (d.val, 5), (a.val, 5), (b.val, 5), (7, 10)] = w at *
  rw [decodeRaw_54 hp.1]
  unfold decodeMajor54
  rw [show wordBits w 0 10 = 7 from hp.2.2.2.2.1,
    show wordFin 32 w 20 = d from Fin.ext hp.2.1,
    show wordFin 32 w 15 = a from Fin.ext hp.2.2.1,
    show wordFin 32 w 10 = b from Fin.ext hp.2.2.2.1]
  try rfl

theorem Roundtrip.bnkopSwap (d : GReg) (a : GReg) (b : GReg) : Roundtrip.Statement (.bnkopSwap d a b) := by
  refine Roundtrip.of_raw _ ?_
  have hp := pack_fields (l := [(0x54, 7), (d.val, 5), (a.val, 5), (b.val, 5), (8, 10)]) ⟨by decide, d.isLt, a.isLt, b.isLt, by decide, trivial⟩
  change decodeRaw (packWord [(0x54, 7), (d.val, 5), (a.val, 5), (b.val, 5), (8, 10)]) = _
  generalize packWord [(0x54, 7), (d.val, 5), (a.val, 5), (b.val, 5), (8, 10)] = w at *
  rw [decodeRaw_54 hp.1]
  unfold decodeMajor54
  rw [show wordBits w 0 10 = 8 from hp.2.2.2.2.1,
    show wordFin 32 w 20 = d from Fin.ext hp.2.1,
    show wordFin 32 w 15 = a from Fin.ext hp.2.2.1,
    show wordFin 32 w 10 = b from Fin.ext hp.2.2.2.1]
  try rfl

theorem Roundtrip.bnkopCas (d : GReg) (a : GReg) (b : GReg) : Roundtrip.Statement (.bnkopCas d a b) := by
  refine Roundtrip.of_raw _ ?_
  have hp := pack_fields (l := [(0x54, 7), (d.val, 5), (a.val, 5), (b.val, 5), (9, 10)]) ⟨by decide, d.isLt, a.isLt, b.isLt, by decide, trivial⟩
  change decodeRaw (packWord [(0x54, 7), (d.val, 5), (a.val, 5), (b.val, 5), (9, 10)]) = _
  generalize packWord [(0x54, 7), (d.val, 5), (a.val, 5), (b.val, 5), (9, 10)] = w at *
  rw [decodeRaw_54 hp.1]
  unfold decodeMajor54
  rw [show wordBits w 0 10 = 9 from hp.2.2.2.2.1,
    show wordFin 32 w 20 = d from Fin.ext hp.2.1,
    show wordFin 32 w 15 = a from Fin.ext hp.2.2.1,
    show wordFin 32 w 10 = b from Fin.ext hp.2.2.2.1]
  try rfl

theorem Roundtrip.bnkopFadd32 (d : GReg) (a : GReg) (b : GReg) : Roundtrip.Statement (.bnkopFadd32 d a b) := by
  refine Roundtrip.of_raw _ ?_
  have hp := pack_fields (l := [(0x54, 7), (d.val, 5), (a.val, 5), (b.val, 5), (10, 10)]) ⟨by decide, d.isLt, a.isLt, b.isLt, by decide, trivial⟩
  change decodeRaw (packWord [(0x54, 7), (d.val, 5), (a.val, 5), (b.val, 5), (10, 10)]) = _
  generalize packWord [(0x54, 7), (d.val, 5), (a.val, 5), (b.val, 5), (10, 10)] = w at *
  rw [decodeRaw_54 hp.1]
  unfold decodeMajor54
  rw [show wordBits w 0 10 = 10 from hp.2.2.2.2.1,
    show wordFin 32 w 20 = d from Fin.ext hp.2.1,
    show wordFin 32 w 15 = a from Fin.ext hp.2.2.1,
    show wordFin 32 w 10 = b from Fin.ext hp.2.2.2.1]
  try rfl

theorem Roundtrip.bnkopFadd64 (d : GReg) (a : GReg) (b : GReg) : Roundtrip.Statement (.bnkopFadd64 d a b) := by
  refine Roundtrip.of_raw _ ?_
  have hp := pack_fields (l := [(0x54, 7), (d.val, 5), (a.val, 5), (b.val, 5), (11, 10)]) ⟨by decide, d.isLt, a.isLt, b.isLt, by decide, trivial⟩
  change decodeRaw (packWord [(0x54, 7), (d.val, 5), (a.val, 5), (b.val, 5), (11, 10)]) = _
  generalize packWord [(0x54, 7), (d.val, 5), (a.val, 5), (b.val, 5), (11, 10)] = w at *
  rw [decodeRaw_54 hp.1]
  unfold decodeMajor54
  rw [show wordBits w 0 10 = 11 from hp.2.2.2.2.1,
    show wordFin 32 w 20 = d from Fin.ext hp.2.1,
    show wordFin 32 w 15 = a from Fin.ext hp.2.2.1,
    show wordFin 32 w 10 = b from Fin.ext hp.2.2.2.1]
  try rfl

theorem Roundtrip.bnkrdF32 (d : GReg) (a : GReg) : Roundtrip.Statement (.bnkrdF32 d a) := by
  refine Roundtrip.of_raw _ ?_
  have hp := pack_fields (l := [(0x54, 7), (d.val, 5), (a.val, 5), (0, 5), (16, 10)]) ⟨by decide, d.isLt, a.isLt, by decide, by decide, trivial⟩
  change decodeRaw (packWord [(0x54, 7), (d.val, 5), (a.val, 5), (0, 5), (16, 10)]) = _
  generalize packWord [(0x54, 7), (d.val, 5), (a.val, 5), (0, 5), (16, 10)] = w at *
  rw [decodeRaw_54 hp.1]
  have f : wordBits w 0 10 = 16 := hp.2.2.2.2.1
  have g0 : wordBits w 10 5 = 0 := hp.2.2.2.1
  simp only [decodeMajor54, f, g0, ↓reduceIte]
  rw [show wordFin 32 w 20 = d from Fin.ext hp.2.1,
    show wordFin 32 w 15 = a from Fin.ext hp.2.2.1]

theorem Roundtrip.bnkrdBf16 (d : GReg) (a : GReg) : Roundtrip.Statement (.bnkrdBf16 d a) := by
  refine Roundtrip.of_raw _ ?_
  have hp := pack_fields (l := [(0x54, 7), (d.val, 5), (a.val, 5), (0, 5), (17, 10)]) ⟨by decide, d.isLt, a.isLt, by decide, by decide, trivial⟩
  change decodeRaw (packWord [(0x54, 7), (d.val, 5), (a.val, 5), (0, 5), (17, 10)]) = _
  generalize packWord [(0x54, 7), (d.val, 5), (a.val, 5), (0, 5), (17, 10)] = w at *
  rw [decodeRaw_54 hp.1]
  have f : wordBits w 0 10 = 17 := hp.2.2.2.2.1
  have g0 : wordBits w 10 5 = 0 := hp.2.2.2.1
  simp only [decodeMajor54, f, g0, ↓reduceIte]
  rw [show wordFin 32 w 20 = d from Fin.ext hp.2.1,
    show wordFin 32 w 15 = a from Fin.ext hp.2.2.1]

theorem Roundtrip.bnkrdF64 (d : GReg) (a : GReg) : Roundtrip.Statement (.bnkrdF64 d a) := by
  refine Roundtrip.of_raw _ ?_
  have hp := pack_fields (l := [(0x54, 7), (d.val, 5), (a.val, 5), (0, 5), (18, 10)]) ⟨by decide, d.isLt, a.isLt, by decide, by decide, trivial⟩
  change decodeRaw (packWord [(0x54, 7), (d.val, 5), (a.val, 5), (0, 5), (18, 10)]) = _
  generalize packWord [(0x54, 7), (d.val, 5), (a.val, 5), (0, 5), (18, 10)] = w at *
  rw [decodeRaw_54 hp.1]
  have f : wordBits w 0 10 = 18 := hp.2.2.2.2.1
  have g0 : wordBits w 10 5 = 0 := hp.2.2.2.1
  simp only [decodeMajor54, f, g0, ↓reduceIte]
  rw [show wordFin 32 w 20 = d from Fin.ext hp.2.1,
    show wordFin 32 w 15 = a from Fin.ext hp.2.2.1]

theorem Roundtrip.bnkrdF32Z (d : GReg) (a : GReg) : Roundtrip.Statement (.bnkrdF32Z d a) := by
  refine Roundtrip.of_raw _ ?_
  have hp := pack_fields (l := [(0x54, 7), (d.val, 5), (a.val, 5), (0, 5), (20, 10)]) ⟨by decide, d.isLt, a.isLt, by decide, by decide, trivial⟩
  change decodeRaw (packWord [(0x54, 7), (d.val, 5), (a.val, 5), (0, 5), (20, 10)]) = _
  generalize packWord [(0x54, 7), (d.val, 5), (a.val, 5), (0, 5), (20, 10)] = w at *
  rw [decodeRaw_54 hp.1]
  have f : wordBits w 0 10 = 20 := hp.2.2.2.2.1
  have g0 : wordBits w 10 5 = 0 := hp.2.2.2.1
  simp only [decodeMajor54, f, g0, ↓reduceIte]
  rw [show wordFin 32 w 20 = d from Fin.ext hp.2.1,
    show wordFin 32 w 15 = a from Fin.ext hp.2.2.1]

theorem Roundtrip.bnkrdBf16Z (d : GReg) (a : GReg) : Roundtrip.Statement (.bnkrdBf16Z d a) := by
  refine Roundtrip.of_raw _ ?_
  have hp := pack_fields (l := [(0x54, 7), (d.val, 5), (a.val, 5), (0, 5), (21, 10)]) ⟨by decide, d.isLt, a.isLt, by decide, by decide, trivial⟩
  change decodeRaw (packWord [(0x54, 7), (d.val, 5), (a.val, 5), (0, 5), (21, 10)]) = _
  generalize packWord [(0x54, 7), (d.val, 5), (a.val, 5), (0, 5), (21, 10)] = w at *
  rw [decodeRaw_54 hp.1]
  have f : wordBits w 0 10 = 21 := hp.2.2.2.2.1
  have g0 : wordBits w 10 5 = 0 := hp.2.2.2.1
  simp only [decodeMajor54, f, g0, ↓reduceIte]
  rw [show wordFin 32 w 20 = d from Fin.ext hp.2.1,
    show wordFin 32 w 15 = a from Fin.ext hp.2.2.1]

theorem Roundtrip.bnkrdF64Z (d : GReg) (a : GReg) : Roundtrip.Statement (.bnkrdF64Z d a) := by
  refine Roundtrip.of_raw _ ?_
  have hp := pack_fields (l := [(0x54, 7), (d.val, 5), (a.val, 5), (0, 5), (22, 10)]) ⟨by decide, d.isLt, a.isLt, by decide, by decide, trivial⟩
  change decodeRaw (packWord [(0x54, 7), (d.val, 5), (a.val, 5), (0, 5), (22, 10)]) = _
  generalize packWord [(0x54, 7), (d.val, 5), (a.val, 5), (0, 5), (22, 10)] = w at *
  rw [decodeRaw_54 hp.1]
  have f : wordBits w 0 10 = 22 := hp.2.2.2.2.1
  have g0 : wordBits w 10 5 = 0 := hp.2.2.2.1
  simp only [decodeMajor54, f, g0, ↓reduceIte]
  rw [show wordFin 32 w 20 = d from Fin.ext hp.2.1,
    show wordFin 32 w 15 = a from Fin.ext hp.2.2.1]

theorem Roundtrip.gstr (d : GReg) (a : GReg) : Roundtrip.Statement (.gstr d a) := by
  refine Roundtrip.of_raw _ ?_
  have hp := pack_fields (l := [(0x58, 7), (d.val, 5), (a.val, 5), (0, 5), (0, 10)]) ⟨by decide, d.isLt, a.isLt, by decide, by decide, trivial⟩
  change decodeRaw (packWord [(0x58, 7), (d.val, 5), (a.val, 5), (0, 5), (0, 10)]) = _
  generalize packWord [(0x58, 7), (d.val, 5), (a.val, 5), (0, 5), (0, 10)] = w at *
  rw [decodeRaw_58 hp.1]
  have f : wordBits w 0 10 = 0 := hp.2.2.2.2.1
  have g0 : wordBits w 10 5 = 0 := hp.2.2.2.1
  simp only [decodeMajor58, f, g0, ↓reduceIte]
  rw [show wordFin 32 w 20 = d from Fin.ext hp.2.1,
    show wordFin 32 w 15 = a from Fin.ext hp.2.2.1]

theorem Roundtrip.gstop (a : GReg) : Roundtrip.Statement (.gstop a) := by
  refine Roundtrip.of_raw _ ?_
  have hp := pack_fields (l := [(0x58, 7), (0, 5), (a.val, 5), (0, 5), (1, 10)]) ⟨by decide, by decide, a.isLt, by decide, by decide, trivial⟩
  change decodeRaw (packWord [(0x58, 7), (0, 5), (a.val, 5), (0, 5), (1, 10)]) = _
  generalize packWord [(0x58, 7), (0, 5), (a.val, 5), (0, 5), (1, 10)] = w at *
  rw [decodeRaw_58 hp.1]
  have f : wordBits w 0 10 = 1 := hp.2.2.2.2.1
  have g0 : wordBits w 10 5 = 0 := hp.2.2.2.1
  have g1 : wordBits w 20 5 = 0 := hp.2.1
  simp only [decodeMajor58, f, g0, g1, and_self, ↓reduceIte]
  rw [show wordFin 32 w 15 = a from Fin.ext hp.2.2.1]

theorem Roundtrip.copy (d : GReg) (a : GReg) (b : GReg) : Roundtrip.Statement (.copy d a b) := by
  refine Roundtrip.of_raw _ ?_
  have hp := pack_fields (l := [(0x58, 7), (d.val, 5), (a.val, 5), (b.val, 5), (4, 10)]) ⟨by decide, d.isLt, a.isLt, b.isLt, by decide, trivial⟩
  change decodeRaw (packWord [(0x58, 7), (d.val, 5), (a.val, 5), (b.val, 5), (4, 10)]) = _
  generalize packWord [(0x58, 7), (d.val, 5), (a.val, 5), (b.val, 5), (4, 10)] = w at *
  rw [decodeRaw_58 hp.1]
  unfold decodeMajor58
  rw [show wordBits w 0 10 = 4 from hp.2.2.2.2.1,
    show wordFin 32 w 20 = d from Fin.ext hp.2.1,
    show wordFin 32 w 15 = a from Fin.ext hp.2.2.1,
    show wordFin 32 w 10 = b from Fin.ext hp.2.2.2.1]
  try rfl

theorem Roundtrip.copyMt (d : GReg) (a : GReg) (b : GReg) : Roundtrip.Statement (.copyMt d a b) := by
  refine Roundtrip.of_raw _ ?_
  have hp := pack_fields (l := [(0x58, 7), (d.val, 5), (a.val, 5), (b.val, 5), (5, 10)]) ⟨by decide, d.isLt, a.isLt, b.isLt, by decide, trivial⟩
  change decodeRaw (packWord [(0x58, 7), (d.val, 5), (a.val, 5), (b.val, 5), (5, 10)]) = _
  generalize packWord [(0x58, 7), (d.val, 5), (a.val, 5), (b.val, 5), (5, 10)] = w at *
  rw [decodeRaw_58 hp.1]
  unfold decodeMajor58
  rw [show wordBits w 0 10 = 5 from hp.2.2.2.2.1,
    show wordFin 32 w 20 = d from Fin.ext hp.2.1,
    show wordFin 32 w 15 = a from Fin.ext hp.2.2.1,
    show wordFin 32 w 10 = b from Fin.ext hp.2.2.2.1]
  try rfl

theorem Roundtrip.copyTm (d : GReg) (a : GReg) (b : GReg) : Roundtrip.Statement (.copyTm d a b) := by
  refine Roundtrip.of_raw _ ?_
  have hp := pack_fields (l := [(0x58, 7), (d.val, 5), (a.val, 5), (b.val, 5), (6, 10)]) ⟨by decide, d.isLt, a.isLt, b.isLt, by decide, trivial⟩
  change decodeRaw (packWord [(0x58, 7), (d.val, 5), (a.val, 5), (b.val, 5), (6, 10)]) = _
  generalize packWord [(0x58, 7), (d.val, 5), (a.val, 5), (b.val, 5), (6, 10)] = w at *
  rw [decodeRaw_58 hp.1]
  unfold decodeMajor58
  rw [show wordBits w 0 10 = 6 from hp.2.2.2.2.1,
    show wordFin 32 w 20 = d from Fin.ext hp.2.1,
    show wordFin 32 w 15 = a from Fin.ext hp.2.2.1,
    show wordFin 32 w 10 = b from Fin.ext hp.2.2.2.1]
  try rfl

theorem Roundtrip.copyTt (d : GReg) (a : GReg) (b : GReg) : Roundtrip.Statement (.copyTt d a b) := by
  refine Roundtrip.of_raw _ ?_
  have hp := pack_fields (l := [(0x58, 7), (d.val, 5), (a.val, 5), (b.val, 5), (7, 10)]) ⟨by decide, d.isLt, a.isLt, b.isLt, by decide, trivial⟩
  change decodeRaw (packWord [(0x58, 7), (d.val, 5), (a.val, 5), (b.val, 5), (7, 10)]) = _
  generalize packWord [(0x58, 7), (d.val, 5), (a.val, 5), (b.val, 5), (7, 10)] = w at *
  rw [decodeRaw_58 hp.1]
  unfold decodeMajor58
  rw [show wordBits w 0 10 = 7 from hp.2.2.2.2.1,
    show wordFin 32 w 20 = d from Fin.ext hp.2.1,
    show wordFin 32 w 15 = a from Fin.ext hp.2.2.1,
    show wordFin 32 w 10 = b from Fin.ext hp.2.2.2.1]
  try rfl

theorem Roundtrip.cplw (p : Fin 8) (a : GReg) : Roundtrip.Statement (.cplw p a) := by
  refine Roundtrip.of_raw _ ?_
  have hp := pack_fields (l := [(0x58, 7), (0, 2), (p.val, 3), (a.val, 5), (0, 5), (8, 10)]) ⟨by decide, by decide, p.isLt, a.isLt, by decide, by decide, trivial⟩
  change decodeRaw (packWord [(0x58, 7), (0, 2), (p.val, 3), (a.val, 5), (0, 5), (8, 10)]) = _
  generalize packWord [(0x58, 7), (0, 2), (p.val, 3), (a.val, 5), (0, 5), (8, 10)] = w at *
  rw [decodeRaw_58 hp.1]
  have f : wordBits w 0 10 = 8 := hp.2.2.2.2.2.1
  have g0 : wordBits w 10 5 = 0 := hp.2.2.2.2.1
  have g1 : wordBits w 23 2 = 0 := hp.2.1
  simp only [decodeMajor58, f, g0, g1, and_self, ↓reduceIte]
  rw [show wordFin 8 w 20 = p from Fin.ext hp.2.2.1,
    show wordFin 32 w 15 = a from Fin.ext hp.2.2.2.1]

theorem Roundtrip.oncpl (p : Fin 8) (a : GReg) (b : GReg) : Roundtrip.Statement (.oncpl p a b) := by
  refine Roundtrip.of_raw _ ?_
  have hp := pack_fields (l := [(0x58, 7), (0, 2), (p.val, 3), (a.val, 5), (b.val, 5), (9, 10)]) ⟨by decide, by decide, p.isLt, a.isLt, b.isLt, by decide, trivial⟩
  change decodeRaw (packWord [(0x58, 7), (0, 2), (p.val, 3), (a.val, 5), (b.val, 5), (9, 10)]) = _
  generalize packWord [(0x58, 7), (0, 2), (p.val, 3), (a.val, 5), (b.val, 5), (9, 10)] = w at *
  rw [decodeRaw_58 hp.1]
  have f : wordBits w 0 10 = 9 := hp.2.2.2.2.2.1
  have g0 : wordBits w 23 2 = 0 := hp.2.1
  simp only [decodeMajor58, f, g0, ↓reduceIte]
  rw [show wordFin 8 w 20 = p from Fin.ext hp.2.2.1,
    show wordFin 32 w 15 = a from Fin.ext hp.2.2.2.1,
    show wordFin 32 w 10 = b from Fin.ext hp.2.2.2.2.1]

theorem Roundtrip.upret : Roundtrip.Statement .upret := by
  refine Roundtrip.of_raw _ ?_
  have hp := pack_fields (l := [(0x58, 7), (0, 15), (10, 10)]) ⟨by decide, by decide, by decide, trivial⟩
  change decodeRaw (packWord [(0x58, 7), (0, 15), (10, 10)]) = _
  generalize packWord [(0x58, 7), (0, 15), (10, 10)] = w at *
  rw [decodeRaw_58 hp.1]
  have f : wordBits w 0 10 = 10 := hp.2.2.1
  have g0 : wordBits w 10 15 = 0 := hp.2.1
  simp only [decodeMajor58, f, g0, ↓reduceIte]

theorem Roundtrip.resid (a : GReg) (b : GReg) : Roundtrip.Statement (.resid a b) := by
  refine Roundtrip.of_raw _ ?_
  have hp := pack_fields (l := [(0x58, 7), (0, 5), (a.val, 5), (b.val, 5), (16, 10)]) ⟨by decide, by decide, a.isLt, b.isLt, by decide, trivial⟩
  change decodeRaw (packWord [(0x58, 7), (0, 5), (a.val, 5), (b.val, 5), (16, 10)]) = _
  generalize packWord [(0x58, 7), (0, 5), (a.val, 5), (b.val, 5), (16, 10)] = w at *
  rw [decodeRaw_58 hp.1]
  have f : wordBits w 0 10 = 16 := hp.2.2.2.2.1
  have g0 : wordBits w 20 5 = 0 := hp.2.1
  simp only [decodeMajor58, f, g0, ↓reduceIte]
  rw [show wordFin 32 w 15 = a from Fin.ext hp.2.2.1,
    show wordFin 32 w 10 = b from Fin.ext hp.2.2.2.1]

theorem Roundtrip.demote (a : GReg) : Roundtrip.Statement (.demote a) := by
  refine Roundtrip.of_raw _ ?_
  have hp := pack_fields (l := [(0x58, 7), (0, 5), (a.val, 5), (0, 5), (17, 10)]) ⟨by decide, by decide, a.isLt, by decide, by decide, trivial⟩
  change decodeRaw (packWord [(0x58, 7), (0, 5), (a.val, 5), (0, 5), (17, 10)]) = _
  generalize packWord [(0x58, 7), (0, 5), (a.val, 5), (0, 5), (17, 10)] = w at *
  rw [decodeRaw_58 hp.1]
  have f : wordBits w 0 10 = 17 := hp.2.2.2.2.1
  have g0 : wordBits w 10 5 = 0 := hp.2.2.2.1
  have g1 : wordBits w 20 5 = 0 := hp.2.1
  simp only [decodeMajor58, f, g0, g1, and_self, ↓reduceIte]
  rw [show wordFin 32 w 15 = a from Fin.ext hp.2.2.1]

theorem Roundtrip.discard (a : GReg) (b : GReg) : Roundtrip.Statement (.discard a b) := by
  refine Roundtrip.of_raw _ ?_
  have hp := pack_fields (l := [(0x58, 7), (0, 5), (a.val, 5), (b.val, 5), (18, 10)]) ⟨by decide, by decide, a.isLt, b.isLt, by decide, trivial⟩
  change decodeRaw (packWord [(0x58, 7), (0, 5), (a.val, 5), (b.val, 5), (18, 10)]) = _
  generalize packWord [(0x58, 7), (0, 5), (a.val, 5), (b.val, 5), (18, 10)] = w at *
  rw [decodeRaw_58 hp.1]
  have f : wordBits w 0 10 = 18 := hp.2.2.2.2.1
  have g0 : wordBits w 20 5 = 0 := hp.2.1
  simp only [decodeMajor58, f, g0, ↓reduceIte]
  rw [show wordFin 32 w 15 = a from Fin.ext hp.2.2.1,
    show wordFin 32 w 10 = b from Fin.ext hp.2.2.2.1]

theorem Roundtrip.pghint (c : Fin 4) (a : GReg) (b : GReg) : Roundtrip.Statement (.pghint c a b) := by
  refine Roundtrip.of_raw _ ?_
  have hp := pack_fields (l := [(0x58, 7), (0, 3), (c.val, 2), (a.val, 5), (b.val, 5), (19, 10)]) ⟨by decide, by decide, c.isLt, a.isLt, b.isLt, by decide, trivial⟩
  change decodeRaw (packWord [(0x58, 7), (0, 3), (c.val, 2), (a.val, 5), (b.val, 5), (19, 10)]) = _
  generalize packWord [(0x58, 7), (0, 3), (c.val, 2), (a.val, 5), (b.val, 5), (19, 10)] = w at *
  rw [decodeRaw_58 hp.1]
  have f : wordBits w 0 10 = 19 := hp.2.2.2.2.2.1
  have g0 : wordBits w 22 3 = 0 := hp.2.1
  simp only [decodeMajor58, f, g0, ↓reduceIte]
  rw [show wordFin 4 w 20 = c from Fin.ext hp.2.2.1,
    show wordFin 32 w 15 = a from Fin.ext hp.2.2.2.1,
    show wordFin 32 w 10 = b from Fin.ext hp.2.2.2.2.1]

theorem Roundtrip.gath (d : GReg) (a : GReg) (b : VReg) (mk : MReg) (me : Bool) (x : Fin 2) (l : Fin 16) : Roundtrip.Statement (.gath d a b mk me x l) := by
  refine Roundtrip.of_raw _ ?_
  have hp := pack_fields (l := [(0x59, 7), (d.val, 5), (a.val, 5), (b.val, 5), (mk.val, 4), (me.toNat, 1), (x.val, 1), (l.val, 4)]) ⟨by decide, d.isLt, a.isLt, b.isLt, mk.isLt, Bool.toNat_lt me, x.isLt, l.isLt, trivial⟩
  change decodeRaw (packWord [(0x59, 7), (d.val, 5), (a.val, 5), (b.val, 5), (mk.val, 4), (me.toNat, 1), (x.val, 1), (l.val, 4)]) = _
  generalize packWord [(0x59, 7), (d.val, 5), (a.val, 5), (b.val, 5), (mk.val, 4), (me.toNat, 1), (x.val, 1), (l.val, 4)] = w at *
  rw [decodeRaw_59 hp.1]
  unfold decodeMajor59
  rw [show wordFin 32 w 20 = d from Fin.ext hp.2.1,
    show wordFin 32 w 15 = a from Fin.ext hp.2.2.1,
    show wordFin 32 w 10 = b from Fin.ext hp.2.2.2.1,
    show wordFin 16 w 6 = mk from Fin.ext hp.2.2.2.2.1,
    show (wordBits w 5 1 == 1) = me from bool_bits _ hp.2.2.2.2.2.1,
    show wordFin 2 w 4 = x from Fin.ext hp.2.2.2.2.2.2.1,
    show wordFin 16 w 0 = l from Fin.ext hp.2.2.2.2.2.2.2.1]

theorem Roundtrip.ccfg (d : GReg) (a : GReg) (b : GReg) : Roundtrip.Statement (.ccfg d a b) := by
  refine Roundtrip.of_raw _ ?_
  have hp := pack_fields (l := [(0x5E, 7), (d.val, 5), (a.val, 5), (b.val, 5), (0, 10)]) ⟨by decide, d.isLt, a.isLt, b.isLt, by decide, trivial⟩
  change decodeRaw (packWord [(0x5E, 7), (d.val, 5), (a.val, 5), (b.val, 5), (0, 10)]) = _
  generalize packWord [(0x5E, 7), (d.val, 5), (a.val, 5), (b.val, 5), (0, 10)] = w at *
  rw [decodeRaw_5E hp.1]
  unfold decodeMajor5E
  rw [show wordBits w 0 10 = 0 from hp.2.2.2.2.1,
    show wordFin 32 w 20 = d from Fin.ext hp.2.1,
    show wordFin 32 w 15 = a from Fin.ext hp.2.2.1,
    show wordFin 32 w 10 = b from Fin.ext hp.2.2.2.1]
  try rfl

theorem Roundtrip.cap (d : GReg) (a : GReg) (b : GReg) : Roundtrip.Statement (.cap d a b) := by
  refine Roundtrip.of_raw _ ?_
  have hp := pack_fields (l := [(0x5E, 7), (d.val, 5), (a.val, 5), (b.val, 5), (1, 10)]) ⟨by decide, d.isLt, a.isLt, b.isLt, by decide, trivial⟩
  change decodeRaw (packWord [(0x5E, 7), (d.val, 5), (a.val, 5), (b.val, 5), (1, 10)]) = _
  generalize packWord [(0x5E, 7), (d.val, 5), (a.val, 5), (b.val, 5), (1, 10)] = w at *
  rw [decodeRaw_5E hp.1]
  unfold decodeMajor5E
  rw [show wordBits w 0 10 = 1 from hp.2.2.2.2.1,
    show wordFin 32 w 20 = d from Fin.ext hp.2.1,
    show wordFin 32 w 15 = a from Fin.ext hp.2.2.1,
    show wordFin 32 w 10 = b from Fin.ext hp.2.2.2.1]
  try rfl

theorem Roundtrip.capP (d : GReg) (a : GReg) (b : GReg) : Roundtrip.Statement (.capP d a b) := by
  refine Roundtrip.of_raw _ ?_
  have hp := pack_fields (l := [(0x5E, 7), (d.val, 5), (a.val, 5), (b.val, 5), (2, 10)]) ⟨by decide, d.isLt, a.isLt, b.isLt, by decide, trivial⟩
  change decodeRaw (packWord [(0x5E, 7), (d.val, 5), (a.val, 5), (b.val, 5), (2, 10)]) = _
  generalize packWord [(0x5E, 7), (d.val, 5), (a.val, 5), (b.val, 5), (2, 10)] = w at *
  rw [decodeRaw_5E hp.1]
  unfold decodeMajor5E
  rw [show wordBits w 0 10 = 2 from hp.2.2.2.2.1,
    show wordFin 32 w 20 = d from Fin.ext hp.2.1,
    show wordFin 32 w 15 = a from Fin.ext hp.2.2.1,
    show wordFin 32 w 10 = b from Fin.ext hp.2.2.2.1]
  try rfl

theorem Roundtrip.cslot (d : GReg) (a : GReg) (b : GReg) : Roundtrip.Statement (.cslot d a b) := by
  refine Roundtrip.of_raw _ ?_
  have hp := pack_fields (l := [(0x5E, 7), (d.val, 5), (a.val, 5), (b.val, 5), (3, 10)]) ⟨by decide, d.isLt, a.isLt, b.isLt, by decide, trivial⟩
  change decodeRaw (packWord [(0x5E, 7), (d.val, 5), (a.val, 5), (b.val, 5), (3, 10)]) = _
  generalize packWord [(0x5E, 7), (d.val, 5), (a.val, 5), (b.val, 5), (3, 10)] = w at *
  rw [decodeRaw_5E hp.1]
  unfold decodeMajor5E
  rw [show wordBits w 0 10 = 3 from hp.2.2.2.2.1,
    show wordFin 32 w 20 = d from Fin.ext hp.2.1,
    show wordFin 32 w 15 = a from Fin.ext hp.2.2.1,
    show wordFin 32 w 10 = b from Fin.ext hp.2.2.2.1]
  try rfl

theorem Roundtrip.cslotFree (d : GReg) (a : GReg) (b : GReg) : Roundtrip.Statement (.cslotFree d a b) := by
  refine Roundtrip.of_raw _ ?_
  have hp := pack_fields (l := [(0x5E, 7), (d.val, 5), (a.val, 5), (b.val, 5), (4, 10)]) ⟨by decide, d.isLt, a.isLt, b.isLt, by decide, trivial⟩
  change decodeRaw (packWord [(0x5E, 7), (d.val, 5), (a.val, 5), (b.val, 5), (4, 10)]) = _
  generalize packWord [(0x5E, 7), (d.val, 5), (a.val, 5), (b.val, 5), (4, 10)] = w at *
  rw [decodeRaw_5E hp.1]
  unfold decodeMajor5E
  rw [show wordBits w 0 10 = 4 from hp.2.2.2.2.1,
    show wordFin 32 w 20 = d from Fin.ext hp.2.1,
    show wordFin 32 w 15 = a from Fin.ext hp.2.2.1,
    show wordFin 32 w 10 = b from Fin.ext hp.2.2.2.1]
  try rfl

theorem Roundtrip.ctake (d : GReg) (a : GReg) : Roundtrip.Statement (.ctake d a) := by
  refine Roundtrip.of_raw _ ?_
  have hp := pack_fields (l := [(0x5E, 7), (d.val, 5), (a.val, 5), (0, 5), (5, 10)]) ⟨by decide, d.isLt, a.isLt, by decide, by decide, trivial⟩
  change decodeRaw (packWord [(0x5E, 7), (d.val, 5), (a.val, 5), (0, 5), (5, 10)]) = _
  generalize packWord [(0x5E, 7), (d.val, 5), (a.val, 5), (0, 5), (5, 10)] = w at *
  rw [decodeRaw_5E hp.1]
  have f : wordBits w 0 10 = 5 := hp.2.2.2.2.1
  have g0 : wordBits w 10 5 = 0 := hp.2.2.2.1
  simp only [decodeMajor5E, f, g0, ↓reduceIte]
  rw [show wordFin 32 w 20 = d from Fin.ext hp.2.1,
    show wordFin 32 w 15 = a from Fin.ext hp.2.2.1]

theorem Roundtrip.cstat (d : GReg) (a : GReg) (c : Fin 32) : Roundtrip.Statement (.cstat d a c) := by
  refine Roundtrip.of_raw _ ?_
  have hp := pack_fields (l := [(0x5E, 7), (d.val, 5), (a.val, 5), (c.val, 5), (6, 10)]) ⟨by decide, d.isLt, a.isLt, c.isLt, by decide, trivial⟩
  change decodeRaw (packWord [(0x5E, 7), (d.val, 5), (a.val, 5), (c.val, 5), (6, 10)]) = _
  generalize packWord [(0x5E, 7), (d.val, 5), (a.val, 5), (c.val, 5), (6, 10)] = w at *
  rw [decodeRaw_5E hp.1]
  unfold decodeMajor5E
  rw [show wordBits w 0 10 = 6 from hp.2.2.2.2.1,
    show wordFin 32 w 20 = d from Fin.ext hp.2.1,
    show wordFin 32 w 15 = a from Fin.ext hp.2.2.1,
    show wordFin 32 w 10 = c from Fin.ext hp.2.2.2.1]
  try rfl

theorem Roundtrip.fadd (d : GReg) (a : GReg) (b : GReg) (r : Fin 8) (t : Fin 8) : Roundtrip.Statement (.fadd d a b r t) := by
  refine Roundtrip.of_raw _ ?_
  have hp := pack_fields (l := [(0x60, 7), (d.val, 5), (a.val, 5), (b.val, 5), (r.val, 3), (0, 4), (t.val, 3)]) ⟨by decide, d.isLt, a.isLt, b.isLt, r.isLt, by decide, t.isLt, trivial⟩
  change decodeRaw (packWord [(0x60, 7), (d.val, 5), (a.val, 5), (b.val, 5), (r.val, 3), (0, 4), (t.val, 3)]) = _
  generalize packWord [(0x60, 7), (d.val, 5), (a.val, 5), (b.val, 5), (r.val, 3), (0, 4), (t.val, 3)] = w at *
  rw [decodeRaw_60 hp.1]
  have g0 : wordBits w 3 4 = 0 := hp.2.2.2.2.2.1
  simp only [decodeMajor60, g0, and_true, true_and, and_false, false_and, and_self, Nat.reduceEqDiff, Nat.one_ne_zero, Nat.zero_ne_one, Nat.succ_ne_zero, ↓reduceIte]
  rw [show wordFin 32 w 20 = d from Fin.ext hp.2.1,
    show wordFin 32 w 15 = a from Fin.ext hp.2.2.1,
    show wordFin 32 w 10 = b from Fin.ext hp.2.2.2.1,
    show wordFin 8 w 7 = r from Fin.ext hp.2.2.2.2.1,
    show wordFin 8 w 0 = t from Fin.ext hp.2.2.2.2.2.2.1]

theorem Roundtrip.fsub (d : GReg) (a : GReg) (b : GReg) (r : Fin 8) (t : Fin 8) : Roundtrip.Statement (.fsub d a b r t) := by
  refine Roundtrip.of_raw _ ?_
  have hp := pack_fields (l := [(0x60, 7), (d.val, 5), (a.val, 5), (b.val, 5), (r.val, 3), (1, 4), (t.val, 3)]) ⟨by decide, d.isLt, a.isLt, b.isLt, r.isLt, by decide, t.isLt, trivial⟩
  change decodeRaw (packWord [(0x60, 7), (d.val, 5), (a.val, 5), (b.val, 5), (r.val, 3), (1, 4), (t.val, 3)]) = _
  generalize packWord [(0x60, 7), (d.val, 5), (a.val, 5), (b.val, 5), (r.val, 3), (1, 4), (t.val, 3)] = w at *
  rw [decodeRaw_60 hp.1]
  have g0 : wordBits w 3 4 = 1 := hp.2.2.2.2.2.1
  simp only [decodeMajor60, g0, and_true, true_and, and_false, false_and, and_self, Nat.reduceEqDiff, Nat.one_ne_zero, Nat.zero_ne_one, Nat.succ_ne_zero, ↓reduceIte]
  rw [show wordFin 32 w 20 = d from Fin.ext hp.2.1,
    show wordFin 32 w 15 = a from Fin.ext hp.2.2.1,
    show wordFin 32 w 10 = b from Fin.ext hp.2.2.2.1,
    show wordFin 8 w 7 = r from Fin.ext hp.2.2.2.2.1,
    show wordFin 8 w 0 = t from Fin.ext hp.2.2.2.2.2.2.1]

theorem Roundtrip.fmul (d : GReg) (a : GReg) (b : GReg) (r : Fin 8) (t : Fin 8) : Roundtrip.Statement (.fmul d a b r t) := by
  refine Roundtrip.of_raw _ ?_
  have hp := pack_fields (l := [(0x60, 7), (d.val, 5), (a.val, 5), (b.val, 5), (r.val, 3), (2, 4), (t.val, 3)]) ⟨by decide, d.isLt, a.isLt, b.isLt, r.isLt, by decide, t.isLt, trivial⟩
  change decodeRaw (packWord [(0x60, 7), (d.val, 5), (a.val, 5), (b.val, 5), (r.val, 3), (2, 4), (t.val, 3)]) = _
  generalize packWord [(0x60, 7), (d.val, 5), (a.val, 5), (b.val, 5), (r.val, 3), (2, 4), (t.val, 3)] = w at *
  rw [decodeRaw_60 hp.1]
  have g0 : wordBits w 3 4 = 2 := hp.2.2.2.2.2.1
  simp only [decodeMajor60, g0, and_true, true_and, and_false, false_and, and_self, Nat.reduceEqDiff, Nat.one_ne_zero, Nat.zero_ne_one, Nat.succ_ne_zero, ↓reduceIte]
  rw [show wordFin 32 w 20 = d from Fin.ext hp.2.1,
    show wordFin 32 w 15 = a from Fin.ext hp.2.2.1,
    show wordFin 32 w 10 = b from Fin.ext hp.2.2.2.1,
    show wordFin 8 w 7 = r from Fin.ext hp.2.2.2.2.1,
    show wordFin 8 w 0 = t from Fin.ext hp.2.2.2.2.2.2.1]

theorem Roundtrip.ffma (d : GReg) (a : GReg) (b : GReg) (r : Fin 8) (t : Fin 8) : Roundtrip.Statement (.ffma d a b r t) := by
  refine Roundtrip.of_raw _ ?_
  have hp := pack_fields (l := [(0x60, 7), (d.val, 5), (a.val, 5), (b.val, 5), (r.val, 3), (3, 4), (t.val, 3)]) ⟨by decide, d.isLt, a.isLt, b.isLt, r.isLt, by decide, t.isLt, trivial⟩
  change decodeRaw (packWord [(0x60, 7), (d.val, 5), (a.val, 5), (b.val, 5), (r.val, 3), (3, 4), (t.val, 3)]) = _
  generalize packWord [(0x60, 7), (d.val, 5), (a.val, 5), (b.val, 5), (r.val, 3), (3, 4), (t.val, 3)] = w at *
  rw [decodeRaw_60 hp.1]
  have g0 : wordBits w 3 4 = 3 := hp.2.2.2.2.2.1
  simp only [decodeMajor60, g0, and_true, true_and, and_false, false_and, and_self, Nat.reduceEqDiff, Nat.one_ne_zero, Nat.zero_ne_one, Nat.succ_ne_zero, ↓reduceIte]
  rw [show wordFin 32 w 20 = d from Fin.ext hp.2.1,
    show wordFin 32 w 15 = a from Fin.ext hp.2.2.1,
    show wordFin 32 w 10 = b from Fin.ext hp.2.2.2.1,
    show wordFin 8 w 7 = r from Fin.ext hp.2.2.2.2.1,
    show wordFin 8 w 0 = t from Fin.ext hp.2.2.2.2.2.2.1]

theorem Roundtrip.fdiv (d : GReg) (a : GReg) (b : GReg) (r : Fin 8) (t : Fin 8) : Roundtrip.Statement (.fdiv d a b r t) := by
  refine Roundtrip.of_raw _ ?_
  have hp := pack_fields (l := [(0x60, 7), (d.val, 5), (a.val, 5), (b.val, 5), (r.val, 3), (4, 4), (t.val, 3)]) ⟨by decide, d.isLt, a.isLt, b.isLt, r.isLt, by decide, t.isLt, trivial⟩
  change decodeRaw (packWord [(0x60, 7), (d.val, 5), (a.val, 5), (b.val, 5), (r.val, 3), (4, 4), (t.val, 3)]) = _
  generalize packWord [(0x60, 7), (d.val, 5), (a.val, 5), (b.val, 5), (r.val, 3), (4, 4), (t.val, 3)] = w at *
  rw [decodeRaw_60 hp.1]
  have g0 : wordBits w 3 4 = 4 := hp.2.2.2.2.2.1
  simp only [decodeMajor60, g0, and_true, true_and, and_false, false_and, and_self, Nat.reduceEqDiff, Nat.one_ne_zero, Nat.zero_ne_one, Nat.succ_ne_zero, ↓reduceIte]
  rw [show wordFin 32 w 20 = d from Fin.ext hp.2.1,
    show wordFin 32 w 15 = a from Fin.ext hp.2.2.1,
    show wordFin 32 w 10 = b from Fin.ext hp.2.2.2.1,
    show wordFin 8 w 7 = r from Fin.ext hp.2.2.2.2.1,
    show wordFin 8 w 0 = t from Fin.ext hp.2.2.2.2.2.2.1]

theorem Roundtrip.fsqrt (d : GReg) (a : GReg) (r : Fin 8) (t : Fin 8) : Roundtrip.Statement (.fsqrt d a r t) := by
  refine Roundtrip.of_raw _ ?_
  have hp := pack_fields (l := [(0x60, 7), (d.val, 5), (a.val, 5), (0, 5), (r.val, 3), (5, 4), (t.val, 3)]) ⟨by decide, d.isLt, a.isLt, by decide, r.isLt, by decide, t.isLt, trivial⟩
  change decodeRaw (packWord [(0x60, 7), (d.val, 5), (a.val, 5), (0, 5), (r.val, 3), (5, 4), (t.val, 3)]) = _
  generalize packWord [(0x60, 7), (d.val, 5), (a.val, 5), (0, 5), (r.val, 3), (5, 4), (t.val, 3)] = w at *
  rw [decodeRaw_60 hp.1]
  have g0 : wordBits w 3 4 = 5 := hp.2.2.2.2.2.1
  have g1 : wordBits w 10 5 = 0 := hp.2.2.2.1
  simp only [decodeMajor60, g0, g1, and_true, true_and, and_false, false_and, and_self, Nat.reduceEqDiff, Nat.one_ne_zero, Nat.zero_ne_one, Nat.succ_ne_zero, ↓reduceIte]
  rw [show wordFin 32 w 20 = d from Fin.ext hp.2.1,
    show wordFin 32 w 15 = a from Fin.ext hp.2.2.1,
    show wordFin 8 w 7 = r from Fin.ext hp.2.2.2.2.1,
    show wordFin 8 w 0 = t from Fin.ext hp.2.2.2.2.2.2.1]

theorem Roundtrip.fcmp (d : GReg) (a : GReg) (b : GReg) (t : Fin 8) : Roundtrip.Statement (.fcmp d a b t) := by
  refine Roundtrip.of_raw _ ?_
  have hp := pack_fields (l := [(0x60, 7), (d.val, 5), (a.val, 5), (b.val, 5), (6, 7), (t.val, 3)]) ⟨by decide, d.isLt, a.isLt, b.isLt, by decide, t.isLt, trivial⟩
  change decodeRaw (packWord [(0x60, 7), (d.val, 5), (a.val, 5), (b.val, 5), (6, 7), (t.val, 3)]) = _
  generalize packWord [(0x60, 7), (d.val, 5), (a.val, 5), (b.val, 5), (6, 7), (t.val, 3)] = w at *
  rw [decodeRaw_60 hp.1]
  have g0 : wordBits w 3 7 = 6 := hp.2.2.2.2.1
  have n0 : ¬ wordBits w 3 4 = 0 := by unfold wordBits at *; omega
  have n1 : ¬ wordBits w 3 4 = 1 := by unfold wordBits at *; omega
  have n2 : ¬ wordBits w 3 4 = 2 := by unfold wordBits at *; omega
  have n3 : ¬ wordBits w 3 4 = 3 := by unfold wordBits at *; omega
  have n4 : ¬ wordBits w 3 4 = 4 := by unfold wordBits at *; omega
  have n5 : ¬ wordBits w 3 4 = 5 := by unfold wordBits at *; omega
  simp only [decodeMajor60, g0, n0, n1, n2, n3, n4, n5, false_and, ↓reduceIte]
  rw [show wordFin 32 w 20 = d from Fin.ext hp.2.1,
    show wordFin 32 w 15 = a from Fin.ext hp.2.2.1,
    show wordFin 32 w 10 = b from Fin.ext hp.2.2.2.1,
    show wordFin 8 w 0 = t from Fin.ext hp.2.2.2.2.2.1]

theorem Roundtrip.fcvt (d : GReg) (a : GReg) (s : Fin 8) (r : Fin 8) (t : Fin 8) : Roundtrip.Statement (.fcvt d a s r t) := by
  refine Roundtrip.of_raw _ ?_
  have hp := pack_fields (l := [(0x60, 7), (d.val, 5), (a.val, 5), (0, 2), (s.val, 3), (r.val, 3), (7, 4), (t.val, 3)]) ⟨by decide, d.isLt, a.isLt, by decide, s.isLt, r.isLt, by decide, t.isLt, trivial⟩
  change decodeRaw (packWord [(0x60, 7), (d.val, 5), (a.val, 5), (0, 2), (s.val, 3), (r.val, 3), (7, 4), (t.val, 3)]) = _
  generalize packWord [(0x60, 7), (d.val, 5), (a.val, 5), (0, 2), (s.val, 3), (r.val, 3), (7, 4), (t.val, 3)] = w at *
  rw [decodeRaw_60 hp.1]
  have g0 : wordBits w 3 4 = 7 := hp.2.2.2.2.2.2.1
  have g1 : wordBits w 13 2 = 0 := hp.2.2.2.1
  have n6 : ¬ wordBits w 3 7 = 6 := by unfold wordBits at *; omega
  simp only [decodeMajor60, g0, g1, n6, and_true, true_and, and_false, false_and, and_self, Nat.reduceEqDiff, Nat.one_ne_zero, Nat.zero_ne_one, Nat.succ_ne_zero, ↓reduceIte]
  rw [show wordFin 32 w 20 = d from Fin.ext hp.2.1,
    show wordFin 32 w 15 = a from Fin.ext hp.2.2.1,
    show wordFin 8 w 10 = s from Fin.ext hp.2.2.2.2.1,
    show wordFin 8 w 7 = r from Fin.ext hp.2.2.2.2.2.1,
    show wordFin 8 w 0 = t from Fin.ext hp.2.2.2.2.2.2.2.1]

theorem Roundtrip.mfs (d : GReg) (n : Fin 1024) : Roundtrip.Statement (.mfs d n) := by
  refine Roundtrip.of_raw _ ?_
  have hp := pack_fields (l := [(0x68, 7), (d.val, 5), (0, 10), (n.val, 10)]) ⟨by decide, d.isLt, by decide, n.isLt, trivial⟩
  change decodeRaw (packWord [(0x68, 7), (d.val, 5), (0, 10), (n.val, 10)]) = _
  generalize packWord [(0x68, 7), (d.val, 5), (0, 10), (n.val, 10)] = w at *
  rw [decodeRaw_68 hp.1]
  have g0 : wordBits w 10 10 = 0 := hp.2.2.1
  simp only [decodeMajor68, g0, ↓reduceIte]
  rw [show wordFin 32 w 20 = d from Fin.ext hp.2.1,
    show wordFin 1024 w 0 = n from Fin.ext hp.2.2.2.1]

theorem Roundtrip.mts (a : GReg) (n : Fin 1024) : Roundtrip.Statement (.mts a n) := by
  refine Roundtrip.of_raw _ ?_
  have hp := pack_fields (l := [(0x69, 7), (0, 5), (a.val, 5), (0, 5), (n.val, 10)]) ⟨by decide, by decide, a.isLt, by decide, n.isLt, trivial⟩
  change decodeRaw (packWord [(0x69, 7), (0, 5), (a.val, 5), (0, 5), (n.val, 10)]) = _
  generalize packWord [(0x69, 7), (0, 5), (a.val, 5), (0, 5), (n.val, 10)] = w at *
  rw [decodeRaw_69 hp.1]
  have g0 : wordBits w 10 5 = 0 := hp.2.2.2.1
  have g1 : wordBits w 20 5 = 0 := hp.2.1
  simp only [decodeMajor69, g0, g1, and_true, true_and, and_false, false_and, and_self, Nat.reduceEqDiff, Nat.one_ne_zero, Nat.zero_ne_one, Nat.succ_ne_zero, ↓reduceIte]
  rw [show wordFin 32 w 15 = a from Fin.ext hp.2.2.1,
    show wordFin 1024 w 0 = n from Fin.ext hp.2.2.2.2.1]

theorem Roundtrip.tret : Roundtrip.Statement .tret := by
  refine Roundtrip.of_raw _ ?_
  have hp := pack_fields (l := [(0x6A, 7), (0, 18), (1, 7)]) ⟨by decide, by decide, by decide, trivial⟩
  change decodeRaw (packWord [(0x6A, 7), (0, 18), (1, 7)]) = _
  generalize packWord [(0x6A, 7), (0, 18), (1, 7)] = w at *
  rw [decodeRaw_6A hp.1]
  have f : wordBits w 0 7 = 1 := hp.2.2.1
  have g0 : wordBits w 7 18 = 0 := hp.2.1
  simp only [decodeMajor6A, f, g0, ↓reduceIte]

theorem Roundtrip.launch (d : GReg) (a : GReg) : Roundtrip.Statement (.launch d a) := by
  refine Roundtrip.of_raw _ ?_
  have hp := pack_fields (l := [(0x6A, 7), (d.val, 5), (a.val, 5), (0, 8), (2, 7)]) ⟨by decide, d.isLt, a.isLt, by decide, by decide, trivial⟩
  change decodeRaw (packWord [(0x6A, 7), (d.val, 5), (a.val, 5), (0, 8), (2, 7)]) = _
  generalize packWord [(0x6A, 7), (d.val, 5), (a.val, 5), (0, 8), (2, 7)] = w at *
  rw [decodeRaw_6A hp.1]
  have f : wordBits w 0 7 = 2 := hp.2.2.2.2.1
  have g0 : wordBits w 7 8 = 0 := hp.2.2.2.1
  simp only [decodeMajor6A, f, g0, ↓reduceIte]
  rw [show wordFin 32 w 20 = d from Fin.ext hp.2.1,
    show wordFin 32 w 15 = a from Fin.ext hp.2.2.1]

theorem Roundtrip.launchAbort (d : GReg) (a : GReg) : Roundtrip.Statement (.launchAbort d a) := Roundtrip.of_none _ rfl

theorem Roundtrip.preempt (d : GReg) (a : GReg) : Roundtrip.Statement (.preempt d a) := by
  refine Roundtrip.of_raw _ ?_
  have hp := pack_fields (l := [(0x6A, 7), (d.val, 5), (a.val, 5), (0, 8), (3, 7)]) ⟨by decide, d.isLt, a.isLt, by decide, by decide, trivial⟩
  change decodeRaw (packWord [(0x6A, 7), (d.val, 5), (a.val, 5), (0, 8), (3, 7)]) = _
  generalize packWord [(0x6A, 7), (d.val, 5), (a.val, 5), (0, 8), (3, 7)] = w at *
  rw [decodeRaw_6A hp.1]
  have f : wordBits w 0 7 = 3 := hp.2.2.2.2.1
  have g0 : wordBits w 7 8 = 0 := hp.2.2.2.1
  simp only [decodeMajor6A, f, g0, ↓reduceIte]
  rw [show wordFin 32 w 20 = d from Fin.ext hp.2.1,
    show wordFin 32 w 15 = a from Fin.ext hp.2.2.1]

theorem Roundtrip.ctxsave (d : GReg) (a : GReg) (b : GReg) : Roundtrip.Statement (.ctxsave d a b) := by
  refine Roundtrip.of_raw _ ?_
  have hp := pack_fields (l := [(0x6A, 7), (d.val, 5), (a.val, 5), (b.val, 5), (0, 3), (4, 7)]) ⟨by decide, d.isLt, a.isLt, b.isLt, by decide, by decide, trivial⟩
  change decodeRaw (packWord [(0x6A, 7), (d.val, 5), (a.val, 5), (b.val, 5), (0, 3), (4, 7)]) = _
  generalize packWord [(0x6A, 7), (d.val, 5), (a.val, 5), (b.val, 5), (0, 3), (4, 7)] = w at *
  rw [decodeRaw_6A hp.1]
  have f : wordBits w 0 7 = 4 := hp.2.2.2.2.2.1
  have g0 : wordBits w 7 3 = 0 := hp.2.2.2.2.1
  simp only [decodeMajor6A, f, g0, ↓reduceIte]
  rw [show wordFin 32 w 20 = d from Fin.ext hp.2.1,
    show wordFin 32 w 15 = a from Fin.ext hp.2.2.1,
    show wordFin 32 w 10 = b from Fin.ext hp.2.2.2.1]

theorem Roundtrip.ctxload (d : GReg) (a : GReg) (b : GReg) : Roundtrip.Statement (.ctxload d a b) := by
  refine Roundtrip.of_raw _ ?_
  have hp := pack_fields (l := [(0x6A, 7), (d.val, 5), (a.val, 5), (b.val, 5), (0, 3), (5, 7)]) ⟨by decide, d.isLt, a.isLt, b.isLt, by decide, by decide, trivial⟩
  change decodeRaw (packWord [(0x6A, 7), (d.val, 5), (a.val, 5), (b.val, 5), (0, 3), (5, 7)]) = _
  generalize packWord [(0x6A, 7), (d.val, 5), (a.val, 5), (b.val, 5), (0, 3), (5, 7)] = w at *
  rw [decodeRaw_6A hp.1]
  have f : wordBits w 0 7 = 5 := hp.2.2.2.2.2.1
  have g0 : wordBits w 7 3 = 0 := hp.2.2.2.2.1
  simp only [decodeMajor6A, f, g0, ↓reduceIte]
  rw [show wordFin 32 w 20 = d from Fin.ext hp.2.1,
    show wordFin 32 w 15 = a from Fin.ext hp.2.2.1,
    show wordFin 32 w 10 = b from Fin.ext hp.2.2.2.1]

theorem Roundtrip.frestore (d : GReg) (a : GReg) (b : GReg) : Roundtrip.Statement (.frestore d a b) := by
  refine Roundtrip.of_raw _ ?_
  have hp := pack_fields (l := [(0x6A, 7), (d.val, 5), (a.val, 5), (b.val, 5), (0, 3), (6, 7)]) ⟨by decide, d.isLt, a.isLt, b.isLt, by decide, by decide, trivial⟩
  change decodeRaw (packWord [(0x6A, 7), (d.val, 5), (a.val, 5), (b.val, 5), (0, 3), (6, 7)]) = _
  generalize packWord [(0x6A, 7), (d.val, 5), (a.val, 5), (b.val, 5), (0, 3), (6, 7)] = w at *
  rw [decodeRaw_6A hp.1]
  have f : wordBits w 0 7 = 6 := hp.2.2.2.2.2.1
  have g0 : wordBits w 7 3 = 0 := hp.2.2.2.2.1
  simp only [decodeMajor6A, f, g0, ↓reduceIte]
  rw [show wordFin 32 w 20 = d from Fin.ext hp.2.1,
    show wordFin 32 w 15 = a from Fin.ext hp.2.2.1,
    show wordFin 32 w 10 = b from Fin.ext hp.2.2.2.1]

theorem Roundtrip.xlinv (a : GReg) (b : GReg) (s : Fin 8) : Roundtrip.Statement (.xlinv a b s) := by
  refine Roundtrip.of_raw _ ?_
  have hp := pack_fields (l := [(0x6A, 7), (0, 5), (a.val, 5), (b.val, 5), (s.val, 3), (7, 7)]) ⟨by decide, by decide, a.isLt, b.isLt, s.isLt, by decide, trivial⟩
  change decodeRaw (packWord [(0x6A, 7), (0, 5), (a.val, 5), (b.val, 5), (s.val, 3), (7, 7)]) = _
  generalize packWord [(0x6A, 7), (0, 5), (a.val, 5), (b.val, 5), (s.val, 3), (7, 7)] = w at *
  rw [decodeRaw_6A hp.1]
  have f : wordBits w 0 7 = 7 := hp.2.2.2.2.2.1
  have g0 : wordBits w 20 5 = 0 := hp.2.1
  simp only [decodeMajor6A, f, g0, ↓reduceIte]
  rw [show wordFin 32 w 15 = a from Fin.ext hp.2.2.1,
    show wordFin 32 w 10 = b from Fin.ext hp.2.2.2.1,
    show wordFin 8 w 7 = s from Fin.ext hp.2.2.2.2.1]

theorem Roundtrip.idle : Roundtrip.Statement .idle := by
  refine Roundtrip.of_raw _ ?_
  have hp := pack_fields (l := [(0x6A, 7), (0, 18), (8, 7)]) ⟨by decide, by decide, by decide, trivial⟩
  change decodeRaw (packWord [(0x6A, 7), (0, 18), (8, 7)]) = _
  generalize packWord [(0x6A, 7), (0, 18), (8, 7)] = w at *
  rw [decodeRaw_6A hp.1]
  have f : wordBits w 0 7 = 8 := hp.2.2.1
  have g0 : wordBits w 7 18 = 0 := hp.2.1
  simp only [decodeMajor6A, f, g0, ↓reduceIte]

theorem Roundtrip.setpri (d : GReg) (a : GReg) (b : GReg) : Roundtrip.Statement (.setpri d a b) := by
  refine Roundtrip.of_raw _ ?_
  have hp := pack_fields (l := [(0x6A, 7), (d.val, 5), (a.val, 5), (b.val, 5), (0, 3), (9, 7)]) ⟨by decide, d.isLt, a.isLt, b.isLt, by decide, by decide, trivial⟩
  change decodeRaw (packWord [(0x6A, 7), (d.val, 5), (a.val, 5), (b.val, 5), (0, 3), (9, 7)]) = _
  generalize packWord [(0x6A, 7), (d.val, 5), (a.val, 5), (b.val, 5), (0, 3), (9, 7)] = w at *
  rw [decodeRaw_6A hp.1]
  have f : wordBits w 0 7 = 9 := hp.2.2.2.2.2.1
  have g0 : wordBits w 7 3 = 0 := hp.2.2.2.2.1
  simp only [decodeMajor6A, f, g0, ↓reduceIte]
  rw [show wordFin 32 w 20 = d from Fin.ext hp.2.1,
    show wordFin 32 w 15 = a from Fin.ext hp.2.2.1,
    show wordFin 32 w 10 = b from Fin.ext hp.2.2.2.1]

theorem Roundtrip.lgretire (d : GReg) (a : GReg) (b : GReg) : Roundtrip.Statement (.lgretire d a b) := by
  refine Roundtrip.of_raw _ ?_
  have hp := pack_fields (l := [(0x6A, 7), (d.val, 5), (a.val, 5), (b.val, 5), (0, 3), (10, 7)]) ⟨by decide, d.isLt, a.isLt, b.isLt, by decide, by decide, trivial⟩
  change decodeRaw (packWord [(0x6A, 7), (d.val, 5), (a.val, 5), (b.val, 5), (0, 3), (10, 7)]) = _
  generalize packWord [(0x6A, 7), (d.val, 5), (a.val, 5), (b.val, 5), (0, 3), (10, 7)] = w at *
  rw [decodeRaw_6A hp.1]
  have f : wordBits w 0 7 = 10 := hp.2.2.2.2.2.1
  have g0 : wordBits w 7 3 = 0 := hp.2.2.2.2.1
  simp only [decodeMajor6A, f, g0, ↓reduceIte]
  rw [show wordFin 32 w 20 = d from Fin.ext hp.2.1,
    show wordFin 32 w 15 = a from Fin.ext hp.2.2.1,
    show wordFin 32 w 10 = b from Fin.ext hp.2.2.2.1]

theorem Roundtrip.sblk (count : Fin 32) (len : Fin 32) : Roundtrip.Statement (.sblk count len) := by
  refine Roundtrip.of_raw _ ?_
  have hp := pack_fields (l := [(0x7F, 7), (count.val, 5), (len.val, 5), (0, 15)]) ⟨by decide, count.isLt, len.isLt, by decide, trivial⟩
  change decodeRaw (packWord [(0x7F, 7), (count.val, 5), (len.val, 5), (0, 15)]) = _
  generalize packWord [(0x7F, 7), (count.val, 5), (len.val, 5), (0, 15)] = w at *
  rw [decodeRaw_7F hp.1]
  have g0 : wordBits w 0 15 = 0 := hp.2.2.2.1
  simp only [decodeMajor7F, g0, ↓reduceIte]
  rw [show wordFin 32 w 20 = count from Fin.ext hp.2.1,
    show wordFin 32 w 15 = len from Fin.ext hp.2.2.1]

theorem Roundtrip.ccInterruptEntry (core : Fin 32) : Roundtrip.Statement (.ccInterruptEntry core) := Roundtrip.of_none _ rfl

theorem Roundtrip.trapNoticeDeliver (die : Die) : Roundtrip.Statement (.trapNoticeDeliver die) := Roundtrip.of_none _ rfl

theorem Roundtrip.nqptrConsWrite (cons : BitVec 10) : Roundtrip.Statement (.nqptrConsWrite cons) := Roundtrip.of_none _ rfl

theorem Roundtrip.nqctlWrite (v : Word) : Roundtrip.Statement (.nqctlWrite v) := Roundtrip.of_none _ rfl

theorem Roundtrip.pageWalk (ctx : Ctx) (va : Word) : Roundtrip.Statement (.pageWalk ctx va) := Roundtrip.of_none _ rfl

theorem Roundtrip.mscFill (stack : Die) (line : Nat) (chain : BitVec 8) (uo : Bool) : Roundtrip.Statement (.mscFill stack line chain uo) := Roundtrip.of_none _ rfl

theorem Roundtrip.refreshWindowEnd (stack : Die) : Roundtrip.Statement (.refreshWindowEnd stack) := Roundtrip.of_none _ rfl

theorem Roundtrip.demoteApply (stack : Die) : Roundtrip.Statement (.demoteApply stack) := Roundtrip.of_none _ rfl

theorem Roundtrip.demoteScrubEnd (stack : Die) (chain : BitVec 8) : Roundtrip.Statement (.demoteScrubEnd stack chain) := Roundtrip.of_none _ rfl

theorem Roundtrip.scfgCarveWrite (stack : Die) (carve : Fin 8) : Roundtrip.Statement (.scfgCarveWrite stack carve) := Roundtrip.of_none _ rfl

theorem Roundtrip.carveChange (stack : Die) : Roundtrip.Statement (.carveChange stack) := Roundtrip.of_none _ rfl

theorem Roundtrip.hrctlWrite (stack : Die) (v : Word) : Roundtrip.Statement (.hrctlWrite stack v) := Roundtrip.of_none _ rfl

theorem Roundtrip.fumaroleForwardReceive (stack : Die) : Roundtrip.Statement (.fumaroleForwardReceive stack) := Roundtrip.of_none _ rfl

theorem Roundtrip.fumaroleReturnReceive (stack : Die) : Roundtrip.Statement (.fumaroleReturnReceive stack) := Roundtrip.of_none _ rfl

theorem Roundtrip.geyserEntryDeliver (ctx : Ctx) (n : BitVec 32) : Roundtrip.Statement (.geyserEntryDeliver ctx n) := Roundtrip.of_none _ rfl

theorem Roundtrip.pathOperationComplete (ctx : Ctx) (path : Fin 6) (n : BitVec 32) : Roundtrip.Statement (.pathOperationComplete ctx path n) := Roundtrip.of_none _ rfl

theorem Roundtrip.upcallEntry (ctx : Ctx) : Roundtrip.Statement (.upcallEntry ctx) := Roundtrip.of_none _ rfl

theorem Roundtrip.queueWake (ctx : Ctx) : Roundtrip.Statement (.queueWake ctx) := Roundtrip.of_none _ rfl

theorem Roundtrip.queueDeadlock (ctx : Ctx) : Roundtrip.Statement (.queueDeadlock ctx) := Roundtrip.of_none _ rfl

theorem Roundtrip.semaphoreGrant (quad : Fin 1024) (bit : Fin 32) : Roundtrip.Statement (.semaphoreGrant quad bit) := Roundtrip.of_none _ rfl

theorem Roundtrip.sigwaitWake (who : Agent) : Roundtrip.Statement (.sigwaitWake who) := Roundtrip.of_none _ rfl

theorem Roundtrip.barrierEpisodeComplete (scope : Fin 5) (inst : Nat) (bar : Fin 16) (job : BitVec 16) : Roundtrip.Statement (.barrierEpisodeComplete scope inst bar job) := Roundtrip.of_none _ rfl

theorem Roundtrip.waittWake (who : Agent) : Roundtrip.Statement (.waittWake who) := Roundtrip.of_none _ rfl

theorem Roundtrip.cplwWake (ctx : Ctx) : Roundtrip.Statement (.cplwWake ctx) := Roundtrip.of_none _ rfl

theorem Roundtrip.idleWake (ctx : Ctx) : Roundtrip.Statement (.idleWake ctx) := Roundtrip.of_none _ rfl

theorem Roundtrip.rstvOutcome (ctx : Ctx) (n : BitVec 32) (refused : Option (Fin 64)) : Roundtrip.Statement (.rstvOutcome ctx n refused) := Roundtrip.of_none _ rfl

theorem Roundtrip.remoteStorePacket (src : ModNum) (op : BitVec 32) (writes : List (Nat × Byte)) : Roundtrip.Statement (.remoteStorePacket src op writes) := Roundtrip.of_none _ rfl

theorem Roundtrip.remoteAddPacket (src : ModNum) (op : BitVec 32) (width : Nat) (adds : List (Nat × Word)) : Roundtrip.Statement (.remoteAddPacket src op width adds) := Roundtrip.of_none _ rfl

theorem Roundtrip.signalPacket (src : ModNum) (op : BitVec 32) (addr : Nat) (addend : Word) (release : Bool) : Roundtrip.Statement (.signalPacket src op addr addend release) := Roundtrip.of_none _ rfl

theorem Roundtrip.tokenRowPacket (src : ModNum) (op : BitVec 32) (addr : Nat) (ticket : Word) (gate : Word) (row : List (BitVec 16)) : Roundtrip.Statement (.tokenRowPacket src op addr ticket gate row) := Roundtrip.of_none _ rfl

theorem Roundtrip.ackPacket (ctx : Ctx) (path : Fin 6) (n : BitVec 32) (code : Word) : Roundtrip.Statement (.ackPacket ctx path n code) := Roundtrip.of_none _ rfl

theorem Roundtrip.remoteReadPacket (src : ModNum) (addr : Nat) (len : Nat) : Roundtrip.Statement (.remoteReadPacket src addr len) := Roundtrip.of_none _ rfl

theorem Roundtrip.readDataPacket (src : ModNum) (addr : Nat) (bytes : List Byte) : Roundtrip.Statement (.readDataPacket src addr bytes) := Roundtrip.of_none _ rfl

theorem Roundtrip.remoteBankRequest (src : ModNum) (kind : Fin 6) (addr : Nat) (operand : Word) : Roundtrip.Statement (.remoteBankRequest src kind addr operand) := Roundtrip.of_none _ rfl

theorem Roundtrip.remoteBankReply (ctx : Ctx) (v : Word) : Roundtrip.Statement (.remoteBankReply ctx v) := Roundtrip.of_none _ rfl

theorem Roundtrip.rdWriteFaultReport (page : Nat) (writer : ModNum) (split : Bool) : Roundtrip.Statement (.rdWriteFaultReport page writer split) := Roundtrip.of_none _ rfl

theorem Roundtrip.rdSplitReceive (home : ModNum) (page : Nat) (ptbase : Word) (va : Word) (table : Nat) : Roundtrip.Statement (.rdSplitReceive home page ptbase va table) := Roundtrip.of_none _ rfl

theorem Roundtrip.rdInvReceive (home : ModNum) (page : Nat) (ptbase : Word) (va : Word) : Roundtrip.Statement (.rdInvReceive home page ptbase va) := Roundtrip.of_none _ rfl

theorem Roundtrip.rdAckReceive (page : Nat) (holder : ModNum) : Roundtrip.Statement (.rdAckReceive page holder) := Roundtrip.of_none _ rfl

theorem Roundtrip.rdReleasedRetired (page : Nat) (writer : ModNum) : Roundtrip.Statement (.rdReleasedRetired page writer) := Roundtrip.of_none _ rfl

theorem Roundtrip.rdFormerHolderFault (page : Nat) (holder : ModNum) (ptbase : Word) (va : Word) : Roundtrip.Statement (.rdFormerHolderFault page holder ptbase va) := Roundtrip.of_none _ rfl

theorem Roundtrip.calderaDeposit (die : Die) : Roundtrip.Statement (.calderaDeposit die) := Roundtrip.of_none _ rfl

theorem Roundtrip.calderaTimeoutRelease (die : Die) (base : Nat) (slot : Fin 65536) : Roundtrip.Statement (.calderaTimeoutRelease die base slot) := Roundtrip.of_none _ rfl

theorem Roundtrip.calderaTimeoutTrap (ctx : Ctx) : Roundtrip.Statement (.calderaTimeoutTrap ctx) := Roundtrip.of_none _ rfl

theorem Roundtrip.launchEnterDispatch (issuer : ModNum) (launch : BitVec 32) : Roundtrip.Statement (.launchEnterDispatch issuer launch) := Roundtrip.of_none _ rfl

theorem Roundtrip.dispatchPlace (die : Die) : Roundtrip.Statement (.dispatchPlace die) := Roundtrip.of_none _ rfl

theorem Roundtrip.dispatchPreempt (die : Die) : Roundtrip.Statement (.dispatchPreempt die) := Roundtrip.of_none _ rfl

theorem Roundtrip.quantumExpiry (ctx : Ctx) : Roundtrip.Statement (.quantumExpiry ctx) := Roundtrip.of_none _ rfl

theorem Roundtrip.launchRetire (issuer : ModNum) (launch : BitVec 32) : Roundtrip.Statement (.launchRetire issuer launch) := Roundtrip.of_none _ rfl

theorem Roundtrip.uncorrectableError (struct : BitVec 8) (place : BitVec 32) (addr : Nat) (ctx : Option Ctx) (elem : BitVec 16) : Roundtrip.Statement (.uncorrectableError struct place addr ctx elem) := Roundtrip.of_none _ rfl

theorem Roundtrip.errorRetryResult (ok : Bool) : Roundtrip.Statement (.errorRetryResult ok) := Roundtrip.of_none _ rfl

theorem Roundtrip.linkCrcResend (port : BitVec 8) : Roundtrip.Statement (.linkCrcResend port) := Roundtrip.of_none _ rfl

theorem Roundtrip.linkRetrain (port : BitVec 8) (ok : Bool) : Roundtrip.Statement (.linkRetrain port ok) := Roundtrip.of_none _ rfl

theorem Roundtrip.tuffStreamSend : Roundtrip.Statement .tuffStreamSend := Roundtrip.of_none _ rfl

theorem Roundtrip.tuffctlFrzSet : Roundtrip.Statement .tuffctlFrzSet := Roundtrip.of_none _ rfl

theorem Roundtrip.tuffctlFrzClear : Roundtrip.Statement .tuffctlFrzClear := Roundtrip.of_none _ rfl

theorem Roundtrip.tuffctlStreamWrite (on : Bool) : Roundtrip.Statement (.tuffctlStreamWrite on) := Roundtrip.of_none _ rfl

theorem Roundtrip.tuffputCommit (w3 : Word) : Roundtrip.Statement (.tuffputCommit w3) := Roundtrip.of_none _ rfl

theorem Roundtrip.mextExtend (w : Word) : Roundtrip.Statement (.mextExtend w) := Roundtrip.of_none _ rfl

theorem Roundtrip.attestRequest (va : Word) : Roundtrip.Statement (.attestRequest va) := Roundtrip.of_none _ rfl

theorem Roundtrip.moduleReset : Roundtrip.Statement .moduleReset := Roundtrip.of_none _ rfl

theorem Roundtrip.tftpImageReceive (image : List Byte) : Roundtrip.Statement (.tftpImageReceive image) := Roundtrip.of_none _ rfl

theorem Roundtrip.rstctlWarmWrite : Roundtrip.Statement .rstctlWarmWrite := Roundtrip.of_none _ rfl

theorem Roundtrip.warmReset : Roundtrip.Statement .warmReset := Roundtrip.of_none _ rfl

theorem Roundtrip.timectlGmWrite (v : Bool) : Roundtrip.Statement (.timectlGmWrite v) := Roundtrip.of_none _ rfl

theorem Roundtrip.timectlRelWrite : Roundtrip.Statement .timectlRelWrite := Roundtrip.of_none _ rfl

theorem Roundtrip.gmReleaseTimeout : Roundtrip.Statement .gmReleaseTimeout := Roundtrip.of_none _ rfl

theorem Roundtrip.timeEventMessage (offset : BitVec 32) (adjust : Int) : Roundtrip.Statement (.timeEventMessage offset adjust) := Roundtrip.of_none _ rfl

theorem Roundtrip.timeLockChange : Roundtrip.Statement .timeLockChange := Roundtrip.of_none _ rfl

theorem Roundtrip.pwrctlReqWrite (req : Fin 4) : Roundtrip.Statement (.pwrctlReqWrite req) := Roundtrip.of_none _ rfl

theorem Roundtrip.powerModeChangeEnd : Roundtrip.Statement .powerModeChangeEnd := Roundtrip.of_none _ rfl

theorem Roundtrip.thermalThrottle : Roundtrip.Statement .thermalThrottle := Roundtrip.of_none _ rfl

theorem Roundtrip.thermalUnthrottle : Roundtrip.Statement .thermalUnthrottle := Roundtrip.of_none _ rfl

theorem Roundtrip.thermalPowerOff : Roundtrip.Statement .thermalPowerOff := Roundtrip.of_none _ rfl

theorem Roundtrip.pcieInboundDma (port : Fin 2) (addr : Nat) (len : Nat) (write : Option (List Byte)) (msix : Option (BitVec 16)) : Roundtrip.Statement (.pcieInboundDma port addr len write msix) := Roundtrip.of_none _ rfl

theorem Roundtrip.registerWrite (addr : Nat) (v : Word) : Roundtrip.Statement (.registerWrite addr v) := Roundtrip.of_none _ rfl

theorem Roundtrip.powerLoss : Roundtrip.Statement .powerLoss := Roundtrip.of_none _ rfl

theorem Roundtrip.managementPortLinkChange (up : Bool) : Roundtrip.Statement (.managementPortLinkChange up) := Roundtrip.of_none _ rfl

theorem Roundtrip.managementPortReceive (frame : List Byte) : Roundtrip.Statement (.managementPortReceive frame) := Roundtrip.of_none _ rfl

theorem Roundtrip.bankResultReturn (ctx : Ctx) : Roundtrip.Statement (.bankResultReturn ctx) := Roundtrip.of_none _ rfl

end Sys2Proof.Laws
end

