-- ==== Sys2Proof/Laws/Run.lean ====
section
/-! SUPPORT. What the shared operations do for a strand that has the turn: one lemma for each, so that no proof unfolds
them. -/

namespace Sys2Proof.Machine

variable {α β : Type} {s s' u : State} {c : Ctx} {t t' : Strand}

/-! Running a computation. -/

theorem run_pure (a : α) (s : State) : (pure a : M α).run s = .ok a s := rfl

theorem run_bind_ok {x : M α} {f : α → M β} {a : α} (h : x.run s = .ok a s') : (x >>= f).run s = (f a).run s' := by
  have h' : x s = .ok a s' := h
  show EStateM.bind x f s = f a s'
  simp only [EStateM.bind, h']

theorem run_bind_error {x : M α} {f : α → M β} {e : Stop} (h : x.run s = .error e s') : (x >>= f).run s = .error e s' := by
  have h' : x s = .error e s' := h
  show EStateM.bind x f s = .error e s'
  simp only [EStateM.bind, h']

theorem run_get (s : State) : (get : M State).run s = .ok s s := rfl

theorem run_modify (f : State → State) (s : State) : (modify f : M Unit).run s = .ok () (f s) := rfl

theorem run_throw (e : Stop) (s : State) : (throw e : M α).run s = .error e s := rfl

theorem run_require {k : Bool} (cause : Nat) (tval : Word) (h : k = true) (s : State) :
    (require k cause tval).run s = .ok () s := by
  subst h; rfl

theorem run_require_not {k : Bool} (cause : Nat) (tval : Word) (h : k = false) (s : State) :
    (require k cause tval).run s = .error (.trap { cause := cause, tval := tval }) s := by
  subst h; rfl

/-! The strand that has the turn. -/

theorem Ready.set (h : Ready s c t) (hq : t'.fromQueue = none) (hs : t'.saved = none) :
    Ready (s.setStrand c.val t') c t' :=
  ⟨h.turn, State.strand?_setStrand _ _ _, hq, hs⟩

/-- Changing the strand's state keeps it ready, and a later change of it replaces the first. -/
theorem Ready.mod (h : Ready s c t) (hq : t'.fromQueue = t.fromQueue) (hs : t'.saved = t.saved) :
    Ready (s.setStrand c.val t') c t' := h.set (hq.trans h.direct) (hs.trans h.whole)

theorem Ready.run_ctx (h : Ready s c t) : ctx.run s = .ok c s := by
  rw [ctx, run_bind_ok (run_get s), h.turn, run_pure]

theorem run_strandAt {n : Nat} (h : s.strand? n = some t) : (strandAt n).run s = .ok t s := by
  rw [strandAt, run_bind_ok (run_get s), h, run_pure]

theorem Ready.run_strand (h : Ready s c t) : strand.run s = .ok t s := by
  rw [strand, run_bind_ok h.run_ctx, run_strandAt h.bound]

theorem Ready.run_hart (h : Ready s c t) : hart.run s = .ok t.hart s := by
  rw [hart, run_bind_ok (run_get s)]
  simp only [State.hart?, h.turn, h.bound, Option.map]
  rfl

theorem run_modStrandAt {n : Nat} (h : s.strand? n = some t) (f : Strand → Strand) :
    (modStrandAt n f).run s = .ok () (s.setStrand n (f t)) := by
  rw [modStrandAt, run_bind_ok (run_strandAt h), run_modify]

theorem Ready.run_modStrand (h : Ready s c t) (f : Strand → Strand) :
    (modStrand f).run s = .ok () (s.setStrand c.val (f t)) := by
  rw [modStrand, run_bind_ok h.run_ctx, run_modStrandAt h.bound]

theorem Ready.run_modHart (h : Ready s c t) (f : Hart → Hart) :
    (modHart f).run s = .ok () (s.setStrand c.val { t with hart := f t.hart }) := by
  rw [modHart, run_bind_ok h.run_hart, run_modify]
  simp only [State.setHart, h.turn, h.bound]

/-! Registers and the program counter. -/

@[simp] theorem Strand.putG_fromQueue (r : GReg) (x : Word) : (t.putG r x).fromQueue = t.fromQueue := rfl

@[simp] theorem Hart.putG_status (h : Hart) (r : GReg) (x : Word) : (h.putG r x).status = h.status := by
  unfold Hart.putG; split <;> rfl

@[simp] theorem Hart.putG_pc (h : Hart) (r : GReg) (x : Word) : (h.putG r x).pc = h.pc := by
  unfold Hart.putG; split <;> rfl

@[simp] theorem Strand.putG_pc (r : GReg) (x : Word) : (t.putG r x).hart.pc = t.hart.pc := Hart.putG_pc _ _ _

@[simp] theorem Strand.putG_upc (r : GReg) (x : Word) : (t.putG r x).hart.upc = t.hart.upc := by
  simp [Strand.putG, Hart.upc]

/-- g0 reads zero whatever was written to it (R185). -/
theorem Hart.rd_zero (h : Hart) {r : GReg} (hr : r.val = 0) : h.rd r = 0 := by simp [Hart.rd, hr]

theorem Hart.rd_putG_same (h : Hart) {r : GReg} (x : Word) (hr : r.val ≠ 0) : (h.putG r x).rd r = x := by
  simp [Hart.rd, Hart.putG, hr]

theorem Hart.rd_putG_other (h : Hart) {r q : GReg} (x : Word) (hq : q ≠ r) : (h.putG r x).rd q = h.rd q := by
  by_cases hr : r.val = 0
  · simp only [Hart.putG, hr, ↓reduceIte]
  · by_cases h0 : q.val = 0
    · simp only [Hart.rd, h0, ↓reduceIte]
    · simp only [Hart.rd, Hart.putG, hr, h0, ↓reduceIte]
      exact Vector.getElem_set_ne _ _ (fun he => hq (Fin.ext he.symm))

theorem Ready.run_gR (h : Ready s c t) (r : GReg) : (gR r).run s = .ok (t.rd r) s := by
  rw [gR, run_bind_ok h.run_hart]
  rfl

theorem Ready.run_pcR (h : Ready s c t) : pcR.run s = .ok t.hart.pc s := by
  rw [pcR, run_bind_ok (run_get s), h.turn]
  show (strandAt c.val >>= _).run s = _
  rw [run_bind_ok (run_strandAt h.bound), h.direct]
  rfl

theorem Ready.run_gW (h : Ready s c t) (r : GReg) (x : Word) :
    ∃ u, (gW r x).run s = .ok () u ∧ Ready u c (t.putG r x) ∧ ∀ v, u.setStrand c.val v = s.setStrand c.val v := by
  unfold gW
  by_cases hr : r.val = 0
  · have : t.putG r x = t := by simp [Strand.putG, Hart.putG, hr]
    rw [this]
    simp only [hr, ↓reduceIte]
    exact ⟨s, rfl, h, fun _ => rfl⟩
  · simp only [hr, ↓reduceIte]
    rw [h.run_modHart]
    refine ⟨_, rfl, ?_, fun _ => State.setStrand_setStrand _ _ _ _⟩
    have : t.putG r x = { t with hart := { t.hart with g := t.hart.g.set r.val x } } := by
      simp [Strand.putG, Hart.putG, hr]
    rw [this]
    exact h.set h.direct h.whole

theorem Ready.run_goto (h : Ready s c t) (next : Word) :
    (goto next).run s = .ok () (s.setStrand c.val (t.continueAt next)) := by
  rw [goto, run_bind_ok (run_get s), h.turn]
  show (modStrand _).run s = _
  rw [h.run_modStrand]
  simp [h.direct]

theorem Ready.run_advance (h : Ready s c t) :
    advance.run s = .ok () (s.setStrand c.val (t.continueAt (t.hart.pc + 4))) := by
  rw [advance, run_bind_ok h.run_pcR, h.run_goto]

/-- Writing a register and going on. -/
theorem Ready.run_gW_advance (h : Ready s c t) (r : GReg) (x : Word) :
    (do gW r x; advance : M Unit).run s = .ok () (s.setStrand c.val (t.past (t.putG r x))) := by
  obtain ⟨u, hu, hr, hset⟩ := h.run_gW r x
  rw [run_bind_ok hu, hr.run_advance, hset, Strand.putG_pc]
  rfl

/-! One instruction. -/

theorem perform_of_checks {i : Instr} {m : M Unit} (h : (entryChecks i).run s = .ok () s) :
    perform i m s = finishRun i s (m.run s) := by
  unfold perform
  rw [run_bind_ok h]

/-- Who may execute an instruction on a strand: a system instruction needs the system bit, and a handler only what R134 lists. -/
def Strand.may (t : Strand) (i : Instr) : Prop :=
  ((klass i).system = true → t.hart.sysh = true) ∧ (t.hart.upc = true → (klass i).handler = true)

theorem Ready.checks {i : Instr} (h : Ready s c t) (hw : i.wf = true) (hk : t.may i) :
    (entryChecks i).run s = .ok () s := by
  rw [entryChecks, run_bind_ok (run_get s), h.turn]
  show (strandAt c.val >>= _).run s = _
  rw [run_bind_ok (run_strandAt h.bound), h.direct]
  simp only [Option.isSome_none, Bool.false_eq_true, ↓reduceIte]
  have h1 : (!(klass i).system || t.hart.sysh) = true := by
    cases hs : (klass i).system
    · rfl
    · simp [hk.1 hs]
  have h2 : (!t.hart.upc || (klass i).handler) = true := by
    cases hs : t.hart.upc
    · rfl
    · simp [hk.2 hs]
  rw [run_bind_ok (run_require _ _ h1 s), run_bind_ok (run_require _ _ hw s), run_require _ _ h2 s]

/-- An instruction whose meaning ends normally answers the next state that the meaning left. -/
theorem Ready.perform_next {i : Instr} {m : M Unit} (h : Ready s c t) (hw : i.wf = true) (hk : t.may i)
    (hm : m.run s = .ok () u) : perform i m s = .next u := by
  rw [perform_of_checks (h.checks hw hk), hm]
  rfl

/-- An instruction whose meaning traps takes the trap. -/
theorem Ready.perform_trap {i : Instr} {m : M Unit} {r : TrapReq} (h : Ready s c t) (hw : i.wf = true) (hk : t.may i)
    (hm : m.run s = .error (.trap r) u) : perform i m s = .next (takeTrap i r u) := by
  rw [perform_of_checks (h.checks hw hk), hm]
  rfl

/-- An event whose meaning ends normally answers the next state that the meaning left. -/
theorem occur_next {m : M Unit} (hm : m.run s = .ok () u) : occur m s = .next u := by
  unfold occur
  rw [hm]

end Sys2Proof.Machine
end

