-- ==== Sys2Proof/Laws/Vector.lean ====
section
/-! SUPPORT. What the shared operations of the vector instructions do for a strand that has the turn: one lemma for each
(10 R237-R240). -/

namespace Sys2Proof.Machine

variable {s u : State} {c : Ctx} {t t' : Strand}

theorem Ready.run_view (h : Ready s c t) : view.run s = .ok (t.view (s.groupsOf c)) s := by
  rw [view, run_bind_ok h.run_ctx, run_bind_ok h.run_strand, run_bind_ok (run_get s), run_pure]

theorem InProgram.set (h : InProgram s c t) (hq : t'.fromQueue = none) (hs : t'.saved = none) (hu : t'.hart.upc = false) :
    InProgram (s.setStrand c.val t') c t' := ⟨h.toReady.set hq hs, hu⟩

/-- A strand's own state does not move its partition (R167). -/
@[simp] theorem State.groupsOf_setStrand (c : Ctx) (n : Nat) : (s.setStrand n t).groupsOf c = s.groupsOf c := rfl

/-- The rounding checks pass when the strand may round (R21, R81). -/
theorem Ready.run_checkRounding (h : Ready s c t) {i : Instr} {v : VView} {rounds : Bool} (hr : t.mayRound v rounds) :
    (checkRounding i v rounds).run s = .ok () s := by
  rw [checkRounding, run_bind_ok h.run_strand, run_require]
  cases rounds with
  | false => rfl
  | true =>
    obtain ⟨h4, hs⟩ := hr rfl
    by_cases he : v.rm = 4
    · by_cases hp : t.hart.repro = true
      · simp [he, hp, hs he hp]
      · simp [he, hp]
    · simp [he, Nat.not_lt.mpr h4]

/-- The checks of a vector instruction pass when it may start. -/
theorem Ready.run_vecPre (h : Ready s c t) {i : Instr} {accept : Nat → Bool} {rounds strict : Bool}
    {dst : VView → Option Span} {srcs : VView → List Span}
    (hs : t.starts (t.view (s.groupsOf c)) i (accept (t.view (s.groupsOf c)).et)
      (groupsOk (dst (t.view (s.groupsOf c))) (srcs (t.view (s.groupsOf c))) strict)
      (rounds && classF (t.view (s.groupsOf c)).et)) :
    (vecPre i accept rounds strict dst srcs).run s = .ok (t.view (s.groupsOf c)) s := by
  obtain ⟨_, ha, hg, hr⟩ := hs
  rw [vecPre, run_bind_ok h.run_view, requireState, run_bind_ok (run_require _ _ (by simp [ha, hg]) s)]
  rw [run_bind_ok (h.run_checkRounding hr), run_pure]

theorem Ready.run_source (h : Ready s c t) {v : VView} {q : Option (Fin 2)} {sp : Span} {w : Nat} {x : Nat → Nat}
    (hx : t.vecIn v q sp w = some x) : (source v q sp w).run s = .ok x s := by
  cases q with
  | none =>
    simp only [Strand.vecIn, Option.some.injEq] at hx
    simp only [source]
    rw [run_bind_ok h.run_strand, run_pure, ← hx]
  | some k =>
    simp only [Strand.vecIn] at hx
    have hp : ∃ e, (peekVec k).run s = .ok e s ∧ e.elem w = x := by
      cases hq : t.qv[k] with
      | nil => rw [hq] at hx; simp at hx
      | cons e r =>
        rw [hq] at hx
        cases ha : e.awaits with
        | some _ => simp [ha] at hx
        | none =>
          simp only [ha, Option.isSome_none, Bool.false_eq_true, ↓reduceIte, Option.some.injEq] at hx
          refine ⟨e, ?_, hx⟩
          rw [peekVec, run_bind_ok h.run_strand, hq]
          simp only [ha, Option.isSome_none, Bool.false_eq_true, ↓reduceIte]
          exact run_pure e s
    obtain ⟨e, he, rfl⟩ := hp
    simp only [source]
    rw [run_bind_ok he, run_pure]

theorem Ready.run_scalarSource (h : Ready s c t) {q : Option (Fin 4)} {b : GReg} {y : Word}
    (hy : t.scalarIn q b = some y) : (scalarSource q b).run s = .ok y s := by
  cases q with
  | none =>
    simp only [Strand.scalarIn, Option.some.injEq] at hy
    rw [scalarSource, ← hy]
    exact h.run_gR b
  | some k =>
    simp only [Strand.scalarIn] at hy
    rw [scalarSource]
    show (peekScalar k).run s = _
    rw [peekScalar, run_bind_ok h.run_strand]
    cases hq : t.qs[k] with
    | nil => rw [hq] at hy; simp at hy
    | cons e r => rw [hq] at hy; simp at hy; subst hy; rfl

@[simp] theorem Strand.raise_fromQueue (fl : FlagSet) : (t.raise fl).fromQueue = t.fromQueue := rfl
@[simp] theorem Strand.raise_saved (fl : FlagSet) : (t.raise fl).saved = t.saved := rfl
@[simp] theorem Strand.raise_pc (fl : FlagSet) : (t.raise fl).hart.pc = t.hart.pc := rfl
@[simp] theorem Strand.withSat_fromQueue (v : VView) (l : List Nat) : (t.withSat v l).fromQueue = t.fromQueue := by
  unfold Strand.withSat; split <;> rfl
@[simp] theorem Strand.withSat_saved (v : VView) (l : List Nat) : (t.withSat v l).saved = t.saved := by
  unfold Strand.withSat; split <;> rfl
@[simp] theorem Strand.withSat_hart (v : VView) (l : List Nat) : (t.withSat v l).hart = t.hart := by
  unfold Strand.withSat; split <;> rfl
@[simp] theorem Strand.withFm_fromQueue (l : List Nat) : (t.withFm l).fromQueue = t.fromQueue := rfl
@[simp] theorem Strand.withFm_saved (l : List Nat) : (t.withFm l).saved = t.saved := rfl
@[simp] theorem Strand.withFm_hart (l : List Nat) : (t.withFm l).hart = t.hart := rfl
@[simp] theorem Strand.popped_fromQueue (m : Mods) : (t.popped m).fromQueue = t.fromQueue := by
  unfold Strand.popped; split <;> rfl
@[simp] theorem Strand.popped_saved (m : Mods) : (t.popped m).saved = t.saved := by
  unfold Strand.popped; split <;> rfl
@[simp] theorem Strand.popped_hart (m : Mods) : (t.popped m).hart = t.hart := by
  unfold Strand.popped; split <;> rfl
@[simp] theorem Strand.withVec_fromQueue (v : VView) (d : Span) (w : Nat) (l : List (Nat × Nat)) :
    (t.withVec v d w l).fromQueue = t.fromQueue := rfl
@[simp] theorem Strand.withVec_saved (v : VView) (d : Span) (w : Nat) (l : List (Nat × Nat)) :
    (t.withVec v d w l).saved = t.saved := rfl
@[simp] theorem Strand.withVec_hart (v : VView) (d : Span) (w : Nat) (l : List (Nat × Nat)) :
    (t.withVec v d w l).hart = t.hart := rfl
@[simp] theorem Strand.withMask_fromQueue (v : VView) (d : MReg) (l : List (Nat × Bool)) :
    (t.withMask v d l).fromQueue = t.fromQueue := rfl
@[simp] theorem Strand.withMask_saved (v : VView) (d : MReg) (l : List (Nat × Bool)) :
    (t.withMask v d l).saved = t.saved := rfl
@[simp] theorem Strand.withMask_hart (v : VView) (d : MReg) (l : List (Nat × Bool)) :
    (t.withMask v d l).hart = t.hart := rfl
@[simp] theorem Strand.settled_fromQueue (v : VView) (sp : Bool) (rs : List (Nat × Res)) :
    (t.settled v sp rs).fromQueue = t.fromQueue := by
  cases sp <;> simp [Strand.settled]
@[simp] theorem Strand.settled_saved (v : VView) (sp : Bool) (rs : List (Nat × Res)) :
    (t.settled v sp rs).saved = t.saved := by
  cases sp <;> simp [Strand.settled]
@[simp] theorem Strand.settled_pc (v : VView) (sp : Bool) (rs : List (Nat × Res)) :
    (t.settled v sp rs).hart.pc = t.hart.pc := by
  cases sp <;> simp [Strand.settled]

/-- The first change of a strand that has the turn, and each later one. -/
theorem Ready.run_modFirst (h : Ready s c t) (f : Strand → Strand) (hq : (f t).fromQueue = t.fromQueue)
    (hs : (f t).saved = t.saved) :
    (modStrand f).run s = .ok () (s.setStrand c.val (f t)) ∧ Ready (s.setStrand c.val (f t)) c (f t) :=
  ⟨h.run_modStrand f, h.mod hq hs⟩

theorem Ready.run_modNext (h : Ready (s.setStrand c.val t) c t) (f : Strand → Strand) (hq : (f t).fromQueue = t.fromQueue)
    (hs : (f t).saved = t.saved) :
    (modStrand f).run (s.setStrand c.val t) = .ok () (s.setStrand c.val (f t)) ∧ Ready (s.setStrand c.val (f t)) c (f t) := by
  have h1 := h.run_modStrand f
  have h2 := h.mod hq hs
  rw [State.setStrand_setStrand] at h1 h2
  exact ⟨h1, h2⟩

/-- `settle` without a trap: the flags, SATM and FM are written and the codes answered. -/
theorem Ready.run_settle (h : Ready s c t) {v : VView} {sp : Bool} {rs : List (Nat × Res)} (ht : t.trapsAt sp rs = none) :
    (settle v sp rs).run s = .ok (t.codes sp rs) (s.setStrand c.val (t.settled v sp rs)) := by
  have h1 := h.run_modHart fun h => h.raise (rs.foldl (fun a r => a ||| r.2.flags) 0)
  have r1 : Ready (s.setStrand c.val (t.raise (rs.foldl (fun a r => a ||| r.2.flags) 0))) c
      (t.raise (rs.foldl (fun a r => a ||| r.2.flags) 0)) := h.mod rfl rfl
  obtain ⟨h2, r2⟩ := r1.run_modNext (fun t => t.withSat v ((rs.filter fun r => r.2.sat).map (·.1))) (by simp) (by simp)
  unfold settle raiseFlags recordSat recordFm
  rw [run_bind_ok h.run_hart, run_bind_ok h1]
  refine (run_bind_ok h2).trans ?_
  cases sp with
  | true =>
    obtain ⟨h3, _⟩ := r2.run_modNext (fun x => x.withFm ((rs.filter fun r => enabledOf t.hart r.2.flags).map (·.1)))
      (by simp) (by simp)
    simp only [↓reduceIte]
    rw [run_bind_ok h3, run_pure]
    simp [Strand.settled, Strand.codes]
  | false =>
    simp only [Strand.trapsAt, Bool.false_eq_true, ↓reduceIte, Option.map_eq_none_iff] at ht
    simp only [Bool.false_eq_true, ↓reduceIte, ht]
    rw [run_pure]
    simp [Strand.settled, Strand.codes]

/-- `settle` with a trap: the flags and SATM are written, and the trap names the first element. -/
theorem Ready.run_settle_trap (h : Ready s c t) {v : VView} {sp : Bool} {rs : List (Nat × Res)} {k : Nat}
    (ht : t.trapsAt sp rs = some k) :
    (settle v sp rs).run s = .error (.trap { cause := cArithmetic, tval := BitVec.ofNat 64 k })
      (s.setStrand c.val (t.settled v sp rs)) := by
  have h1 := h.run_modHart fun h => h.raise (rs.foldl (fun a r => a ||| r.2.flags) 0)
  have r1 : Ready (s.setStrand c.val (t.raise (rs.foldl (fun a r => a ||| r.2.flags) 0))) c
      (t.raise (rs.foldl (fun a r => a ||| r.2.flags) 0)) := h.mod rfl rfl
  obtain ⟨h2, r2⟩ := r1.run_modNext (fun t => t.withSat v ((rs.filter fun r => r.2.sat).map (·.1))) (by simp) (by simp)
  unfold settle raiseFlags recordSat recordFm
  rw [run_bind_ok h.run_hart, run_bind_ok h1]
  refine (run_bind_ok h2).trans ?_
  cases sp with
  | true => simp [Strand.trapsAt] at ht
  | false =>
    simp only [Strand.trapsAt, Bool.false_eq_true, ↓reduceIte, Option.map_eq_some_iff] at ht
    obtain ⟨r, hr, rfl⟩ := ht
    simp only [Bool.false_eq_true, ↓reduceIte, hr]
    simp [Strand.settled, trap, run_throw]

/-- The end of an element-wise instruction. -/
theorem Ready.run_vecFinish (h : Ready s c t) {v : VView} {m : Mods} {d : Span} {w : Nat} {rs : List (Nat × Res)}
    (ht : t.trapsAt m.sp rs = none) :
    (vecFinish v m d w rs).run s = .ok () (s.setStrand c.val (t.past (t.vecDone v m d w rs))) := by
  have r1 : Ready (s.setStrand c.val (t.settled v m.sp rs)) c (t.settled v m.sp rs) := h.mod (by simp) (by simp)
  obtain ⟨h2, r2⟩ := r1.run_modNext (fun t => t.popped m) (by simp) (by simp)
  obtain ⟨h3, r3⟩ := r2.run_modNext (fun x => x.withVec v d w (t.codes m.sp rs)) (by simp) (by simp)
  unfold vecFinish
  rw [run_bind_ok (h.run_settle ht), popUsed, run_bind_ok h2, writeVec, run_bind_ok h3, r3.run_advance]
  simp [Strand.past, Strand.vecDone]

theorem Ready.run_vecFinish_trap (h : Ready s c t) {v : VView} {m : Mods} {d : Span} {w : Nat} {rs : List (Nat × Res)} {k : Nat}
    (ht : t.trapsAt m.sp rs = some k) :
    (vecFinish v m d w rs).run s = .error (.trap { cause := cArithmetic, tval := BitVec.ofNat 64 k })
      (s.setStrand c.val (t.settled v m.sp rs)) := by
  unfold vecFinish
  rw [run_bind_error (h.run_settle_trap ht)]

/-- An instruction that ends in `vecFinish` completes, or takes the arithmetic trap. -/
theorem InProgram.vecEnds_of_finish (h : InProgram s c t) {i : Instr} {m : Mods} {d : Span} {w : Nat} {rs : List (Nat × Res)}
    {x : M Unit} (hw : i.wf = true) (hk : (klass i).system = false) (he : exec i s = perform i x s)
    (hx : x.run s = (vecFinish (t.view (s.groupsOf c)) m d w rs).run s) :
    vecEnds s c t i m.sp rs (t.vecDone (t.view (s.groupsOf c)) m d w rs) := by
  have may : t.may i := ⟨fun hs => absurd hs (by simp [hk]), fun hu => absurd hu (by simp [h.user])⟩
  unfold vecEnds
  cases ht : t.trapsAt m.sp rs with
  | none => exact he.trans (h.perform_next hw may (hx.trans (h.run_vecFinish ht)))
  | some k =>
    refine (he.trans (h.perform_trap hw may (hx.trans (h.run_vecFinish_trap ht)))).trans ?_
    simp only [takeTrap, State.setStrand_turn, h.turn]
    rfl

end Sys2Proof.Machine
end

