-- ==== Sys2Proof/Tests/Slice0.lean ====
section
/-! SUPPORT. The model's own tests: words of the encoding tables and what they decode to, ill-formed operands, single steps with
 results worked out by hand from the spec, and for every statement with hypotheses a state and operands that meet them. -/

set_option linter.unusedVariables false
set_option Elab.async false

noncomputable section

namespace Sys2Proof.Tests

open Sys2Proof Sys2Proof.Machine

/-! States to test on. -/

/-- g0 to g31 from a list. -/
def regs (l : List Nat) : Vector Word 32 := Vector.ofFn fun i => BitVec.ofNat 64 (l.getD i.val 0)

/-- A translated page of 64 KiB of job 1: its base, its frame, its permission bits (R30). -/
def page (base frame low : Nat) : PageTr :=
  { job := 1, vbase := base, size := 0x10000, leaf := BitVec.ofNat 64 (frame * 2 ^ 26 + low), pte := 0x202000 }

/-- A page of code, one of DRAM, one of bank memory and one of system space. -/
def codePage : PageTr := page 0 0x30 0xB
def dataPage : PageTr := page 0x10000 0x31 0x7
def bankPage : PageTr := page 0x20000 0x1800000 0x7
def sysPage : PageTr := page 0x30000 0x1C00000 0x17

/-- Core 0 with those pages in its translation cache. -/
def core0 : Core := { Core.reset with tlb := [codePage, dataPage, bankPage, sysPage] }

/-- A strand of system code at 0x100 with some general registers. -/
def strandWith (l : List Nat) : Strand :=
  { Strand.initial with hart := { Hart.zero with g := regs l, pc := 0x100, status := 0x400000, ptbase := 0x0001000000100000 } }

/-- The running module with that strand in context 0, which has the turn. -/
def stateWith (t : Strand) : State :=
  { State.reset with
    turn := .strand 0, strands := [(0, t)], boot := .running, cores := [(0, core0)]
    hub := { State.reset.hub with diesReleased := true } }

/-- A vector register of elements of w bits. -/
def image (w : Nat) (l : List Nat) : BitVec 16384 :=
  BitVec.ofNat 16384 (l.zipIdx.foldl (fun a x => a + x.1 * 2 ^ (w * x.2)) 0)

/-- Memory with values of given lengths laid out from an address of a page. -/
def laid (p : PageTr) (va : Nat) (l : List (Nat × Nat)) (m : Cells) : Cells :=
  (l.foldl (fun (m : Cells × Nat) x => (Cells.write m.1 (p.cell m.2) x.1 x.2, m.2 + x.1)) (m, va)).1

/-! Checks that a result is what is asked. -/

/-- An outcome is a next state in which a check holds. -/
def goes (o : Host.Outcome State Fault Refusal) (f : State → Bool) : Bool :=
  match o with
  | .next u => f u
  | _ => false

/-- A check of the strand in context 0. -/
def on0 (s : State) (f : Strand → Bool) : Bool := (s.strand? 0).any f

/-- The result of a run, where it has one. -/
def ran {α : Type} (d : α) (f : M α) (s : State) : α := match f.run s with | .ok a _ => a | .error _ _ => d

/-- The state a run leaves. -/
def ranTo {α : Type} (f : M α) (s : State) : State := match f.run s with | .ok _ u => u | .error _ u => u

/-- Whether a run has a result. -/
def runs {α : Type} (f : M α) (s : State) : Bool := match f.run s with | .ok _ _ => true | .error _ _ => false

theorem runs_ok {α : Type} {d : α} {f : M α} {s : State} (h : runs f s = true) : f.run s = .ok (ran d f s) (ranTo f s) := by
  unfold runs at h
  unfold ran ranTo
  split at h
  · simp_all
  · cases h

/-- Whether a run has the result x and leaves the state s. -/
def okIs {α : Type} [DecidableEq α] (r : EStateM.Result Stop State α) (x : α) (s : State) : Bool :=
  match r with
  | .ok a u => decide (a = x) && decide (u = s)
  | .error _ _ => false

theorem ok_same {α : Type} [DecidableEq α] {r : EStateM.Result Stop State α} {x : α} {s : State} (h : okIs r x s = true) :
    r = .ok x s := by
  unfold okIs at h
  cases r with
  | ok a u => simp only [Bool.and_eq_true, decide_eq_true_eq] at h; rw [h.1, h.2]
  | error e u => cases h

theorem next_same {o : Host.Outcome State Fault Refusal} {u : State}
    (h : (match o with | .next v => decide (v = u) | _ => false) = true) : o = .next u := by
  cases o with
  | next v => simp only [decide_eq_true_eq] at h; rw [h]
  | fault e => cases h
  | refused e => cases h

theorem ready_of {s : State} {c : Ctx} {t : Strand}
    (h : s.turn = .strand c ∧ s.strand? c.val = some t ∧ t.fromQueue = none ∧ t.saved = none) : Ready s c t :=
  { turn := h.1, bound := h.2.1, direct := h.2.2.1, whole := h.2.2.2 }

theorem inProgram_of {s : State} {c : Ctx} {t : Strand}
    (h : s.turn = .strand c ∧ s.strand? c.val = some t ∧ t.fromQueue = none ∧ t.saved = none ∧ t.hart.upc = false) :
    InProgram s c t :=
  { turn := h.1, bound := h.2.1, direct := h.2.2.1, whole := h.2.2.2.1, user := h.2.2.2.2 }

/-- Whether R81 and R21 let a strand round. -/
def rounding (t : Strand) (v : VView) (r : Bool) : Bool := !r || (decide (v.rm ≤ 4) && !(v.rm == 4 && t.hart.repro && !t.seeded))

theorem mayRound_of {t : Strand} {v : VView} {r : Bool} (h : rounding t v r = true) : t.mayRound v r := by
  intro hr
  subst hr
  simp only [rounding, Bool.not_true, Bool.false_or, Bool.and_eq_true, decide_eq_true_eq] at h
  refine ⟨h.1, fun h4 hp => ?_⟩
  have h2 := h.2
  simp only [h4, hp, beq_self_eq_true, Bool.true_and, Bool.not_not] at h2
  exact h2

theorem starts_of {t : Strand} {v : VView} {i : Instr} {a g r : Bool} (h : (i.wf && a && g && rounding t v r) = true) :
    t.starts v i a g r := by
  simp only [Bool.and_eq_true] at h
  exact ⟨h.1.1.1, h.1.1.2, h.1.2, mayRound_of h.2⟩

/-- Whether accesses are performed when they are made. -/
def promptly (t : Strand) : Bool := t.stores.isEmpty && !t.delay && t.dataErr.isNone

theorem prompt_of {t : Strand} (h : promptly t = true) : t.prompt := by
  simp only [promptly, Bool.and_eq_true, List.isEmpty_iff, Bool.not_eq_true', Option.isNone_iff_eq_none] at h
  exact ⟨h.1.1, h.1.2, h.2⟩

theorem startsMem_of {t : Strand} {v : VView} {i : Instr} {f : MemForm} {g : Bool}
    (h : (i.wf && v.formOk f && g && rounding t v (v.mfmt != 0) && promptly t) = true) : t.startsMem v i f g := by
  simp only [Bool.and_eq_true] at h
  exact ⟨h.1.1.1.1, h.1.1.1.2, h.1.1.2, mayRound_of h.1.2, prompt_of h.2⟩

theorem fibStarts_of {t : Strand} {v : VView} {i : Instr} {a m r : Bool} {vec : List Span} {fs : List FReg}
    (h : i.wf = true ∧ a = true ∧ (m = true → v.mfmt = 0) ∧ vec.all Span.ok = true ∧ rounding t v (r && classF v.et) = true ∧
      promptly t = true ∧ ∀ f ∈ fs, t.f[f].entries = [] ∨ t.f[f].fet.val = v.et) : t.fibStarts v i a m r vec fs :=
  ⟨h.1, h.2.1, h.2.2.1, h.2.2.2.1, mayRound_of h.2.2.2.2.1, fun _ => prompt_of h.2.2.2.2.2.1, h.2.2.2.2.2.2⟩

theorem data_plain : dataPage.plain :=
  ⟨by decide +kernel, by decide +kernel, by decide +kernel, by decide +kernel, by decide +kernel⟩

theorem data_not_bank : ¬(dataPage.isBank = true) := by decide +kernel

/-- An access of the data page, cached, is resident when nothing is lost. -/
theorem resident_of {s : State} {acc : Acc} {va : Word} {n al : Nat} (h : (translateRange acc va n).run s = .ok [(dataPage, va.toNat, n)] s)
    (kept : ∀ i < n, s.lostAt (cellAt [(dataPage, va.toNat, n)] (va.toNat + i)) 1 = []) (hub : bitOf s.hub.fubase 0 = false)
    (own : leafMod dataPage.leaf = s.moduleNum.val) : Resident s acc va n al [(dataPage, va.toNat, n)] :=
  { translated := ⟨s, h⟩, cached := h, kept := kept, untracked := hub
    plain := by intro p hp; simp only [List.mem_singleton] at hp; subst hp; exact data_plain
    own := by intro p hp; simp only [List.mem_singleton] at hp; subst hp; exact own
    bank := by rintro ⟨p, hp, hb⟩; simp only [List.mem_singleton] at hp; subst hp; exact absurd hb data_not_bank }

/-- The same for the units of a vector access. -/
def place (u : MUnit) : Parts := [(dataPage, u.va.toNat, u.len)]

theorem units_reach {s : State} {acc : Acc} {us : List MUnit} (hub : bitOf s.hub.fubase 0 = false)
    (own : leafMod dataPage.leaf = s.moduleNum.val)
    (h : us.all (fun u => okIs ((translateRange acc u.va u.len).run s) [(dataPage, u.va.toNat, u.len)] s &&
      decide (∀ i < u.len, s.lostAt (cellAt [(dataPage, u.va.toNat, u.len)] (u.va.toNat + i)) 1 = [])) = true) :
    UnitsReach s acc place us := by
  intro u hu
  have h1 := List.all_eq_true.mp h u hu
  simp only [Bool.and_eq_true, decide_eq_true_eq] at h1
  exact resident_of (ok_same h1.1) h1.2 hub own

/-! Words written out from the fields of the encoding tables (08 R184-R196): each field at a value that uses its top bit. -/

/-- R194, R206, R226. -/
theorem test_decode_scalar_integer :
    decodeTableWord 32 0x03F8FFFF = some (.addi 31 17 0x7FFF) ∧
    decodeTableWord 32 0x0A11003F = some (.shli 1 2 63) ∧
    decodeTableWord 32 0x12904001 = some (.lui 9 0x4001) ∧
    decodeTableWord 32 0x2C3003FF = some (.srd 3 0x3FF) ∧
    decodeTableWord 32 0x3E358010 = some (.qw 3 11) ∧
    decodeTableWord 32 0x3EC38011 = some (.qr 12 7) := by decide +kernel

/-- R208, R211. -/
theorem test_decode_scalar_memory :
    decodeTableWord 32 0x01550020 = some (.ldl 21 10) ∧
    decodeTableWord 32 0x205F7FFE = some (.ldHN 5 30 0x7FFE) ∧
    decodeTableWord 32 0x2A638008 = some (.stD 6 7 8) := by decide +kernel

/-- R220, R222, R223, R225. -/
theorem test_decode_scalar_control :
    decodeTableWord 32 0x30117FFF = some (.beq 1 2 0x7FFF) ∧
    decodeTableWord 32 0x3DFFFFFE = some (.jal 0x1FFFFFE) ∧
    decodeTableWord 32 0x3E321402 = some (.loop 3 4 5) ∧
    decodeTableWord 32 0x3E740003 = some (.vrep 7 8) ∧
    decodeTableWord 32 0x3FF00406 = some (.scall 31 1) := by decide +kernel

/-- R218, R241, R260, R261, R262. -/
theorem test_decode_vector_elements :
    decodeTableWord 32 0xC04299B9 = some (.fcvt 4 5 6 3 1) ∧
    decodeTableWord 32 0x4A638800 = some (.vcvt 6 7 2 0 false) ∧
    decodeTableWord 32 0x4A63F3C1 = some (.vqnt 6 7 0x1C 15) ∧
    decodeTableWord 32 0x4C952F26 = some (.vcmp 9 10 11 12 true 6) ∧
    decodeTableWord 32 0x70110C01 = some (.vsetl 1 2 3) := by decide +kernel

/-- R250, R252, R256. -/
theorem test_decode_vector_memory :
    decodeTableWord 32 0x62110D22 = some (.vstx 1 2 3 4 true) ∧
    decodeTableWord 32 0x6084F807 = some (.vldz 8 9 15) ∧
    decodeTableWord 32 0x60110C08 = some (.vpf 1 2 3 0 false) := by decide +kernel

/-- R227, R266, R267, R271. -/
theorem test_decode_masks_and_permutes :
    decodeTableWord 32 0x744281A0 = some (.mpopv 4 5 6 true) ∧
    decodeTableWord 32 0x76D78100 = some (.mcnt 13 15) ∧
    decodeTableWord 32 0x78100C42 = some (.vshuf 1 0 3 1 false) ∧
    decodeTableWord 32 0x78219160 = some (.vslideup 2 3 4 5 true) ∧
    decodeTableWord 32 0x7E320160 = some (.vfold 3 4 5 true) := by decide +kernel

/-- R281, R288, R294, R296. -/
theorem test_decode_fibres :
    decodeTableWord 32 0x81C00780 = some (.fld 7 30) ∧
    decodeTableWord 32 0x8253000A = some (.funiAdd 1 2 3) ∧
    decodeTableWord 32 0x84283202 = some (.fexp 5 6 8) ∧
    decodeTableWord 32 0x85F00006 = some (.fcnt 1 6) := by decide +kernel

/-- R314, R323. -/
theorem test_decode_accumulator :
    decodeTableWord 32 0x95400886 = some (.accred 5 17) ∧
    decodeTableWord 32 0x96DC0219 = some (.titer 3 14 4 1) := by decide +kernel

/-- R327, R329, R333, R352. -/
theorem test_decode_synchronisation :
    decodeTableWord 32 0xA0007C00 = some (.ctas 31) ∧
    decodeTableWord 32 0xA0203C02 = some (.crd 2 15) ∧
    decodeTableWord 32 0xA000BE08 = some (.bar 1 15 4) ∧
    decodeTableWord 32 0xA4110E02 = some (.sigwait 1 2 3 4) ∧
    decodeTableWord 32 0xB0530008 = some (.cplw 5 6) := by decide +kernel

/-- R335, R337, R341, R346, R358. -/
theorem test_decode_engines :
    decodeTableWord 32 0xB0740000 = some (.gstr 7 8) ∧
    decodeTableWord 32 0xB2110D38 = some (.gath 1 2 3 4 true 1 8) ∧
    decodeTableWord 32 0xB0321413 = some (.pghint 3 4 5) ∧
    decodeTableWord 32 0xA8110C09 = some (.bnkopCas 1 2 3) ∧
    decodeTableWord 32 0xB6110D20 = some (.bnkexa 1 2 3 4 true) := by decide +kernel

/-- R367, R371. -/
theorem test_decode_calderas :
    decodeTableWord 32 0xBC111406 = some (.cstat 1 2 5) ∧
    decodeTableWord 32 0xBE117804 = some (.cdep 1 2 15 1) := by decide +kernel

/-- R229, R230, R233, R234, R236. -/
theorem test_decode_system :
    decodeTableWord 32 0xD2048105 = some (.mts 9 0x105) ∧
    decodeTableWord 32 0xD4000001 = some .tret ∧
    decodeTableWord 32 0xD4110002 = some (.launch 1 2) ∧
    decodeTableWord 32 0xD4008A07 = some (.xlinv 1 2 4) ∧
    decodeTableWord 32 0xD4110C0A = some (.lgretire 1 2 3) := by decide +kernel

/-- R187, R189: words of the reserved space, of unassigned system codes, and with a field outside its range are refused by name. -/
theorem test_decode_refuses :
    decodeWord 0xFFFFFFFF = .error .illegal ∧ decodeWord 0xFDFFFFFF = .error .reservedSpace ∧ decodeWord 0xEFFFFFFF = .error .illegal ∧ decodeWord 0xD7FFFFFF = .error .systemUnassigned ∧
    decodeWord 0x3E740403 = .error .illegal ∧ decodeTableWord 32 0x3E740403 = none := 
  ⟨rfl, rfl, rfl, rfl, rfl, by decide +kernel⟩
/-! Ill-formed operands: for each check of WellFormed a term that it refuses. -/

/-- R188: a modifier of a source that the form has not, that is not zero, or that another kind of form takes. -/
theorem test_wf_modifiers :
    (Instr.vadd 1 2 3 5 false).wf = false ∧ (Instr.vadd 1 2 3 1 false).wf = false ∧ (Instr.vadd 1 2 3 3 false).wf = false ∧
    (Instr.vadd 1 0 3 1 false).wf = true ∧ (Instr.vadd 1 2 0 4 false).wf = true ∧ (Instr.vadd 1 2 3 15 false).wf = true ∧
    (Instr.vaddS 1 2 0 11 false).wf = true ∧ (Instr.vaddS 1 2 3 11 false).wf = false ∧ (Instr.vaddS 1 2 0 12 false).wf = false ∧
    (Instr.vst 1 2 15 false).wf = false ∧ (Instr.vshuf 1 2 3 15 false).wf = false ∧ (Instr.vldq 0 2 3).wf = false ∧
    (Instr.gath 1 2 3 15 false 0 2).wf = false ∧ (Instr.bnkexa 1 2 3 1 false).wf = false := by decide +kernel

/-- R239, R261: the type literals of VCVT, VSAT, VQNT and VDQNT, and the relations of VCMP (R262). -/
theorem test_wf_literals :
    (Instr.vcvt 1 2 6 0 false).wf = false ∧ (Instr.vcvt 1 2 16 0 false).wf = true ∧ (Instr.vcvt 1 2 17 0 false).wf = false ∧
    (Instr.vsat 1 2 22 0 false).wf = false ∧ (Instr.vqnt 1 2 21 0).wf = false ∧ (Instr.vqnt 1 2 28 0).wf = true ∧
    (Instr.vdqnt 1 2 29 0).wf = false ∧ (Instr.vcmp 1 2 3 0 false 7).wf = false ∧ (Instr.vcmpS 1 2 3 0 false 7).wf = false := by
  decide +kernel

/-- R226: which queue numbers each form takes. -/
theorem test_wf_queues :
    (Instr.qw 4 1).wf = false ∧ (Instr.qr 1 5).wf = false ∧ (Instr.qr 1 8).wf = false ∧ (Instr.qpeek 1 3).wf = false ∧
    (Instr.qstat 1 8).wf = false ∧ (Instr.qstat 1 7).wf = true := by decide +kernel

/-- R279, R301, R310, R317: register pairs, quads and groups, and destinations that must differ from their sources (R288). -/
theorem test_wf_registers :
    (Instr.fld 1 0).wf = false ∧ (Instr.fst 1 5).wf = false ∧ (Instr.fexp 1 2 31).wf = false ∧ (Instr.fldlv 1 6).wf = false ∧
    (Instr.fldlv 1 0).wf = false ∧ (Instr.accld 1 3).wf = false ∧ (Instr.accst 1 0).wf = false ∧ (Instr.tshape 0).wf = false ∧
    (Instr.tshape 30).wf = false ∧ (Instr.mmaT 1 4 2).wf = false ∧ (Instr.mmasM 1 9 2 3).wf = false ∧ (Instr.tluf 1 3 2).wf = false ∧
    (Instr.ttrsLp 1 3 2 4).wf = false ∧ (Instr.titer 0 2 5 0).wf = false ∧ (Instr.rstvMc 1 2 3 0 false 0 0).wf = false ∧
    (Instr.funiA 1 1 2).wf = false ∧ (Instr.fmrg 2 1 2).wf = false ∧ (Instr.vldz 1 2 0).wf = false ∧ (Instr.cdep 1 2 0 0).wf = false := by
  decide +kernel

/-- R328, R329, R346, R349, R352, R358, R371: scopes, paths, levels, link formats, classes and counters out of range; R252: VPF with an unused
field; R195: a block without streams or with too many. -/
theorem test_wf_ranges :
    (Instr.bar 1 2 5).wf = false ∧ (Instr.xfence 1 2 5).wf = false ∧ (Instr.sigwait 1 2 3 7).wf = false ∧ (Instr.sigincR 1 2 6).wf = false ∧
    (Instr.xlinv 1 2 5).wf = false ∧ (Instr.cplw 6 1).wf = false ∧ (Instr.oncpl 7 1 2).wf = false ∧ (Instr.pghint 0 1 2).wf = false ∧
    (Instr.gath 1 2 3 0 false 0 9).wf = false ∧ (Instr.rstv 1 2 0 false 0 3).wf = false ∧ (Instr.cstat 1 2 6).wf = false ∧
    (Instr.vpf 0 1 2 0 false).wf = false ∧ (Instr.sblk 0 3).wf = false ∧ (Instr.sblk 17 3).wf = false ∧ (Instr.sblk 16 3).wf = true := by
  decide +kernel

/-- R215, R217, R218: rounding modes and types of the scalar floating-point forms; one type of FCVT is a floating-point type. -/
theorem test_wf_scalar_float :
    (Instr.fadd 1 2 3 4 0).wf = false ∧ (Instr.ffma 1 2 3 0 4).wf = false ∧ (Instr.fsqrt 1 2 5 0).wf = false ∧ (Instr.fcmp 1 2 3 4).wf = false ∧
    (Instr.fcvt 1 2 0 4 0).wf = false ∧ (Instr.fcvt 1 2 4 0 5).wf = false ∧ (Instr.fcvt 1 2 7 3 3).wf = true := by decide +kernel

/-- R189: an ill-formed instruction takes the illegal-instruction trap, with its word in TVAL. -/
theorem test_ill_formed_traps :
    goes (exec (.bar 1 2 5) (stateWith (strandWith []))) (fun u => on0 u fun t =>
      t.cond == .stopped && t.hart.tcause == 0x01 && t.hart.tval == 0xA0008A88) = true := by decide +kernel
/-! Single steps, with results worked out by hand from the rules. -/

/-- A strand for the scalar tests: g1 = 7, g2 = -3, g3 = 2^63, g4 = all ones, g5 = 0x10000 (DRAM), g6 = 1.0 and g7 = 2.0 (FP32), g8 = NaN. -/
def tS : Strand :=
  strandWith [0, 7, 2 ^ 64 - 3, 2 ^ 63, 2 ^ 64 - 1, 0x10000, 0x3F800000, 0x40000000, 0x7FC00000, 0x20000, 0x102, 0x3F800001]
def sS : State := { stateWith tS with mem := Cells.write [] (dataPage.cell 0x10000) 8 0x8877665544332211 }

/-- R206: ADDI extends its immediate with its sign: 7 + (-8) = -1, and the next word follows. -/
theorem test_addi : goes (exec (.addi 9 1 0x7FF8) sS) (fun u => on0 u fun t => t.rd 9 == 0xFFFFFFFFFFFFFFFF && t.hart.pc == 0x104) = true := by
  decide +kernel

/-- R185: a write to g0 is discarded. -/
theorem test_add_g0 : goes (exec (.add 0 1 1) sS) (fun u => on0 u fun t => t.rd 0 == 0 && t.hart.g == tS.hart.g) = true := by decide +kernel

/-- R204: 2^63 + 2^63 wraps to 0; the high half of -3 times -3 is 0, and of its unsigned reading 2^64 - 6. -/
theorem test_wraps :
    goes (exec (.add 9 3 3) sS) (fun u => on0 u fun t => t.rd 9 == 0) = true ∧
    goes (exec (.mulh 9 2 2) sS) (fun u => on0 u fun t => t.rd 9 == 0) = true ∧
    goes (exec (.mulhn 9 2 2) sS) (fun u => on0 u fun t => t.rd 9 == 0xFFFFFFFFFFFFFFFA) = true := by decide +kernel

/-- R205: -3 / 7 is 0 with remainder -3; 7 / 0 is all ones; -2^63 / -1 is -2^63. -/
theorem test_division :
    goes (exec (.rem 9 2 1) sS) (fun u => on0 u fun t => t.rd 9 == 0xFFFFFFFFFFFFFFFD) = true ∧
    goes (exec (.div 9 1 0) sS) (fun u => on0 u fun t => t.rd 9 == 0xFFFFFFFFFFFFFFFF) = true ∧
    goes (exec (.div 9 3 4) sS) (fun u => on0 u fun t => t.rd 9 == 0x8000000000000000) = true := by decide +kernel

/-- R204: SRA by 64 + 2 shifts by 2; SLT and SLTN differ on -3 and 7; CLZ of 7 is 61. -/
theorem test_shift_compare_count :
    goes (exec (.srai 9 3 2) sS) (fun u => on0 u fun t => t.rd 9 == 0xE000000000000000) = true ∧
    goes (exec (.slt 9 2 1) sS) (fun u => on0 u fun t => t.rd 9 == 1) = true ∧
    goes (exec (.sltn 9 2 1) sS) (fun u => on0 u fun t => t.rd 9 == 0) = true ∧
    goes (exec (.clz 9 1) sS) (fun u => on0 u fun t => t.rd 9 == 61) = true := by decide +kernel

/-- R2, R208: the least significant byte is at the lowest address, a signed load extends bit 15, an unsigned one does not. -/
theorem test_loads :
    goes (exec (.ldH 9 5 6) sS) (fun u => on0 u fun t => t.rd 9 == 0xFFFFFFFFFFFF8877) = true ∧
    goes (exec (.ldHN 9 5 6) sS) (fun u => on0 u fun t => t.rd 9 == 0x8877) = true ∧
    goes (exec (.ldW 9 5 1) sS) (fun u => on0 u fun t => t.rd 9 == 0x55443322) = true := by decide +kernel

/-- R208: ST.W stores four bytes and leaves the next. -/
theorem test_store :
    goes (exec (.stW 2 5 2) sS) (fun u => u.mem.read (dataPage.cell 0x10000) 8 == 0x8877FFFFFFFD2211) = true := by decide +kernel

/-- R212, R211: STC without a reservation stores nothing and answers 1; a misaligned LDL traps with its address in TVAL. -/
theorem test_linked :
    goes (exec (.stc 9 5 1) sS) (fun u => (u.mem == sS.mem) && on0 u fun t => t.rd 9 == 1) = true ∧
    goes (exec (.ldl 9 10) sS) (fun u => on0 u fun t => t.hart.tcause == 0x04 && t.hart.tval == 0x102 && t.cond == .stopped) = true := by
  decide +kernel

/-- R220, R221: a branch taken goes to pc + 4 times its offset; JALR to 0x102 is misaligned. -/
theorem test_branches :
    goes (exec (.blt 2 1 0x7FFE) sS) (fun u => on0 u fun t => t.hart.pc == 0xF8) = true ∧
    goes (exec (.bltn 2 1 0x7FFE) sS) (fun u => on0 u fun t => t.hart.pc == 0x104) = true ∧
    goes (exec (.jal 4) sS) (fun u => on0 u fun t => t.hart.pc == 0x110 && t.rd 1 == 0x104) = true ∧
    goes (exec (.jalr 9 10) sS) (fun u => on0 u fun t => t.hart.tcause == 0x04 && t.hart.tval == 0x102 && t.rd 9 == 0x20000) = true := by
  decide +kernel

/-- R222: LOOP of 7 turns over 4 words. -/
theorem test_loop :
    goes (exec (.loop 0 1 3) sS) (fun u => on0 u fun t =>
      t.hart.lact && t.hart.lbeg == 0x104 && t.hart.lend == 0x114 && t.hart.lrem == 7 && t.hart.pc == 0x104) = true := by decide +kernel

/-- R225, R387: SCALL saves the next word's address, BRK its own; the code is in TVAL. -/
theorem test_calls :
    goes (exec (.scall 1 2) sS) (fun u => on0 u fun t => t.hart.tcause == 0x0F && t.hart.tpc == 0x104 && t.hart.tval == 34) = true ∧
    goes (exec (.brk 0 2) sS) (fun u => on0 u fun t => t.hart.tcause == 0x0E && t.hart.tpc == 0x100 && t.hart.tval == 2) = true := by
  decide +kernel

/-- R216, R219: FP32 1.0 + 2.0 = 3.0 with no flag; 1.0 / 0 is infinite with DZ; 1.00000012 * 1.00000012 is inexact. -/
theorem test_scalar_float :
    goes (exec (.fadd 9 6 7 0 1) sS) (fun u => on0 u fun t => t.rd 9 == 0x40400000 && fieldOf t.hart.status 4 0 == 0) = true ∧
    goes (exec (.fdiv 9 6 0 0 1) sS) (fun u => on0 u fun t => t.rd 9 == 0x7F800000 && fieldOf t.hart.status 4 0 == 8) = true ∧
    goes (exec (.fmul 9 11 11 0 1) sS) (fun u => on0 u fun t => t.rd 9 == 0x3F800002 && fieldOf t.hart.status 4 0 == 1) = true := by decide +kernel

/-- R217, R218: a NaN is unordered; 7 converts to 7.0 in FP32. -/
theorem test_compare_convert :
    goes (exec (.fcmp 9 6 8 1) sS) (fun u => on0 u fun t => t.rd 9 == 8) = true ∧
    goes (exec (.fcmp 9 6 7 1) sS) (fun u => on0 u fun t => t.rd 9 == 1) = true ∧
    goes (exec (.fcvt 9 1 6 0 1) sS) (fun u => on0 u fun t => t.rd 9 == 0x40E00000) = true := by decide +kernel

/-- R229, R228: a user strand's MFS takes the privilege trap; SRD reads VTYPE and refuses TCAUSE. -/
theorem test_special :
    goes (exec (.mfs 9 0x104) sS) (fun u => on0 u fun t => t.rd 9 == 0x0001000000100000) = true ∧
    goes (exec (.mfs 9 0x104) (stateWith { tS with hart := { tS.hart with status := 0 } })) (fun u => on0 u fun t =>
      t.hart.tcause == 0x03 && t.rd 9 == 0x20000) = true ∧
    goes (exec (.srd 9 0x100) sS) (fun u => on0 u fun t => t.hart.tcause == 0x03) = true := by decide +kernel

/-- R226: QW puts ga into its queue; QR of an empty queue sleeps with the pc where it is. -/
theorem test_queues :
    goes (exec (.qw 2 1) sS) (fun u => on0 u fun t => t.qs[2] == [7] && t.hart.pc == 0x104) = true ∧
    goes (exec (.qr 9 6) sS) (fun u => on0 u fun t => t.cond == .asleep (.queueEmpty 6) && t.hart.pc == 0x100) = true := by decide +kernel
/-! Single steps of the other families. -/

/-- A strand with four FP32 elements: v1 = 1, 2, 3, 4, v2 = 0.5 everywhere, v3 = indices 3, 0, 9, 1; m1 selects elements 0 and 2. -/
def tV : Strand :=
  { strandWith [0, 7, 1, 0x10000, 0x10100, 2, 0x20000, 0x10040, 0, 0x0202, 0x102] with
    vl := 0x400000004
    v := (((Vector.replicate 32 0).set 1 (image 32 [0x3F800000, 0x40000000, 0x40400000, 0x40800000])).set 2
      (image 32 [0x3F000000, 0x3F000000, 0x3F000000, 0x3F000000])).set 3 (image 32 [3, 0, 9, 1])
    m := (Vector.replicate 16 0).set 1 0x5 }
def sV : State := { stateWith tV with mem := laid dataPage 0x10000 [(4, 0x11111111), (4, 0x22222222), (4, 0x33333333), (4, 0x44444444)] [] }

/-- Elements of a vector register of the strand in context 0. -/
def elems (u : State) (r : Fin 32) (n : Nat) : List Nat := (List.range n).map fun k => elemAt 32 ((u.strand? 0).elim 0 fun t => t.v[r].toNat) k

/-- R237, R259: VADD under a mask writes elements 0 and 2 and keeps 1 and 3. -/
theorem test_vadd :
    goes (exec (.vadd 1 1 2 1 true) sV) (fun u => elems u 1 4 == [0x3FC00000, 0x40000000, 0x40600000, 0x40800000]) = true := by
  decide +kernel

/-- R258: an .S form reads the low bits of gb. -/
theorem test_vor_scalar : goes (exec (.vorS 4 3 1 0 false) sV) (fun u => elems u 4 4 == [7, 7, 15, 7]) = true := by decide +kernel

/-- R262: VCMP for less: 0.5 < 1, 2, 3, 4 and not the other way. -/
theorem test_vcmp :
    goes (exec (.vcmp 2 2 1 0 false 2) sV) (fun u => on0 u fun t => fieldOf (t.m[2].truncate 64) 3 0 == 15) = true ∧
    goes (exec (.vcmp 2 1 2 0 false 2) sV) (fun u => on0 u fun t => fieldOf (t.m[2].truncate 64) 3 0 == 0) = true := by decide +kernel

/-- R267: VSHUF reads zero for an index beyond the elements; VSLIDEDN moves down and brings in zeros. -/
theorem test_permutes :
    goes (exec (.vshuf 4 1 3 0 false) sV) (fun u => elems u 4 4 == [0x40800000, 0x3F800000, 0, 0x40000000]) = true ∧
    goes (exec (.vslidedn 4 1 2 0 false) sV) (fun u => elems u 4 4 == [0x40000000, 0x40400000, 0x40800000, 0]) = true := by decide +kernel

/-- R268: VCOMPRESS packs the selected elements and makes VL two. -/
theorem test_vcompress :
    goes (exec (.vcompress 4 1 1) sV) (fun u => elems u 4 2 == [0x3F800000, 0x40400000] && on0 u fun t => t.vl == 0x200000002) = true := by
  decide +kernel

/-- R270: 0.5 + 1 + 2 + 3 + 4 = 10.5 in element 0. -/
theorem test_vredsum : goes (exec (.vredsum 4 1 2 0 false) sV) (fun u => elems u 4 1 == [0x41280000]) = true := by decide +kernel

/-- R250: a load of four elements, and one of two with a stride of 8 bytes. -/
theorem test_vector_loads :
    goes (exec (.vld 4 3 0 false) sV) (fun u => elems u 4 4 == [0x11111111, 0x22222222, 0x33333333, 0x44444444]) = true ∧
    goes (exec (.vlds 4 3 8 1 true) sV) (fun u => elems u 4 4 == [0x11111111, 0, 0x11111111, 0]) = true := by decide +kernel

/-- R253: VSTC packs the selected elements in memory. -/
theorem test_vstc : goes (exec (.vstc 1 4 1 true) sV) (fun u => u.mem.read (dataPage.cell 0x10100) 12 == 0x404000003F800000) = true := by
  decide +kernel

/-- R265, R227: MNOT of m1 over four elements is 0b1010; MFIRST of m0, which is empty, is all ones. -/
theorem test_masks :
    goes (exec (.mnot 2 1) sV) (fun u => on0 u fun t => t.m[2] == 0xA) = true ∧
    goes (exec (.mfirst 9 0) sV) (fun u => on0 u fun t => t.rd 9 == 0xFFFFFFFFFFFFFFFF) = true ∧
    goes (exec (.mcnt 9 1) sV) (fun u => on0 u fun t => t.rd 9 == 2) = true := by decide +kernel

/-- R241: VSETL of 1000 FP32 elements in one register grants VLMAX = 512; of a reserved image it traps with the image in TVAL. -/
theorem test_vsetl :
    goes (exec (.vsetl 9 3 8) sV) (fun u => on0 u fun t => t.rd 9 == 512 && fieldOf t.vl 31 0 == 512 && t.vpad == 0) = true ∧
    goes (exec (.vsetl 9 3 1) sV) (fun u => on0 u fun t => t.hart.tcause == 0x01 && t.hart.tval == 7) = true := by decide +kernel

/-- Two fibres of FP32 values on coordinates 1, 4 and 4, 9. -/
def tF : Strand :=
  { tV with
    f := ((Vector.replicate 8 (fibreOf 0 [])).set 1 (fibreOf 0 [(1, 0x3F800000), (4, 0x40000000)])).set 2
      (fibreOf 0 [(4, 0x40400000), (9, 0x3F000000)]) }

/-- R287, R288: their intersection with ADD is 4: 5.0; their union has three entries. -/
theorem test_fibres :
    goes (exec (.fintAdd 3 1 2) (stateWith tF)) (fun u => on0 u fun t => t.f[3].entries == [(4, 0x40A00000)]) = true ∧
    goes (exec (.funiAdd 3 1 2) (stateWith tF)) (fun u => on0 u fun t =>
      t.f[3].entries == [(1, 0x3F800000), (4, 0x40A00000), (9, 0x3F000000)]) = true := by decide +kernel

/-- A strand with a window of the accumulator store and descriptor d1 at its start, FP32 rows 128 bytes apart. -/
def tA : Strand := { tV with accwin := 3072 * 2 ^ 32, d := (Vector.replicate 8 0).set 1 0x10000 }
def sA : State := { stateWith tA with cores := [(0, { core0 with acc := Cells.write [] 128 8 0x4000000040400000 })] }

/-- R310, R312: ACCRD of a 2 by 2 tile reads it in row-major order; ACCZ clears it. -/
theorem test_accumulator :
    goes (exec (.accrd 1 4 9) sA) (fun u => elems u 4 4 == [0, 0, 0x40400000, 0x40000000]) = true ∧
    goes (exec (.accz 1 9) sA) (fun u => (u.core 0).acc == []) = true := by decide +kernel

/-- R127: CTAS takes semaphore 5 of the quad; R327: CRD reads a data register. -/
theorem test_quad :
    goes (exec (.ctas 5) sV) (fun u => (u.quad 0).sem == 0x20 && on0 u fun t => t.hart.pc == 0x104) = true ∧
    goes (exec (.crd 9 3) (sV.setQuad 0 { sV.quad 0 with data := (sV.quad 0).data.set 3 0xABC })) (fun u => on0 u fun t => t.rd 9 == 0xABC) = true := by
  decide +kernel

/-- R329: BAR of one participant ends at once. -/
theorem test_bar : goes (exec (.bar 2 3 0) sV) (fun u => u.hub.episodes == [] && on0 u fun t => t.hart.pc == 0x104 && t.cond == .runnable) = true := by
  decide +kernel

/-- R332: SIGINC adds 7 to the word at g3. -/
theorem test_siginc : goes (exec (.siginc 3 1) sV) (fun u => u.mem.read (dataPage.cell 0x10000) 8 == 0x2222222211111118) = true := by
  decide +kernel

/-- R335: a bank operation is issued on path 5 with number 1, and performing it adds; on DRAM it takes the protection trap. -/
theorem test_bank :
    goes (exec (.bnkopAdd 9 6 1) sV) (fun u => on0 u fun t => t.cpl[5] == (1, 0) &&
      goes (exec (.pathOperationComplete 0 5 1) u) (fun w => w.mem.read (bankPage.cell 0x20000) 8 == 7 && on0 w fun x => x.cpl[5] == (1, 1))) = true ∧
    goes (exec (.bnkopAdd 9 3 1) sV) (fun u => on0 u fun t => fieldOf t.hart.tcause 7 0 == 6 && t.hart.tval == 0x10000) = true := by decide +kernel

/-- R341: GSTR of a descriptor at an address that is no multiple of 64 is misaligned. -/
theorem test_gstr : goes (exec (.gstr 9 10) sV) (fun u => on0 u fun t => t.hart.tcause == 0x04 && t.hart.tval == 0x102) = true := by decide +kernel

/-- R352: CPLW for an operation that was never issued takes the shape trap. -/
theorem test_cplw : goes (exec (.cplw 0 1) sV) (fun u => on0 u fun t => t.hart.tcause == 0x0B && t.hart.tval == 7) = true := by decide +kernel

/-- R230, R424: TRET restores privilege and interrupts from CCSTAT and goes to TPC on a control complex core. -/
theorem test_tret :
    goes (exec .tret { State.reset with
        turn := .cc 0, ccs := [(0, { State.reset.cc 0 with ccstat := 0x9, handling := 1, hart := { (State.reset.cc 0).hart with tpc := 0x440 } })] })
      (fun u => (u.cc 0).hart.pc == 0x440 && fieldOf (u.cc 0).ccstat 2 0 == 4 && (u.cc 0).handling == 0) = true := by decide +kernel

/-- R234: IDLE sleeps at the next word. -/
theorem test_idle : goes (exec .idle sV) (fun u => on0 u fun t => t.cond == .asleep .idle && t.hart.pc == 0x104) = true := by decide +kernel

/-- R436, R437: a module reset clears memory and leaves control complex core 0 alone running. -/
theorem test_module_reset :
    goes (exec .moduleReset sV) (fun u => u.mem == [] && u.strands == [] && !(u.cc 0).held && (u.cc 1).held) = true := by decide +kernel

/-- R161: a word placed where the next step after reset fetches is the instruction that the step runs: ADDI g1, g0, 5. -/
theorem test_step_from_reset :
    goes (step (State.reset.withFetchWord 32 0x02100005)) (fun u => on0 u fun t => t.rd 1 == 5 && t.hart.pc == 0x104) = true := by decide +kernel

/-- R187, R189: a zero word there takes the illegal-instruction trap. -/
theorem test_step_illegal :
    goes (step (State.reset.withFetchWord 32 0x00000000)) (fun u => on0 u fun t =>
      fieldOf t.hart.tcause 7 0 == 1 && t.hart.tval == 0 && t.cond == .stopped) = true := by decide +kernel
/-! Witnesses: for every statement that has hypotheses, a state and operands that meet them, clause by clause. -/

theorem sS_program : InProgram sS 0 tS := inProgram_of (by decide +kernel)
theorem sS_ready : Ready sS 0 tS := sS_program.toReady

/-- A control complex core at supervisor privilege, its turn: core 3, in a trap handler, with a loop open. -/
def ccOf (stat handling : Nat) : CcCore :=
  { State.reset.cc 3 with ccstat := BitVec.ofNat 64 stat, handling := handling, held := false, tvec := 0x4000 }
def sC : State := { sS with ccs := [(3, ccOf 0x2B 2)], turn := .cc 3 }

theorem code_plain : codePage.plain :=
  ⟨by decide +kernel, by decide +kernel, by decide +kernel, by decide +kernel, by decide +kernel⟩

theorem translate_same {s u : State} {r : Except Nat PageTr × State} {p : PageTr}
    (h : (match r.1 with | .ok q => decide (q = p) | .error _ => false) = true) (h2 : r.2 = u) : r = (.ok p, u) := by
  obtain ⟨x, s1⟩ := r
  subst h2
  cases x with
  | ok q => simp only [decide_eq_true_eq] at h; rw [h]
  | error e => cases h

/-- What a word of the code page needs, to be fetched as it stands in memory. -/
theorem code_at {s : State} {c : Ctx} {t : Strand} {va : Word} {w : Nat}
    (h1 : (match (s.translate (.strand c) t.hart.ptbase .fetch va).1 with | .ok q => decide (q = codePage) | .error _ => false) = true)
    (h2 : (s.translate (.strand c) t.hart.ptbase .fetch va).2 = s)
    (h3 : leafMod codePage.leaf = s.moduleNum.val ∧ s.mem.read (codePage.cell va.toNat) 4 = w ∧
      s.lostAt (codePage.cell va.toNat) 4 = [] ∧ bitOf s.hub.fubase 0 = false ∧ (s.core (coreNum c)).icache = []) : CodeAt s c t va w :=
  { page := ⟨codePage, translate_same (s := s) h1 h2, code_plain, h3.1, h3.2.1, h3.2.2.1⟩
    held := by intro e he; rw [h3.2.2.2.2] at he; cases he
    untracked := h3.2.2.2.1 }

/-- A strand whose next word is on no page, one that runs into a word of the reserved space, into a system word, and into zeros. -/
def fetching (w : Nat) (pc : Word) (status : Word) : State :=
  { stateWith { tS with hart := { tS.hart with pc := pc, status := status } } with mem := Cells.write [] (codePage.cell 0x100) 4 w }
def tP : Strand := { tS with hart := { tS.hart with pc := 0x100, status := 0 } }

/-- The hypotheses of StepRunsDecoded on a strand: ADDI g1, g0, 5 stands at its program counter. -/
def sP : State := fetching 0x02100005 0x100 0

theorem witness_StepRunsDecoded_strand :
    (sP.agenda = [] ∧ sP.powered = true ∧ sP.boot = .running ∧ sP.turn = .strand 0 ∧ sP.strand? 0 = some tP) ∧
    CodeAt sP 0 tP tP.hart.pc 0x02100005 ∧ fieldOf tP.hart.pc 1 0 = 0 ∧ tP.inReplay tP.hart.pc = false ∧
    (sP.hub.frozen = false ∧ sP.hub.diesReleased = true ∧ tP.returns = [] ∧ tP.stop = none ∧ tP.cond = .runnable ∧ tP.pending = [] ∧
      tP.timeouts = [] ∧ tP.iq = [] ∧ tP.owed = []) ∧ tP.prompt ∧
    fetchWord.run sP = .ok (ran 0 fetchWord sP) (ranTo fetchWord sP) ∧ (ranTo fetchWord sP).strands = sP.strands ∧
    decodeWord (ran 0 fetchWord sP) = .ok (.addi 1 0 5) ∧ isExecute (.addi 1 0 5) = false := by
  have h : ran 0 fetchWord sP = 0x02100005 := by decide +kernel
  exact ⟨by decide +kernel, code_at (by decide +kernel) (by decide +kernel) (by decide +kernel), by decide +kernel, by decide +kernel,
    by decide +kernel, prompt_of (by decide +kernel), runs_ok (by decide +kernel), by decide +kernel, by rw [h]; rfl, by decide +kernel⟩

/-- A vector instruction, that its own side performs at once. -/
def sVec : State := fetching 0x403088A0 0x100 0

theorem witness_StepRunsDecoded_vector :
    runs fetchWord sVec = true ∧ (ranTo fetchWord sVec).strands = sVec.strands ∧ ran 0 fetchWord sVec = 0x403088A0 ∧
    goes (exec (.vadd 3 1 2 2 true) (ranTo fetchWord sVec)) (fun u => !u.sleepsOnQueue 0) = true := by decide +kernel

/-- The same on a control complex core, whose job 0 sees its code page in its own translation cache. -/
def pK : PageTr := { codePage with job := 0, leaf := BitVec.ofNat 64 (0x30 * 2 ^ 26 + 0x1F) }
def cK : CcCore := { ccOf 1 0 with hart := { Hart.zero with pc := 0x100 }, tlb := [pK] }
def sK : State := { sC with ccs := [(3, cK)], mem := Cells.write [] (pK.cell 0x100) 4 0x02100005 }

theorem witness_StepRunsDecoded_core :
    (sK.turn = .cc 3 ∧ (sK.cc 3).held = false ∧ ((sK.cc 3).irqs = [] ∨ bitOf (sK.cc 3).ccstat 2 = false) ∧ (sK.cc 3).asleep = none) ∧
    fetchWord.run sK = .ok (ran 0 fetchWord sK) (ranTo fetchWord sK) ∧ decodeWord (ran 0 fetchWord sK) = .ok (.addi 1 0 5) := by
  have h : ran 0 fetchWord sK = 0x02100005 := by decide +kernel
  exact ⟨by decide +kernel, runs_ok (by decide +kernel), by rw [h]; rfl⟩

theorem witness_EncodingRoundTrip : hasOwnWord (.vcmp 31 31 31 12 true 6) = true ∧ (Instr.vcmp 31 31 31 12 true 6).wf = true := by
  decide +kernel

theorem witness_MemoryStaysCanonical : sS.memOk = true ∧ goes (step sS) (fun _ => true) = true := by decide +kernel

theorem witness_ScalarIntegerResult : Ready sS 0 tS := sS_ready
theorem witness_BitCountResult : Ready sS 0 tS ∧ tS.rd 0 = 0 ∧ tS.rd 4 ≠ 0 := ⟨sS_ready, by decide +kernel⟩
theorem witness_ScalarIntegerOnControlComplex : sC.turn = .cc 3 := by decide +kernel

theorem witness_DivisionNeverTraps :
    Ready sS 0 tS ∧ tS.rd 0 = 0 ∧ (tS.rd 3 = 0x8000000000000000 ∧ tS.rd 4 = 0xFFFFFFFFFFFFFFFF) ∧ tS.rd 1 ≠ 0 :=
  ⟨sS_ready, by decide +kernel⟩

theorem witness_BranchTarget : Ready sS 0 tS := sS_ready
theorem witness_JumpRegister : Ready sS 0 tS ∧ (tS.rd 5).toNat % 4 = 0 ∧ (tS.rd 10).toNat % 4 ≠ 0 := ⟨sS_ready, by decide +kernel⟩

/-- One at a misaligned address, one on no page, and the three words that are no instruction. -/
theorem witness_FetchTraps :
    (∀ x ∈ [(0, (0x102 : Word)), (0, 0x50000), (0xF0000000, 0x100), (0xD1FFFFFF, 0x100), (0, 0x100)],
      let s := fetching x.1 x.2 0
      (s.agenda = [] ∧ s.powered = true ∧ s.boot = .running ∧ s.turn = .strand 0 ∧ s.hub.frozen = false ∧ s.hub.diesReleased = true) ∧
      on0 s (fun t => t.returns == [] && t.stop == none && t.cond == .runnable && t.pending == [] && t.timeouts == [] && t.iq == [] &&
        t.dataErr == none && !t.inReplay t.hart.pc) = true) ∧
    fieldOf (0x102 : Word) 1 0 ≠ 0 ∧
    (match ((fetching 0 0x50000 0).translate (.strand 0) tS.hart.ptbase .fetch 0x50000).1 with
      | .error e => e == 0x05 | .ok _ => false) = true ∧
    (∀ w ∈ [0xF0000000, 0xD1FFFFFF, 0], runs fetchWord (fetching w 0x100 0) = true ∧ ran 1 fetchWord (fetching w 0x100 0) = w ∧
      (ranTo fetchWord (fetching w 0x100 0)).strands = (fetching w 0x100 0).strands) := by decide +kernel

theorem witness_HardwareLoop :
    InProgram sS 0 tS ∧ (tS.hart.lact = false ∧ tS.ract = false ∧ (tS.rd 0).toNat % 2 ^ 32 = 0 ∧ (tS.rd 1).toNat % 2 ^ 32 ≠ 0) ∧
    ({ tS.hart with lact := true } : Hart).lact = true ∧ tS.hart.upc = false := ⟨sS_program, by decide +kernel⟩

theorem witness_SupervisorEntry : InProgram sS 0 tS ∧ sC.turn = .cc 3 := ⟨sS_program, by decide +kernel⟩

/-- Every flag's trap enabled; g1 = 7, g2 = 1.0, g3 a signalling NaN (FP32). -/
def tTrapping : Strand :=
  let t := strandWith [0, 7, 0x3F800000, 0x7F800001]
  { t with hart := { t.hart with status := 0x1F00 } }
theorem sTrapping_ready : Ready (stateWith tTrapping) 0 tTrapping := (inProgram_of (by decide +kernel)).toReady

/-- With the enables clear; and with all set: 1.0 + 1.0 raises nothing, 1.0 / 0 and 1.0 / 7 (a subnormal code) raise a flag. -/
theorem witness_ScalarFloatResult :
    Ready sS 0 tS ∧ Ready (stateWith tTrapping) 0 tTrapping ∧ tS.hart.status.toNat / 2 ^ 8 % 32 = 0 ∧
    (Instr.fadd 9 6 7 3 3).wf = true ∧ (Instr.ffma 9 6 7 0 0).wf = true ∧ (Instr.fsqrt 9 6 3 1).wf = true ∧
    tTrapping.hart.status.toNat / 2 ^ 8 % 32 &&& ((scalarFmt 1).add (scalarMode 0) ((tTrapping.rd 2).toNat % 2 ^ 32) ((tTrapping.rd 2).toNat % 2 ^ 32)).flags.toNat = 0 ∧
    tTrapping.hart.status.toNat / 2 ^ 8 % 32 &&& ((scalarFmt 1).div (scalarMode 0) ((tTrapping.rd 2).toNat % 2 ^ 32) ((tTrapping.rd 0).toNat % 2 ^ 32)).flags.toNat ≠ 0 ∧
    tTrapping.hart.status.toNat / 2 ^ 8 % 32 &&& ((scalarFmt 1).div (scalarMode 0) ((tTrapping.rd 2).toNat % 2 ^ 32) ((tTrapping.rd 1).toNat % 2 ^ 32)).flags.toNat ≠ 0 := by
  refine ⟨sS_ready, sTrapping_ready, ?_⟩
  decide +kernel

theorem witness_ScalarCompareRelation :
    Ready sS 0 tS ∧ (Instr.fcmp 9 6 8 1).wf = true ∧
    (((scalarFmt 1).decode ((tS.rd 6).toNat % 2 ^ 32)).isSnan = false ∧ ((scalarFmt 1).decode ((tS.rd 8).toNat % 2 ^ 32)).isSnan = false) ∧
    tS.hart.status.getLsbD 8 = false ∧
    Ready (stateWith tTrapping) 0 tTrapping ∧ ((scalarFmt 1).decode ((tTrapping.rd 3).toNat % 2 ^ 32)).isSnan = true ∧ tTrapping.hart.status.getLsbD 8 = true := by
  refine ⟨sS_ready, ?_, ?_, ?_, sTrapping_ready, ?_⟩ <;> decide +kernel

theorem witness_ScalarConvert :
    Ready sS 0 tS ∧ (Instr.fcvt 9 1 6 0 1).wf = true ∧ (Instr.fcvt 9 6 1 3 6).wf = true ∧
    tS.hart.status.toNat / 2 ^ 8 % 32 = 0 ∧
    tS.hart.status.toNat / 2 ^ 8 % 32 &&& ((cvtTy 6).round (scalarMode 3) ((cvtTy 1).num (tS.rd 6).toNat)).flags.toNat = 0 ∧
    Ready (stateWith tTrapping) 0 tTrapping ∧
    tTrapping.hart.status.toNat / 2 ^ 8 % 32 &&& ((cvtTy 6).round (scalarMode 3) ((cvtTy 1).num (tTrapping.rd 3).toNat)).flags.toNat ≠ 0 := by
  refine ⟨sS_ready, ?_, ?_, ?_, ?_, sTrapping_ready, ?_⟩ <;> decide +kernel

theorem coherent_empty {m : Cells} {k : Core} (h : k.l1main = [] ∧ k.l1coord = []) : k.coherent m :=
  ⟨by simp [h.1], by simp [h.2], by simp [h.1]⟩

/-- What an access of the data page needs, as one check. -/
def reachable (s : State) (acc : Acc) (va : Word) (n : Nat) : Bool :=
  okIs ((translateRange acc va n).run s) [(dataPage, va.toNat, n)] s && !bitOf s.hub.fubase 0 &&
    decide (leafMod dataPage.leaf = s.moduleNum.val) &&
    decide (∀ i < n, s.lostAt (cellAt [(dataPage, va.toNat, n)] (va.toNat + i)) 1 = [])

theorem resides_of {s : State} {acc : Acc} {va : Word} {n al : Nat} (h : reachable s acc va n = true) :
    Resident s acc va n al [(dataPage, va.toNat, n)] := by
  simp only [reachable, Bool.and_eq_true, Bool.not_eq_true', decide_eq_true_eq] at h
  exact resident_of (ok_same h.1.1.1) h.2 h.1.1.2 h.1.2

theorem reach_of {s : State} {acc : Acc} {va : Word} {n al : Nat} (h : reachable s acc va n = true) :
    Accessible s acc va n al [(dataPage, va.toNat, n)] := (resides_of h).toAccessible

theorem sS_reaches {acc : Acc} {va : Word} {n al : Nat} (h : reachable sS acc va n = true) :
    Accessible sS acc va n al [(dataPage, va.toNat, n)] := reach_of h

theorem tS_prompt : tS.prompt := prompt_of (by decide +kernel)

/-- An unaligned word of 8 bytes of DRAM. -/
theorem witness_ScalarLoads :
    Ready sS 0 tS ∧ tS.prompt ∧ Accessible sS .load (tS.rd 5 + (1 : BitVec 15).signExtend 64) 8 8 [(dataPage, 0x10001, 8)] ∧
    (sS.core 0).coherent sS.mem :=
  ⟨sS_ready, tS_prompt, sS_reaches (by decide +kernel), coherent_empty (by decide +kernel)⟩

theorem witness_ScalarStores :
    Ready sS 0 tS ∧ tS.prompt ∧ Accessible sS .store (tS.rd 5 + (0x7FFF : BitVec 15).signExtend 64 + 1) 8 8 [(dataPage, 0x10000, 8)] :=
  ⟨sS_ready, tS_prompt, sS_reaches (by decide +kernel)⟩

/-- A strand that holds the reservation of the word at g5, and one that holds none. -/
def tL : Strand := { tS with hart := { tS.hart with resv := some (dataPage.cell 0x10000) } }

theorem sL_reaches : Accessible (sS.setStrand 0 tL) .rw (tL.rd 5) 8 8 [(dataPage, 0x10000, 8)] := reach_of (by decide +kernel)

theorem witness_LinkedAccess :
    InProgram sS 0 tS ∧ tS.prompt ∧ InProgram (sS.setStrand 0 tL) 0 tL ∧ tL.prompt ∧ (tS.rd 5).toNat % 8 = 0 ∧
    Accessible sS .rw (tS.rd 5) 8 8 [(dataPage, 0x10000, 8)] ∧ Accessible (sS.setStrand 0 tL) .rw (tL.rd 5) 8 8 [(dataPage, 0x10000, 8)] ∧
    tL.hart.resv = some (dataPage.cell (tL.rd 5).toNat) ∧
    tS.hart.resv ≠ some (dataPage.cell (tS.rd 5).toNat) :=
  ⟨sS_program, tS_prompt, inProgram_of (by decide +kernel), prompt_of (by decide +kernel), by decide +kernel,
    sS_reaches (by decide +kernel), sL_reaches, by decide +kernel⟩

theorem witness_LinkedMisaligned : InProgram sS 0 tS ∧ (tS.rd 10).toNat % 8 ≠ 0 := ⟨sS_program, by decide +kernel⟩

theorem witness_WriteClearsReservations :
    0 < 1 ∧ (sS.setStrand 0 tL).strand? 0 = some tL ∧ tL.hart.resv = some (dataPage.cell 0x10000) := by decide +kernel

theorem witness_SpecialRead : InProgram sS 0 tS ∧ tS.hart.sysh = true := ⟨sS_program, by decide +kernel⟩
theorem witness_SpecialWrite : InProgram sS 0 tS ∧ tS.hart.sysh = true := ⟨sS_program, by decide +kernel⟩

/-- q3 full, q6 empty, q7 with two values. -/
def tQ : Strand := { tS with qs := (Vector.replicate 4 []).set 3 (List.replicate 16 5), qr := (Vector.replicate 2 []).set 1 [.value 8, .value 9] }

theorem witness_QueueInstructions :
    Ready (stateWith tQ) 0 tQ ∧ tQ.qs[0].length < 16 ∧ 16 ≤ tQ.qs[3].length ∧ tQ.qr[1] = .value 8 :: [.value 9] ∧ tQ.qr[0] = [] ∧
    tQ.hart.upc = false := ⟨(inProgram_of (by decide +kernel)).toReady, by decide +kernel⟩

/-- INT32 elements, for the forms of class I. -/
def tI : Strand := { tV with vtype := 0xA }

theorem witness_MaskInstructions :
    InProgram (stateWith tI) 0 tI ∧ tI.starts (tI.view ((stateWith tI).groupsOf 0)) (.mpopv 4 1 2 true)
      (classI (tI.view ((stateWith tI).groupsOf 0)).et)
      (groupsOk (some ((tI.view ((stateWith tI).groupsOf 0)).span 4)) [] false) false :=
  ⟨inProgram_of (by decide +kernel), starts_of (by decide +kernel)⟩

/-- A body of one vector word after VREP, and an outstanding operation. -/
def sR : State := { stateWith tS with mem := Cells.write [] (codePage.cell 0x104) 4 0x403088A0 }
def tO : Strand := tS.issue 2 (.copy 0 0x10000 0x10040 8 [])

def bodyWord : List Nat := [0x403088A0]

theorem witness_ReplayYieldExit :
    InProgram sR 0 tS ∧ (tS.ract = false ∧ tS.hart.lact = false) ∧ bodyWord.length = 0 + 1 ∧
    (∀ k, k ≤ 0 → CodeAt sR 0 tS (tS.hart.pc + BitVec.ofNat 64 (4 + 4 * k)) (bodyWord.getD k 0) ∧ vrepWordOk (bodyWord.getD k 0) = true) ∧
    (tS.rd 0).toNat % 2 ^ 32 = 0 ∧ (tS.rd 1).toNat % 2 ^ 32 ≠ 0 ∧ tS.ops = [] ∧ tO.ops ≠ [] := by
  refine ⟨inProgram_of (by decide +kernel), by decide +kernel, rfl, ?_, by decide +kernel⟩
  intro k hk
  obtain rfl : k = 0 := by omega
  exact ⟨code_at (by decide +kernel) (by decide +kernel) (by decide +kernel), by decide +kernel⟩
/-! Vector statements. -/

theorem sV_program : InProgram sV 0 tV := inProgram_of (by decide +kernel)

/-- Views of the strands with FP32 and with INT32 elements. -/
def vV : VView := tV.view (sV.groupsOf 0)
def sI : State := { sV with strands := [(0, tI)] }
def vI : VView := tI.view (sI.groupsOf 0)
theorem sI_program : InProgram sI 0 tI := inProgram_of (by decide +kernel)

/-- A strand whose q4 and q0 to q3 have entries, for the forms that read a queue. -/
def tY : Strand :=
  { tV with
    qv := (Vector.replicate 2 []).set 0 [{ count := 4, width := 32, bits := 0x3F80000040000000, awaits := none }]
    qs := Vector.replicate 4 [5, 6] }
def sY : State := { sV with strands := [(0, tY)] }
def vY : VView := tY.view (sY.groupsOf 0)
theorem sY_program : InProgram sY 0 tY := inProgram_of (by decide +kernel)

theorem all_start {t : Strand} {v : VView} {a g r : Bool} {l : List Instr}
    (h : (l.all fun i => i.wf && a && g && rounding t v r) = true) : ∀ i ∈ l, t.starts v i a g r :=
  fun i hi => starts_of (List.all_eq_true.mp h i hi)

theorem all_startMem {t : Strand} {v : VView} {f : MemForm} {g : Bool} {l : List Instr}
    (h : (l.all fun i => i.wf && v.formOk f && g && rounding t v (v.mfmt != 0) && promptly t) = true) :
    ∀ i ∈ l, t.startsMem v i f g := fun i hi => startsMem_of (List.all_eq_true.mp h i hi)

/-- FP32 operands in registers, masked. -/
theorem witness_VectorBinary_float :
    InProgram sV 0 tV ∧ (∃ x y, tV.vecIn vV none (vV.span 1) vV.w = some x ∧ tV.vecIn vV none (vV.span 2) vV.w = some y) ∧
    (modsOf 1 true).qa = none ∧ (modsOf 1 true).qb = none ∧
    (∀ i ∈ [Instr.vadd 4 1 2 1 true, .vsub 4 1 2 1 true, .vmul 4 1 2 1 true, .vdiv 4 1 2 1 true],
      tV.starts vV i (classFI vV.et) (groupsOk (some (vV.spanOf 4 vV.w)) [vV.span 1, vV.span 2] false) (true && classF vV.et)) ∧
    (∀ i ∈ [Instr.vmin 4 1 2 1 true, .vmax 4 1 2 1 true],
      tV.starts vV i (classFI vV.et) (groupsOk (some (vV.spanOf 4 vV.w)) [vV.span 1, vV.span 2] false) (false && classF vV.et)) ∧
    (∀ i ∈ [Instr.vand 4 1 2 1 true, .vor 4 1 2 1 true, .vxor 4 1 2 1 true],
      tV.starts vV i (classXCode vV.et) (groupsOk (some (vV.spanOf 4 vV.w)) [vV.span 1, vV.span 2] false) (false && classF vV.et)) ∧
    (∀ i ∈ [Instr.vwmul 4 1 2 1 true, .vwadd 4 1 2 1 true],
      tV.starts vV i (hasWide vV.et) (groupsOk (some (vV.spanOf 4 (2 * vV.w))) [vV.span 1, vV.span 2] true) (true && classF vV.et)) :=
  ⟨sV_program, ⟨_, _, rfl, rfl⟩, by decide +kernel, by decide +kernel, all_start (by decide +kernel), all_start (by decide +kernel),
    all_start (by decide +kernel), all_start (by decide +kernel)⟩

/-- INT32 operands, the first from q4. -/
theorem witness_VectorBinary_integer :
    InProgram sI 0 tI ∧ (∃ x y, tI.vecIn vI none (vI.span 1) vI.w = some x ∧ tI.vecIn vI none (vI.span 2) vI.w = some y) ∧
    (∀ i ∈ [Instr.vshl 4 1 2 15 false, .vshr 4 1 2 15 false, .vsra 4 1 2 15 false],
      tI.starts vI i (classI vI.et) (groupsOk (some (vI.spanOf 4 vI.w)) [vI.span 1, vI.span 2] false) (false && classF vI.et)) ∧
    InProgram sY 0 tY ∧ (modsOf 1 false).qa = some 0 ∧ (∃ x, tY.vecIn vY (some 0) (vY.span 0) vY.w = some x) ∧
    tY.starts vY (.vadd 4 0 2 1 false) (classFI vY.et) (groupsOk (some (vY.spanOf 4 vY.w)) [vY.span 2] false) (true && classF vY.et) :=
  ⟨sI_program, ⟨_, _, rfl, rfl⟩, all_start (by decide +kernel), sY_program, by decide +kernel, ⟨_, rfl⟩, starts_of (by decide +kernel)⟩

theorem witness_VectorScalar :
    InProgram sV 0 tV ∧ (∃ x, tV.vecIn vV none (vV.span 1) vV.w = some x) ∧ (∃ y, tV.scalarIn none 1 = some y) ∧
    (∀ i ∈ [Instr.vaddS 4 1 1 1 true, .vsubS 4 1 1 1 true, .vmulS 4 1 1 1 true, .vdivS 4 1 1 1 true],
      tV.starts vV i (classFI vV.et) (groupsOk (some (vV.spanOf 4 vV.w)) [vV.span 1] false) (true && classF vV.et)) ∧
    (∀ i ∈ [Instr.vminS 4 1 1 1 true, .vmaxS 4 1 1 1 true],
      tV.starts vV i (classFI vV.et) (groupsOk (some (vV.spanOf 4 vV.w)) [vV.span 1] false) (false && classF vV.et)) ∧
    (∀ i ∈ [Instr.vandS 4 1 1 1 true, .vorS 4 1 1 1 true, .vxorS 4 1 1 1 true],
      tV.starts vV i (classXCode vV.et) (groupsOk (some (vV.spanOf 4 vV.w)) [vV.span 1] false) (false && classF vV.et)) ∧
    (∀ i ∈ [Instr.vwmulS 4 1 1 1 true, .vwaddS 4 1 1 1 true],
      tV.starts vV i (hasWide vV.et) (groupsOk (some (vV.spanOf 4 (2 * vV.w))) [vV.span 1] true) (true && classF vV.et)) ∧
    InProgram sI 0 tI ∧ (∀ i ∈ [Instr.vshlS 4 1 1 1 true, .vshrS 4 1 1 1 true, .vsraS 4 1 1 1 true],
      tI.starts vI i (classI vI.et) (groupsOk (some (vI.spanOf 4 vI.w)) [vI.span 1] false) (false && classF vI.et)) ∧
    InProgram sY 0 tY ∧ (modsOf 11 false).qs = some 3 ∧ (∃ y, tY.scalarIn (some 3) 0 = some y) :=
  ⟨sV_program, ⟨_, rfl⟩, ⟨_, rfl⟩, all_start (by decide +kernel), all_start (by decide +kernel), all_start (by decide +kernel),
    all_start (by decide +kernel), sI_program, all_start (by decide +kernel), sY_program, by decide +kernel, ⟨_, rfl⟩⟩

theorem witness_VectorFused :
    InProgram sV 0 tV ∧ (∃ x, tV.vecIn vV none (vV.span 1) vV.w = some x) ∧ (∃ y, tV.vecIn vV none (vV.span 2) vV.w = some y) ∧
    (∃ y, tV.scalarIn none 1 = some y) ∧
    (∀ i ∈ [Instr.vfma 4 1 2 1 true, .vfms 4 1 2 1 true, .vfnma 4 1 2 1 true],
      tV.starts vV i (classFI vV.et) (groupsOk (some (vV.span 4)) ([vV.span 1] ++ [vV.span 2]) false) (classF vV.et)) ∧
    (∀ i ∈ [Instr.vfmaS 4 1 1 1 true, .vfmsS 4 1 1 1 true, .vfnmaS 4 1 1 1 true],
      tV.starts vV i (classFI vV.et) (groupsOk (some (vV.span 4)) ([vV.span 1] ++ []) false) (classF vV.et)) :=
  ⟨sV_program, ⟨_, rfl⟩, ⟨_, rfl⟩, ⟨_, rfl⟩, all_start (by decide +kernel), all_start (by decide +kernel)⟩

theorem witness_VectorUnary :
    InProgram sV 0 tV ∧ (∃ x, tV.vecIn vV none (vV.spanOf 1 vV.w) vV.w = some x) ∧
    (∃ x, tV.vecIn vV none (vV.spanOf 2 (2 * vV.w)) (2 * vV.w) = some x) ∧
    (∃ x, tV.vecIn vV none (vV.spanOf 1 (litTy 8).width) (litTy 8).width = some x) ∧
    (∀ i ∈ [Instr.vsqrt 4 1 1 true, .vrcp 4 1 1 true],
      tV.starts vV i (classF vV.et) (groupsOk (some (vV.span 4)) [vV.spanOf 1 vV.w] false) (classF vV.et)) ∧
    (∀ i ∈ [Instr.vabs 4 1 1 true, .vneg 4 1 1 true],
      tV.starts vV i (classFI vV.et) (groupsOk (some (vV.span 4)) [vV.spanOf 1 vV.w] false) false) ∧
    tV.starts vV (.vclass 4 1 1 true) (decide (vV.et ≤ 2)) (groupsOk (some (vV.span 4)) [vV.spanOf 1 vV.w] false) false ∧
    tV.starts vV (.vsat 4 1 16 1 true) (classXCode vV.et) (groupsOk (some (vV.span 4)) [vV.spanOf 1 vV.w] false) false ∧
    tV.starts vV (.vnarrow 4 2 1 true) (hasWide vV.et) (groupsOk (some (vV.span 4)) [vV.spanOf 2 (2 * vV.w)] true) (classF vV.et) ∧
    tV.starts vV (.vcvt 4 1 8 1 true) (classXCode vV.et) (groupsOk (some (vV.span 4)) [vV.spanOf 1 (litTy 8).width] false)
      (!(classI vV.et || vV.et == 0x10) || !(classI 8 || (8 : Nat) == 0x10)) :=
  ⟨sV_program, ⟨_, rfl⟩, ⟨_, rfl⟩, ⟨_, rfl⟩, all_start (by decide +kernel), all_start (by decide +kernel), starts_of (by decide +kernel),
    starts_of (by decide +kernel), starts_of (by decide +kernel), starts_of (by decide +kernel)⟩

/-- A strand with blocks of MXFP8 E4M3 in its registers and 32 elements. -/
def tM : Strand := { tV with vtype := 0x16, vl := 0x2000000020 }
def sM : State := { sV with strands := [(0, tM)] }
def vM : VView := tM.view (sM.groupsOf 0)
def tMq : Strand := { tM with qv := tY.qv }

theorem witness_VectorMove :
    InProgram sV 0 tV ∧ classXCode vV.et = true ∧ (∃ x, tV.vecIn vV none (vV.span 1) vV.w = some x) ∧
    tV.starts vV (.vmov 4 1 1 true) true (groupsOk (some (vV.span 4)) [vV.span 1] false) false ∧
    (InProgram sM 0 tM ∧ classPCode vM.et = true ∧ (modsOf 0 true).qa = none ∧
      tM.starts vM (.vmov 4 1 0 true) true (groupsOk (some (vM.span 4)) [vM.span 1] false) false) ∧
    (InProgram { sV with strands := [(0, tMq)] } 0 tMq ∧ (modsOf 1 false).qa = some 0 ∧
      (∃ e r, tMq.qv[0] = e :: r ∧ e.awaits = none) ∧
      tMq.starts vM (.vmov 4 0 1 false) true (groupsOk (some (vM.span 4)) [] false) false) ∧
    (InProgram sI 0 tI ∧ tI.starts vI (.viota 4 1 true) (classI vI.et) (groupsOk (some (vI.span 4)) [] false) false) ∧
    (∃ y, tV.scalarIn none 1 = some y) ∧ tV.starts vV (.vsplat 4 1 1 true) (classXCode vV.et) (groupsOk (some (vV.span 4)) [] false) false ∧
    tV.starts vV (.vmovQ 1 1 2) (classXCode vV.et) (groupsOk none [vV.span 1] false) false ∧ tV.qr[1].length < 16 :=
  ⟨sV_program, by decide +kernel, ⟨_, rfl⟩, starts_of (by decide +kernel),
    ⟨inProgram_of (by decide +kernel), by decide +kernel, by decide +kernel, starts_of (by decide +kernel)⟩,
    ⟨inProgram_of (by decide +kernel), by decide +kernel, ⟨_, _, rfl, rfl⟩, starts_of (by decide +kernel)⟩,
    ⟨sI_program, starts_of (by decide +kernel)⟩, ⟨_, rfl⟩, starts_of (by decide +kernel), starts_of (by decide +kernel), by decide +kernel⟩

/-- BF16 elements, 32 of them. -/
def tB : Strand := { tV with vtype := 3, vl := 0x2000000020, qv := tY.qv }
def sB : State := { sV with strands := [(0, tB)] }
def vB : VView := tB.view (sB.groupsOf 0)

theorem witness_VectorQuantise :
    InProgram sB 0 tB ∧ (∃ p, packedOf 0x16 = some p) ∧ vB.vl % 32 = 0 ∧ (∃ x, tB.vecIn vB none (vB.span 2) vB.w = some x) ∧
    tB.starts vB (.vqnt 4 2 0x16 0) (classQ vB.et) (groupsOk (some (vB.spanOf 4 16)) [vB.span 2] true) (classF vB.et) ∧
    tB.starts vB (.vdqnt 4 2 0x16 0) (classQ vB.et) (groupsOk (some (vB.span 4)) [vB.spanOf 2 16] true) (classF vB.et) ∧
    tB.starts vB (.vdqnt 4 0 0x16 1) (classQ vB.et) (groupsOk (some (vB.span 4)) [] true) (classF vB.et) ∧
    (∃ e r, tB.qv[0] = e :: r ∧ e.awaits = none) :=
  ⟨inProgram_of (by decide +kernel), ⟨_, rfl⟩, by decide +kernel, ⟨_, rfl⟩, starts_of (by decide +kernel),
    starts_of (by decide +kernel), starts_of (by decide +kernel), ⟨_, _, rfl, rfl⟩⟩

/-- FM has a bit at element 2, which m1 selects; m2 selects none. -/
def tFm : Strand := { tV with fm := 4 }
def sFm : State := { sV with strands := [(0, tFm)] }

theorem witness_VectorCompareSelect :
    InProgram sV 0 tV ∧ (∃ x, tV.vecIn vV none (vV.span 1) vV.w = some x) ∧ (∃ y, tV.vecIn vV none (vV.span 2) vV.w = some y) ∧
    (∃ y, tV.scalarIn none 1 = some y) ∧
    tV.starts vV (.vcmp 9 1 2 1 true 6) (classXCode vV.et) (groupsOk none ([vV.span 1] ++ [vV.span 2]) false) false ∧
    tV.starts vV (.vcmpS 9 1 1 1 true 0) (classXCode vV.et) (groupsOk none [vV.span 1] false) false ∧
    tV.starts vV (.vsel 4 1 2 1) (classXP vV.et) (groupsOk (some (vV.span 4)) [vV.span 1, vV.span 2] false) false ∧
    tV.starts vV (.vmerge 4 1 1) (classXP vV.et) (groupsOk (some (vV.span 4)) [vV.span 1] false) false ∧
    (∀ k, k < vV.vl → ¬(tV.maskBit 1 k = true ∧ tV.fm.getLsbD k = true)) ∧
    InProgram sFm 0 tFm ∧ (2 < vV.vl ∧ tFm.maskBit 1 2 = true ∧ tFm.fm.getLsbD 2 = true ∧
      ∀ j, j < 2 → ¬(tFm.maskBit 1 j = true ∧ tFm.fm.getLsbD j = true)) :=
  ⟨sV_program, ⟨_, rfl⟩, ⟨_, rfl⟩, ⟨_, rfl⟩, starts_of (by decide +kernel), starts_of (by decide +kernel), starts_of (by decide +kernel),
    starts_of (by decide +kernel), by decide +kernel, inProgram_of (by decide +kernel), by decide +kernel⟩

/-- A group of two registers at the top of the register file, with padding. -/
theorem witness_ElementsWritten :
    let v : VView := { vV with vl := 4, n := 3 }
    let sp : Span := ⟨30, 2⟩
    0 < 32 ∧ 1 ≤ v.groups ∧ v.groups ≤ 8 ∧ v.n ≤ v.vl ∧ v.vl * 32 ≤ sp.count * v.regBits ∧ sp.base + sp.count ≤ 32 ∧
    ([(0, 5), (2, 7)].map fun x : Nat × Nat => x.1).Nodup ∧ ∀ e ∈ [((0 : Nat), (5 : Nat)), (2, 7)], e.1 < v.n := by decide +kernel

theorem witness_MaskBitsWritten :
    let v : VView := { vV with vl := 32768, n := 32767 }
    v.n ≤ v.vl ∧ v.vl ≤ 32768 ∧ ([(0, true), (32766, false)].map fun x : Nat × Bool => x.1).Nodup ∧
    ∀ e ∈ [((0 : Nat), true), (32766, false)], e.1 < v.n := by decide +kernel
/-- The vector memory strands: v5 holds indices 8, 0, 4, 12 of 32 bits, v6 and v7 indices of 64 bits. -/
def tX : Strand :=
  { tV with
    v := (((tV.v.set 5 (image 32 [8, 0, 4, 12])).set 6 (image 64 [8, 0, 4, 12])).set 7 0)
    hart := { tV.hart with g := regs [0, 7, 1, 0x10000, 0x10100, 2, 0x20000, 0x10040, 8, 0x0202, 0x102] } }
def sX : State := { sV with strands := [(0, tX)] }
def vX : VView := tX.view (sX.groupsOf 0)
def mX : Mods := modsOf 1 true
theorem sX_program : InProgram sX 0 tX := inProgram_of (by decide +kernel)
theorem sX_coherent : (sX.core (coreNum 0)).coherent sX.mem := coherent_empty (by decide +kernel)

/-- The results of a load, as the statement forms them. -/
def loaded (v : VView) (m : Mods) (us : List MUnit) : List (Nat × Res) :=
  us.flatMap fun u => v.unitElems (tX.selects m) u (unitRaw v sX.mem place u)

/-- The strand where a load had stopped before element 2. -/
def tRe : Strand := { tX with vprog := vprogWord true 0 2 0 }
def sRe : State := { sV with strands := [(0, tRe)] }

theorem witness_VectorLoads :
    InProgram sX 0 tX ∧ (sX.core (coreNum 0)).coherent sX.mem ∧ packedOf vX.et = none ∧
    (tX.startsMem vX (.vld 4 3 1 true) .unit (groupsOk (some (vX.span 4)) [] false) ∧
      UnitsReach sX .load place (pendingUnits tX (unitLoadUnits tX vX mX (tX.rd 3))) ∧
      tX.trapsAt mX.sp (loaded vX mX (pendingUnits tX (unitLoadUnits tX vX mX (tX.rd 3)))) = none) ∧
    (tX.startsMem vX (.vlds 4 3 8 1 true) .other (groupsOk (some (vX.span 4)) [] false) ∧
      UnitsReach sX .load place ((tX.selected vX mX).map fun k => vX.elemUnit k (tX.rd 3 + BitVec.ofNat 64 k * tX.rd 8))) ∧
    (tX.startsMem vX (.vldx 4 3 5 1 true) .other (groupsOk (some (vX.span 4)) [vX.spanOf 5 32] false) ∧
      UnitsReach sX .load place (indexUnits tX vX mX (tX.rd 3) 5 32)) ∧
    (tX.startsMem vX (.vldxD 4 3 6 1 true) .other (groupsOk (some (vX.span 4)) [vX.spanOf 6 64] false) ∧
      UnitsReach sX .load place (indexUnits tX vX mX (tX.rd 3) 6 64)) ∧
    (InProgram sRe 0 tRe ∧ tRe.stoppedAt 0 = true ∧ (pendingUnits tRe (unitLoadUnits tRe vX (modsOf 0 false) (tRe.rd 3))).length <
      (unitLoadUnits tRe vX (modsOf 0 false) (tRe.rd 3)).length) :=
  ⟨sX_program, sX_coherent, by decide +kernel,
    ⟨startsMem_of (by decide +kernel), units_reach (by decide +kernel) (by decide +kernel) (by decide +kernel), by decide +kernel⟩,
    ⟨startsMem_of (by decide +kernel), units_reach (by decide +kernel) (by decide +kernel) (by decide +kernel)⟩,
    ⟨startsMem_of (by decide +kernel), units_reach (by decide +kernel) (by decide +kernel) (by decide +kernel)⟩,
    ⟨startsMem_of (by decide +kernel), units_reach (by decide +kernel) (by decide +kernel) (by decide +kernel)⟩,
    inProgram_of (by decide +kernel), by decide +kernel⟩

theorem witness_VectorPackedAccess :
    InProgram sM 0 tM ∧ (∃ p, packedOf vM.et = some p ∧
      UnitsReach sM .load place (packedUnits vM p (tM.rd 3) (tM.selects (modsOf 0 false))) ∧
      UnitsReach sM .store place (packedUnits vM p (tM.rd 3) (tM.selects (modsOf 0 false)))) ∧
    tM.stoppedAt 0 = false ∧ tM.cm = 0 ∧ (sM.core (coreNum 0)).coherent sM.mem ∧
    tM.startsMem vM (.vld 4 3 0 false) .unit (groupsOk (some (vM.span 4)) [] false) ∧
    tM.startsMem vM (.vst 4 3 0 false) .unit (groupsOk none [vM.span 4] false) :=
  ⟨inProgram_of (by decide +kernel),
    ⟨_, rfl, units_reach (by decide +kernel) (by decide +kernel) (by decide +kernel), units_reach (by decide +kernel) (by decide +kernel) (by decide +kernel)⟩,
    by decide +kernel, by decide +kernel, coherent_empty (by decide +kernel), startsMem_of (by decide +kernel), startsMem_of (by decide +kernel)⟩

/-- The plans of the four store forms of the statement, and of VSTC. -/
def planX : List StorePlan :=
  let sel := tX.selected vX mX
  [vstPlan tX vX mX 1 (tX.rd 3), elemPlan tX vX sel 1 (sel.map fun k => vX.elemUnit k (tX.rd 3 + BitVec.ofNat 64 k * tX.rd 8)),
   elemPlan tX vX sel 1 (indexUnits tX vX mX (tX.rd 3) 5 32), elemPlan tX vX sel 1 (indexUnits tX vX mX (tX.rd 3) 6 64),
   elemPlan tX vX sel 1 (sel.zipIdx.map fun x => vX.elemUnit x.1 (tX.rd 3 + BitVec.ofNat 64 (x.2 * vX.memBytes)))]

theorem planX_reach : ∀ p ∈ planX, UnitsReach sX .store place (pendingUnits tX p.units) ∧ tX.trapsAt false p.results = none := by
  intro p hp
  have h : (planX.all fun p => (pendingUnits tX p.units).all (fun u => okIs ((translateRange .store u.va u.len).run sX) [(dataPage, u.va.toNat, u.len)] sX &&
      decide (∀ i < u.len, sX.lostAt (cellAt [(dataPage, u.va.toNat, u.len)] (u.va.toNat + i)) 1 = [])) &&
      decide (tX.trapsAt false p.results = none)) = true := by decide +kernel
  have h1 := List.all_eq_true.mp h p hp
  simp only [Bool.and_eq_true, decide_eq_true_eq] at h1
  exact ⟨units_reach (by decide +kernel) (by decide +kernel) (by simpa using h1.1), h1.2⟩

theorem witness_VectorStores :
    InProgram sX 0 tX ∧ tX.cm = 0 ∧ packedOf vX.et = none ∧ tX.stoppedAt 2 = false ∧
    tX.startsMem vX (.vst 1 3 1 true) .unit (groupsOk none [vX.span 1] false) ∧
    tX.startsMem vX (.vsts 1 3 8 1 true) .other (groupsOk none [vX.span 1] false) ∧
    tX.startsMem vX (.vstx 1 3 5 1 true) .other (groupsOk none [vX.span 1, vX.spanOf 5 32] false) ∧
    tX.startsMem vX (.vstxD 1 3 6 1 true) .other (groupsOk none [vX.span 1, vX.spanOf 6 64] false) ∧
    tX.startsMem vX (.vstc 1 3 1 true) .other (groupsOk none [vX.span 1] false) ∧
    ∀ p ∈ planX, UnitsReach sX .store place (pendingUnits tX p.units) ∧ tX.trapsAt false p.results = none :=
  ⟨sX_program, by decide +kernel, by decide +kernel, by decide +kernel, startsMem_of (by decide +kernel), startsMem_of (by decide +kernel),
    startsMem_of (by decide +kernel), startsMem_of (by decide +kernel), startsMem_of (by decide +kernel), planX_reach⟩

theorem witness_VectorLinkedAccess :
    InProgram sX 0 tX ∧ tX.cm = 0 ∧ tX.stoppedAt 0 = false ∧ vX.vl ≠ 0 ∧
    (∀ iw ∈ [(32, (5 : VReg)), (64, 6)], ∀ u ∈ indexUnits tX vX mX (tX.rd 3) iw.2 iw.1, u.va.toNat % u.align = 0) ∧
    leafMod dataPage.leaf = sX.moduleNum.val ∧
    UnitsReach sX .rw (fun u => [(dataPage, u.va.toNat, u.len)]) (indexUnits tX vX mX (tX.rd 3) 5 32) ∧
    UnitsReach sX .rw (fun u => [(dataPage, u.va.toNat, u.len)]) (indexUnits tX vX mX (tX.rd 3) 6 64) ∧
    tX.startsMem vX (.vldl 4 3 5 1 true) .linked (groupsOk (some (vX.span 4)) [vX.spanOf 5 32] false) ∧
    tX.startsMem vX (.vldlD 4 3 6 1 true) .linked (groupsOk (some (vX.span 4)) [vX.spanOf 6 64] false) ∧
    tX.startsMem vX (.vscc 4 3 5 1) .linked (groupsOk none [vX.span 4, vX.spanOf 5 32] false) ∧
    tX.startsMem vX (.vsccD 4 3 6 1) .linked (groupsOk none [vX.span 4, vX.spanOf 6 64] false) :=
  ⟨sX_program, by decide +kernel, by decide +kernel, by decide +kernel, by decide +kernel, by decide +kernel,
    units_reach (by decide +kernel) (by decide +kernel) (by decide +kernel), units_reach (by decide +kernel) (by decide +kernel) (by decide +kernel),
    startsMem_of (by decide +kernel), startsMem_of (by decide +kernel), startsMem_of (by decide +kernel), startsMem_of (by decide +kernel)⟩

theorem witness_VectorQueueLoad :
    InProgram sX 0 tX ∧ (sX.core (coreNum 0)).coherent sX.mem ∧ tX.activeStream 1 = false ∧ tX.qv[(1 : Fin 2)].length < 4 ∧
    tX.startsMem vX (.vldq 1 3 0) .queue (groupsOk none [] false) ∧
    UnitsReach sX .load place (unitLoadUnits tX vX (modsOf 0 false) (tX.rd 3)) ∧
    tX.trapsAt (modsOf 0 false).sp (loaded vX (modsOf 0 false) (unitLoadUnits tX vX (modsOf 0 false) (tX.rd 3))) = none :=
  ⟨sX_program, sX_coherent, by decide +kernel, by decide +kernel, startsMem_of (by decide +kernel),
    units_reach (by decide +kernel) (by decide +kernel) (by decide +kernel), by decide +kernel⟩

theorem witness_VectorPrefetch :
    InProgram sX 0 tX ∧ tX.startsMem vX (.vpf 0 3 0 1 true) .other (groupsOk none [] false) ∧
    tX.startsMem vX (.vpf 2 3 5 1 true) .other (groupsOk none [vX.spanOf 5 32] false) ∧
    tX.startsMem vX (.vpf 3 3 6 1 true) .other (groupsOk none [vX.spanOf 6 64] false) ∧ bitOf sX.hub.fubase 0 = false :=
  ⟨sX_program, startsMem_of (by decide +kernel), startsMem_of (by decide +kernel), startsMem_of (by decide +kernel), by decide +kernel⟩

/-- A stream of one coded block of 64 INT32 elements, all 0x1234 (R255), with a bound of 256 bytes in g8 and the cursor in g9. -/
def tZ : Strand := { tI with hart := { tI.hart with g := regs [0, 0, 0, 0x10000, 0, 0, 0, 0, 256, 0] } }
def sZ : State := { sV with strands := [(0, tZ)], mem := laid dataPage 0x10000 [(2, 8), (1, 2), (1, 0), (4, 64), (8, 0), (1, 0), (4, 0x1234)] [] }
def vZ : VView := tZ.view (sZ.groupsOf 0)
def headZ : Nat := ran 0 (readRange vZ 0 (bypUse tZ 256) 0x10000 16) sZ
def sZ1 : State := ranTo (readRange vZ 0 (bypUse tZ 256) 0x10000 16) sZ

/-- R255, R256: VLDZ expands it: 64 elements, VL = 64, the cursor at block 1. -/
theorem test_vldz :
    goes (exec (.vldz 4 3 4) sZ) (fun u => elems u 4 64 == List.replicate 64 0x1234 && on0 u fun t =>
      t.vl == 0x4000000040 && t.rd 9 == 1 && fieldOf t.vprog 31 0 == 1) = true := by decide +kernel

theorem witness_VectorExpand :
    InProgram sZ 0 tZ ∧ tZ.starts vZ (.vldz 4 3 4) (vZ.mfmt == 0) (groupsOk (some (vZ.span 4)) [] false) false ∧
    (tZ.rd 3 = 0x10000 ∧ (tZ.rd 8).toNat = 256 ∧ tZ.rd 9 = 0) ∧
    (readRange vZ 0 (bypUse tZ 256) 0x10000 16).run sZ = .ok headZ sZ1 ∧
    (headZ % 65536 = 8 ∧ headZ / 65536 % 256 = 2 ∧ headZ / 2 ^ 32 % 2 ^ 32 = 64) ∧ classXCode vZ.et = true ∧ vZ.w = 8 * 2 ^ 2 ∧
    64 ≤ vlmaxOf vZ.groups vZ.et vZ.grp ∧
    runs (vldzGo vZ ⟨8, 2, 64⟩ 0x10000 256 (bypUse tZ 256) (vlmaxOf vZ.groups vZ.et vZ.grp) (vlmaxOf vZ.groups vZ.et vZ.grp / 64 + 1) 0 0 []) sZ1 = true :=
  ⟨inProgram_of (by decide +kernel), starts_of (by decide +kernel), by decide +kernel, runs_ok (by decide +kernel), by decide +kernel,
    by decide +kernel, by decide +kernel, by decide +kernel, by decide +kernel⟩
/-! Permutes, scans, reductions, folds and fibres. -/

theorem trapsAt_off {t : Strand} {sp : Bool} {rs : List (Nat × Res)} (h : fieldOf t.hart.status 12 8 = 0) : t.trapsAt sp rs = none := by
  unfold Strand.trapsAt
  split
  · rfl
  · rw [Option.map_eq_none_iff, List.find?_eq_none]
    intro r _
    simp [enabledOf, h]

theorem witness_VectorPermute :
    InProgram sV 0 tV ∧ (∃ x, tV.vecIn vV none (vV.span 1) vV.w = some x) ∧ (∃ y, tV.scalarIn none 5 = some y) ∧
    (∃ y, tV.vecIn vV none (vV.span 3) vV.w = some y) ∧
    (∀ i ∈ [Instr.vslideup 4 1 5 1 true, .vslidedn 4 1 5 1 true, .vrev 4 1 1 true],
      tV.starts vV i (classXCode vV.et) (groupsOk (some (vV.span 4)) [vV.span 1] true) false) ∧
    tV.starts vV (.vshuf 4 1 3 1 true) (classXCode vV.et) (groupsOk (some (vV.span 4)) ([vV.span 1] ++ [vV.span 3]) true) false ∧
    InProgram sI 0 tI ∧ tI.starts vI (.vconflict 4 1 1 true) (classI vI.et) (groupsOk (some (vI.span 4)) [vI.span 1] false) false :=
  ⟨sV_program, ⟨_, rfl⟩, ⟨_, rfl⟩, ⟨_, rfl⟩, all_start (by decide +kernel), starts_of (by decide +kernel), sI_program,
    starts_of (by decide +kernel)⟩

theorem witness_VectorCompressExpand :
    InProgram sV 0 tV ∧ tV.stoppedAt 2 = false ∧ vV.vl ≠ 0 ∧
    tV.starts vV (.vcompress 4 1 1) (classXCode vV.et) (groupsOk (some (vV.span 4)) [vV.span 1] true) false ∧
    tV.starts vV (.vexpand 4 1 1) (classXCode vV.et) (groupsOk (some (vV.span 4)) [vV.span 1] true) false :=
  ⟨sV_program, by decide +kernel, by decide +kernel, starts_of (by decide +kernel), starts_of (by decide +kernel)⟩

theorem witness_VectorScan :
    InProgram sV 0 tV ∧ (∃ x, tV.vecIn vV none (vV.span 1) vV.w = some x) ∧
    tV.starts vV (.vscan 4 1 1 true) (classFI vV.et) (groupsOk (some (vV.span 4)) [vV.span 1] true) (true && classF vV.et) ∧
    (∀ i ∈ [Instr.vscanMin 4 1 1 true, .vscanMax 4 1 1 true],
      tV.starts vV i (classFI vV.et) (groupsOk (some (vV.span 4)) [vV.span 1] true) (false && classF vV.et)) :=
  ⟨sV_program, ⟨_, rfl⟩, starts_of (by decide +kernel), all_start (by decide +kernel)⟩

/-- The strand at VL = 0. -/
def tE : Strand := { tV with vl := 0 }

theorem witness_VectorReduce :
    InProgram sV 0 tV ∧ (∃ x y, tV.vecIn vV none (vV.span 1) vV.w = some x ∧ tV.vecIn vV none (vV.span 2) vV.w = some y) ∧
    tV.hart.repro = false ∧ (∀ sp rs, tV.trapsAt sp rs = none) ∧ tV.qr[(1 : Fin 2)].length < 16 ∧
    (∀ i ∈ [Instr.vredsum 4 1 2 1 true, .vredsumF 4 1 2 1 true, .vredmax 4 1 2 1 true, .vredmin 4 1 2 1 true],
      tV.starts vV i (classFI vV.et) (groupsOk (some (vV.span 4)) ([vV.span 1] ++ [vV.span 2]) false) false) ∧
    (∀ i ∈ [Instr.vredsumQ 1 1 2 1 true, .vredsumFQ 1 1 2 1 true, .vredmaxQ 1 1 2 1 true, .vredminQ 1 1 2 1 true],
      tV.starts vV i (classFI vV.et) (groupsOk none ([vV.span 1] ++ [vV.span 2]) false) false) ∧
    (tE.view (sV.groupsOf 0)).n = 0 ∧ vV.n ≠ 0 :=
  ⟨sV_program, ⟨_, _, rfl, rfl⟩, by decide +kernel, fun sp rs => trapsAt_off (by decide +kernel), by decide +kernel,
    all_start (by decide +kernel), all_start (by decide +kernel), by decide +kernel⟩

/-- k0 empty, k1 of the other precision, k2 with some elements, k3 with no room. -/
def tK : Strand :=
  { tV with
    k := (((tV.k.set 1 { slot := Vector.replicate 32 0, nch := 0, prec := true, cidx := 1, part := 1 }).set 2
      { slot := Vector.replicate 32 0, nch := 2, prec := false, cidx := 3, part := 0x3F800000 }).set 3
      { slot := Vector.replicate 32 0, nch := 0xFFFFFFFF, prec := false, cidx := 63, part := 0x3F800000 }) }
def sKf : State := { sV with strands := [(0, tK)] }

/-- What VFOLD pushes of v1. -/
def foldIn (v : VView) : List (Nat × Res) :=
  (List.range v.n).map fun e => (e, if tK.selects (modsOf 1 true) e then v.widen (elemAt v.w (tK.image v.regBits (v.span 1)) e) else quiet 0)

theorem witness_VectorFold :
    InProgram sKf 0 tK ∧ (∃ x, tK.vecIn vV none (vV.span 1) vV.w = some x) ∧
    (∀ i ∈ [Instr.vfold 0 1 1 true, .vfold 1 1 1 true, .vfold 2 1 1 true, .vfold 3 1 1 true],
      tK.starts vV i (classF vV.et) (groupsOk none [vV.span 1] false) false) ∧
    ((tE.view (sV.groupsOf 0)).n = 0 ∧ vV.n ≠ 0) ∧ (tK.k[1].isEmpty = false ∧ tK.k[1].prec ≠ (vV.et == 1)) ∧
    (tK.k[2].isEmpty = false ∧ tK.k[2].prec = (vV.et == 1) ∧ (foldPushes vV.sumFmt (foldIn vV) tK.k[2].toC64).isSome = true) ∧
    (foldPushes vV.sumFmt (foldIn vV) tK.k[3].toC64).isNone = true ∧
    (tK.k[3].toC64.final tK.k[3].fmt).isNone = true ∧ (tK.k[2].toC64.final tK.k[2].fmt).isSome = true ∧
    (∀ i ∈ [Instr.vfoldFin 4 2, .vfoldFin 4 3], tK.starts vV i (classF vV.et) (groupsOk (some (vV.span 4)) [] false) false) ∧
    tK.qr[(1 : Fin 2)].length < 16 ∧ ∀ sp rs, tK.trapsAt sp rs = none := by
  refine ⟨inProgram_of ?_, ⟨_, rfl⟩, all_start ?_, ?_, ?_, ?_,
    ?_, ?_, ?_, all_start ?_, ?_,
    fun sp rs => trapsAt_off ?_⟩ <;> decide +kernel

/-- Fibre registers: f1 and f2 strictly rising, f3 rising with a repeat, f4 empty; the same with FUNI stopped after one entry of each. -/
def tFb : Strand := { tF with f := tF.f.set 3 (fibreOf 0 [(1, 0x3F800000), (4, 0x40000000), (4, 0x40400000)]) }
def sFb : State := { sV with strands := [(0, tFb)] }
def vFb : VView := tFb.view (sFb.groupsOf 0)
def tFs : Strand := { tFb with vprog := vprogWord true 3 1 1 }
theorem sFb_program : InProgram sFb 0 tFb := inProgram_of (by decide +kernel)

theorem all_fib {t : Strand} {v : VView} {a m r : Bool} {vec : List Span} {fs : List FReg} {l : List Instr}
    (h : (l.all fun i => i.wf && a && (!m || v.mfmt == 0) && vec.all Span.ok &&
      rounding t v (r && classF v.et) && (!m || promptly t) &&
      fs.all fun f => t.f[f].entries.isEmpty || t.f[f].fet.val == v.et) = true) : ∀ i ∈ l, t.fibStarts v i a m r vec fs := by
  intro i hi
  have h1 := List.all_eq_true.mp h i hi
  simp only [Bool.and_eq_true, Bool.not_eq_true', Bool.or_eq_true, List.all_eq_true, beq_iff_eq, List.isEmpty_iff] at h1
  obtain ⟨⟨⟨⟨⟨⟨h1, h2⟩, h3⟩, h4⟩, h5⟩, h6⟩, h7⟩ := h1
  refine ⟨h1, h2, fun hm => ?_, List.all_eq_true.mpr h4, mayRound_of h5, fun hm => prompt_of ?_, h7⟩
  · exact h3.resolve_left (by simp [hm])
  · exact h6.resolve_left (by simp [hm])

theorem witness_FibreCombine :
    InProgram sFb 0 tFb ∧ (tFb.f[1].ord = 2 ∧ tFb.f[2].ord = 2 ∧ tFb.f[3].ord = 1) ∧
    (∀ i ∈ [Instr.fintA 5 1 2, .fintB 5 1 2, .fintAdd 5 1 2, .fintMul 5 1 2, .fintMin 5 1 2, .fintMax 5 1 2],
      tFb.fibStarts vFb i (classFI vFb.et) false true [] [1, 2] ∧ tFb.fibStarts vFb i (classFI vFb.et) false false [] [1, 2]) ∧
    (∀ i ∈ [Instr.funiA 5 1 2, .funiB 5 1 2, .funiAdd 5 1 2, .funiMul 5 1 2, .funiMin 5 1 2, .funiMax 5 1 2],
      tFb.fibStarts vFb i (classFI vFb.et) false true [] [1, 2] ∧ tFb.fibStarts vFb i (classFI vFb.et) false false [] [1, 2]) ∧
    (∀ i ∈ [Instr.fmrg 5 3 2], tFb.fibStarts vFb i (classFI vFb.et) false false [] [3, 2]) ∧
    (∀ i ∈ [Instr.fsortA 5 3, .fsortB 5 3, .fsortAdd 5 3, .fsortMul 5 3, .fsortMin 5 3, .fsortMax 5 3, .fsort 5 3],
      tFb.fibStarts vFb i (classFI vFb.et) false true [] [3] ∧ tFb.fibStarts vFb i (classFI vFb.et) false false [] [3]) ∧
    InProgram { sFb with strands := [(0, tFs)] } 0 tFs ∧ (tFs.stoppedAt 3 = true ∧ fieldOf tFs.vprog 15 0 ≤ tFs.f[1].entries.length ∧
      fieldOf tFs.vprog 31 16 ≤ tFs.f[2].entries.length) :=
  ⟨sFb_program, by decide +kernel, fun i hi => ⟨all_fib (by decide +kernel) i hi, all_fib (by decide +kernel) i hi⟩,
    fun i hi => ⟨all_fib (by decide +kernel) i hi, all_fib (by decide +kernel) i hi⟩, all_fib (by decide +kernel),
    fun i hi => ⟨all_fib (by decide +kernel) i hi, all_fib (by decide +kernel) i hi⟩, inProgram_of (by decide +kernel), by decide +kernel⟩

theorem witness_FibreOrder :
    [((1 : BitVec 32), (5 : Word)), (4, 6)].Pairwise (fun x y => x.1.toNat < y.1.toNat) ∧
    [((4 : BitVec 32), (5 : Word)), (9, 6)].Pairwise (fun x y => x.1.toNat < y.1.toNat) := by decide

/-- INT32 elements, for FCRD. -/
def tFi : Strand := { tFb with vtype := 0xA }
def vFi : VView := tFi.view (sFb.groupsOf 0)

theorem witness_FibreConvert :
    InProgram sFb 0 tFb ∧ (∀ i ∈ [Instr.fcpt 5 1 1, .fcptZ 5 1], tFb.fibStarts vFb i (classFI vFb.et) false false [] [1]) ∧
    (∀ i ∈ [Instr.ffromv 5 1 2], tFb.fibStarts vFb i (classFI vFb.et) false false [vFb.span 1] []) ∧ vFb.n ≤ 64 * vFb.groups ∧
    (∀ i ∈ [Instr.fexp 1 4 4, .fval 1 4], tFb.fibStarts vFb i (classFI vFb.et) false false [vFb.span 4] [1]) ∧
    InProgram { sFb with strands := [(0, tFi)] } 0 tFi ∧
    (∀ i ∈ [Instr.fcrd 1 4], tFi.fibStarts vFi i (coordType vFi.et) false false [vFi.span 4] []) ∧ tFb.qr[(0 : Fin 2)].length < 16 :=
  ⟨sFb_program, all_fib (by decide +kernel), all_fib (by decide +kernel), by decide +kernel, all_fib (by decide +kernel),
    inProgram_of (by decide +kernel), all_fib (by decide +kernel), by decide +kernel⟩

/-- Coordinates at 0x10100, values at 0x10200, positions at 0x10400: g4 and g5 for FLD and FST, g8 to g11 for FLDLV. -/
def tFm2 : Strand :=
  { tFb with hart := { tFb.hart with g := regs [0, 0, 0, 0, 0x10100, 0x10200, 0x10300, 0, 0x10400, 0x10100, 0x10200, 1] } }
def sFm2 : State :=
  { sV with
    strands := [(0, tFm2)]
    mem := laid dataPage 0x10400 [(4, 0), (4, 2), (4, 4)] (laid dataPage 0x10200 [(4, 0x3F800000), (4, 0x40000000), (4, 7), (4, 8)]
      (laid dataPage 0x10100 [(4, 1), (4, 4), (4, 9), (4, 12)] [])) }
def vFm : VView := tFm2.view (sFm2.groupsOf 0)
def p0Fm : MUnit := fibUnit 0 0x10404 4 0
def p1Fm : MUnit := fibUnit 1 0x10408 4 0

theorem witness_FibreMemory :
    InProgram sFm2 0 tFm2 ∧ (sFm2.core (coreNum 0)).coherent sFm2.mem ∧
    ((∀ i ∈ [Instr.fld 5 4], tFm2.fibStarts vFm i (classFI vFm.et) true false [] []) ∧ vFm.n ≤ 64 * vFm.groups ∧
      UnitsReach sFm2 .load place (entryUnits (tFm2.rd 4) (tFm2.rd 5) (vFm.w / 8) 0 vFm.n true)) ∧
    ((∀ i ∈ [Instr.fst 1 4], tFm2.fibStarts vFm i (classFI vFm.et) true false [] [1]) ∧ tFm2.f[1].entries.length ≤ 64 * vFm.groups ∧
      UnitsReach sFm2 .store place (entryUnits (tFm2.rd 4) (tFm2.rd 5) (vFm.w / 8) 0 tFm2.f[1].entries.length true)) ∧
    ((∀ i ∈ [Instr.fldlv 5 8], tFm2.fibStarts vFm i (classFI vFm.et) true false [] []) ∧ tFm2.stoppedAt 5 = false ∧ tFm2.rd 10 ≠ 0 ∧
      UnitsReach sFm2 .load place [p0Fm, p1Fm] ∧
      (bytesAt sFm2.mem (place p0Fm) 0x10404 4 = 2 ∧ bytesAt sFm2.mem (place p1Fm) 0x10408 4 = 4) ∧
      UnitsReach sFm2 .load place (entryUnits (tFm2.rd 9) (tFm2.rd 10) (vFm.w / 8) 2 2 true)) ∧
    ((∀ i ∈ [Instr.fscat 1 6], tFm2.fibStarts vFm i (classFI vFm.et) true true [] [1]) ∧ tFm2.cm = 0 ∧ tFm2.stoppedAt 0 = false ∧
      UnitsReach sFm2 .rw place ((List.range tFm2.f[1].entries.length).map fun k =>
        fibUnit k (tFm2.rd 6 + BitVec.ofNat 64 ((tFm2.f[1].entries.getD k (0, 0)).1.toNat * (vFm.w / 8))) (vFm.w / 8) 1) ∧
      ∀ sp rs, tFm2.trapsAt sp rs = none) :=
  ⟨inProgram_of (by decide +kernel), coherent_empty (by decide +kernel),
    ⟨all_fib (by decide +kernel), by decide +kernel, units_reach (by decide +kernel) (by decide +kernel) (by decide +kernel)⟩,
    ⟨all_fib (by decide +kernel), by decide +kernel, units_reach (by decide +kernel) (by decide +kernel) (by decide +kernel)⟩,
    ⟨all_fib (by decide +kernel), by decide +kernel, by decide +kernel, units_reach (by decide +kernel) (by decide +kernel) (by decide +kernel), by decide +kernel,
      units_reach (by decide +kernel) (by decide +kernel) (by decide +kernel)⟩,
    ⟨all_fib (by decide +kernel), by decide +kernel, by decide +kernel, units_reach (by decide +kernel) (by decide +kernel) (by decide +kernel),
      fun sp rs => trapsAt_off (by decide +kernel)⟩⟩
/-! Accumulator, matrix, solvers, blocks. -/

/-- FP32 elements, d1 an FP32 tile with rows 128 bytes apart, d2 an INT32 one beside it, d3 an FP64 one; tile words in g9 to g15:
 2 by 2, none, 128 by 32, two partials 2 by 2 with 256 units between them, a pair for memory with its pitch, and one for ACCRED of one partial. -/
def tT : Strand :=
  { tV with
    vl := 0x300000003, tm := 0x200000010, tn := 0x300000010, tk := 0x500000010, accwin := 3072 * 2 ^ 32
    d := (((Vector.replicate 8 0).set 1 0x10000).set 2 (0x80010000 + 0x200)).set 3 (0x40010000 + 0x400)
    v := (tV.v.set 8 (image 32 [0x3F800000, 0x40000000, 0x3F800000, 7, 0x40490FDB])).set 10 (image 32 [1, 2, 0])
    hart := { tV.hart with g := regs [0, 0, 0, 0, 0x10000, 0x4000000202, 0, 0, 0, 0x0202, 0, 0x2080, 0x10000020202] } }
def sT : State := { stateWith tT with mem := laid dataPage 0x10000 (List.replicate 64 (4, 0x3F800000)) [] }
def vT : VView := tT.view (sT.groupsOf 0)
theorem sT_program : InProgram sT 0 tT := inProgram_of (by decide +kernel)

theorem placed_of {t : Strand} {n : DReg} {rows cols ahead : Nat}
    (h : (let w := (t.d[n]).toNat
      let e := accBytes (bitsOf w 31 30)
      let stride := bitsOf w 29 15 * 64
      bitsOf w 31 30 ≠ 3 ∧ (rows ≤ 1 ∨ cols * e ≤ stride) ∧
        (bitsOf w 14 0 + ahead) * 64 + (rows - 1) * stride + cols * e ≤ (accWindow t.accwin).2)) : t.tilePlaced n rows cols ahead := h

theorem witness_AccumulatorTiles :
    InProgram sT 0 tT ∧ (sT.core (coreNum 0)).lost = [] ∧ (Instr.accz 1 9).wf = true ∧
    (fieldOf (tT.rd 10) 7 0 = 0 ∧ fieldOf (tT.rd 10) 63 16 = 0) ∧
    (fieldOf (tT.rd 11) 7 0 = 128 ∧ fieldOf (tT.rd 11) 15 8 = 32 ∧ fieldOf (tT.rd 11) 63 16 = 0 ∧ tT.tilePlaced 1 128 32 0) ∧
    (fieldOf (tT.rd 9) 7 0 = 2 ∧ fieldOf (tT.rd 9) 15 8 = 2 ∧ fieldOf (tT.rd 9) 63 16 = 0 ∧ tT.tilePlaced 1 2 2 0) ∧
    (tT.starts vT (.accrd 1 4 9) (classXCode vT.et) (vT.span 4).ok false ∧ tT.starts vT (.accwr 1 4 9) (classXCode vT.et) (vT.span 4).ok false ∧
      vT.et = accEt (tT.tileAt 0 1 0).kind ∧ vT.n ≠ 0) ∧
    tT.starts vT (.acccvt 2 4 9) (classXCode vT.et) (vT.span 4).ok (!(classI vT.et || vT.et == 0x10) || (tT.tileAt 0 2 0).kind != 2) ∧
    (fieldOf (tT.rd 12) 7 0 = 2 ∧ fieldOf (tT.rd 12) 15 8 = 2 ∧ fieldOf (tT.rd 12) 31 16 = 2 ∧ fieldOf (tT.rd 12) 63 32 = 256) ∧
    (∀ p, p < 2 → tT.tilePlaced 1 2 2 (p * 256)) ∧ tT.qr[(0 : Fin 2)].length < 16 :=
  ⟨sT_program, by decide +kernel, by decide +kernel, by decide +kernel,
    ⟨by decide +kernel, by decide +kernel, by decide +kernel, placed_of (by decide +kernel)⟩,
    ⟨by decide +kernel, by decide +kernel, by decide +kernel, placed_of (by decide +kernel)⟩,
    ⟨starts_of (by decide +kernel), starts_of (by decide +kernel), by decide +kernel⟩, starts_of (by decide +kernel), by decide +kernel,
    fun p hp => match p, hp with
      | 0, _ => placed_of (by decide +kernel)
      | 1, _ => placed_of (by decide +kernel)
      | n + 2, h => absurd h (by omega),
    by decide +kernel⟩

theorem witness_AccumulatorMemory :
    InProgram sT 0 tT ∧ (sT.core (coreNum 0)).lost = [] ∧ tT.prompt ∧ pairReg 4 = 5 ∧
    (fieldOf (tT.rd 5) 7 0 = 2 ∧ fieldOf (tT.rd 5) 15 8 = 2 ∧ fieldOf (tT.rd 5) 31 16 = 0) ∧ tT.tilePlaced 1 2 2 0 ∧
    (Instr.accld 1 4).wf = true ∧ (sT.core (coreNum 0)).coherent sT.mem ∧
    UnitsReach sT .load place (tileUnits ⟨tT.rd 5, 2, 2, 0, fieldOf (tT.rd 5) 63 32⟩ (tT.tileAt 0 1 0).w (tT.rd 4)) ∧
    (Instr.accst 1 4).wf = true ∧
    UnitsReach sT .store place (tileUnits ⟨tT.rd 5, 2, 2, 0, fieldOf (tT.rd 5) 63 32⟩ (tT.tileAt 0 1 0).w (tT.rd 4)) :=
  ⟨sT_program, by decide +kernel, prompt_of (by decide +kernel), by decide +kernel, by decide +kernel, placed_of (by decide +kernel), by decide +kernel,
    coherent_empty (by decide +kernel), units_reach (by decide +kernel) (by decide +kernel) (by decide +kernel), by decide +kernel,
    units_reach (by decide +kernel) (by decide +kernel) (by decide +kernel)⟩

/-- INT8 elements, for the sparse forms. -/
def t8 : Strand := { tT with vtype := 8, tk := 0x900000020 }
def s8 : State := { sT with strands := [(0, t8)] }
def v8 : VView := t8.view (s8.groupsOf 0)

/-- The hypotheses of a multiply on 2 rows, 3 columns and ke terms, beside those on its start and its tile. -/
def multiplyReady (s : State) (t : Strand) (ke : Nat) (d : DReg) (form : MulForm) (mem : Bool) (addr : Word) : Bool :=
  let v := t.view (s.groupsOf 0)
  let bits4 := ((matQuantum v.et).getD (16, 64)).2
  decide (t.outstanding pMof < Config.maxOutstanding) &&
    decide (Nat.min (fieldOf t.tm 63 32) (fieldOf t.tm 31 0) = 2) && decide (Nat.min (fieldOf t.tn 63 32) (fieldOf t.tn 31 0) = 3) &&
    decide (Nat.min (fieldOf t.tk 63 32) (fieldOf t.tk 31 0) = ke) &&
    decide ((if mem then addr.toNat else fieldOf addr 18 0) % matAlign v.et = 0) &&
    decide (fieldOf t.tm 31 0 * fieldOf t.tk 31 0 * bits4 ≤ 8 * v.groups * 2048 * 4) &&
    decide ((t.tileAt 0 d 0).kind = accKindOf v.et) && (s.core (coreNum 0)).lost.isEmpty &&
    (!form.isGathered || (decide (v.n ≤ ke) && decide (v.n ≠ 0))) && !bitOf s.hub.fubase 0 &&
    runs (fetchOperand mem v.et addr (form.lines t v 3 ke bits4)) s

theorem witness_MatrixMultiply :
    InProgram sT 0 tT ∧ InProgram s8 0 t8 ∧
    (∀ x ∈ [(Instr.mmaT 1 8 0, false, (0 : Word)), (.mmaM 1 8 4, true, 0x10000)],
      tT.starts vT x.1 (MulForm.accepts .dense vT.et) true false ∧ multiplyReady sT tT 5 1 .dense x.2.1 x.2.2 = true) ∧
    (∀ x ∈ [(Instr.mmaxT 1 8 10 0, false, (0 : Word)), (.mmaxM 1 8 10 4, true, 0x10000)],
      tT.starts vT x.1 (MulForm.accepts (.gathered 10) vT.et) (vT.spanOf 10 32).ok false ∧
      multiplyReady sT tT 5 1 (.gathered 10) x.2.1 x.2.2 = true) ∧
    (∀ x ∈ [(Instr.mmasT 2 8 10 0, false, (0 : Word)), (.mmasM 2 8 10 4, true, 0x10000)],
      t8.starts v8 x.1 (MulForm.accepts (.sparse 10) v8.et) true false ∧ multiplyReady s8 t8 9 2 (.sparse 10) x.2.1 x.2.2 = true) ∧
    tT.tilePlaced 1 2 3 0 ∧ t8.tilePlaced 2 2 3 0 ∧ (Nat.min (fieldOf ({ tT with tk := 0 } : Strand).tk 63 32) 0 = 0) := by
  refine ⟨sT_program, inProgram_of (by decide +kernel), ?_, ?_, ?_, placed_of (by decide +kernel), placed_of (by decide +kernel), by decide⟩
  · intro x hx
    have h : ∀ x ∈ [(Instr.mmaT 1 8 0, false, (0 : Word)), (.mmaM 1 8 4, true, 0x10000)],
      (x.1.wf && MulForm.accepts .dense vT.et && true && rounding tT vT false) = true ∧
      multiplyReady sT tT 5 1 .dense x.2.1 x.2.2 = true := by decide +kernel
    exact ⟨starts_of (h x hx).1, (h x hx).2⟩
  · intro x hx
    have h : ∀ x ∈ [(Instr.mmaxT 1 8 10 0, false, (0 : Word)), (.mmaxM 1 8 10 4, true, 0x10000)],
      (x.1.wf && MulForm.accepts (.gathered 10) vT.et && (vT.spanOf 10 32).ok && rounding tT vT false) = true ∧
      multiplyReady sT tT 5 1 (.gathered 10) x.2.1 x.2.2 = true := by decide +kernel
    exact ⟨starts_of (h x hx).1, (h x hx).2⟩
  · intro x hx
    have h : ∀ x ∈ [(Instr.mmasT 2 8 10 0, false, (0 : Word)), (.mmasM 2 8 10 4, true, 0x10000)],
      (x.1.wf && MulForm.accepts (.sparse 10) v8.et && true && rounding t8 v8 false) = true ∧
      multiplyReady s8 t8 9 2 (.sparse 10) x.2.1 x.2.2 = true := by decide +kernel
    exact ⟨starts_of (h x hx).1, (h x hx).2⟩

theorem witness_IntegerAccumulate : 0xFFFFFFFF < 2 ^ 32 := by decide

/-- Whether a run has a result and leaves the state as it is. -/
def stays {α : Type} (f : M α) (s : State) : Bool := match f.run s with | .ok _ u => decide (u = s) | .error _ _ => false

theorem ok_stays {α : Type} {f : M α} {s : State} (h : stays f s = true) : ∃ x, f.run s = .ok x s := by
  unfold stays at h
  cases hr : f.run s with
  | ok a u => rw [hr] at h; simp only [decide_eq_true_eq] at h; exact ⟨a, by rw [h]⟩
  | error e u => rw [hr] at h; cases h

/-- Solvers: d0 to d4 hold FP64 tiles of 3 rows 128 bytes apart; words for 2 by 2, for one right-hand side, and of TITER with two rounds. -/
def tG : Strand :=
  { tV with
    accwin := 3072 * 2 ^ 32, d := Vector.ofFn fun i => BitVec.ofNat 32 (100 * i.val + 2 * 2 ^ 15 + 2 ^ 30)
    v := (tV.v.set 8 (image 32 [1, 1])).set 9 0
    hart := { tV.hart with g := regs [0, 0x0202, 0x0102, 0, 0x020102, 0x3F50624DD2F1A9FC, 0x8080] } }
def sG : State :=
  let acc := (List.range 5).foldl (fun m u => (List.range 2).foldl (fun m i => (List.range 2).foldl (fun m j =>
    Cells.write m (6400 * u + 128 * i + 8 * j) 8 (if i = j then 0x4010000000000000 else 0x3FF0000000000000)) m) m) ([] : Cells)
  { stateWith tG with cores := [(0, { core0 with acc := acc })] }
def vG : VView := tG.view (sG.groupsOf 0)
def pivG : List Nat := (List.range 2).map fun j => elemAt 32 (tG.image vG.regBits ⟨8, 2⟩) j

/-- Whether the tiles of a solver are as R317 asks, and the state stays. -/
def tilesStay (s : State) (l : List (DReg × Nat × Nat)) : Prop := ∃ ts pf, (solverTiles l).run s = .ok (ts, pf) s
theorem tilesStay_of {s : State} {l : List (DReg × Nat × Nat)}
    (h : stays (solverTiles l) s = true) : tilesStay s l := by
  obtain ⟨x, hx⟩ := ok_stays h
  exact ⟨x.1, x.2, hx⟩

theorem witness_Solvers :
    InProgram sG 0 tG ∧ (sG.core (coreNum 0)).lost = [] ∧
    (fieldOf (tG.rd 1) 7 0 = 2 ∧ fieldOf (tG.rd 1) 15 8 = 2 ∧ fieldOf (tG.rd 1) 63 16 = 0) ∧
    (fieldOf (tG.rd 2) 7 0 = 2 ∧ fieldOf (tG.rd 2) 15 8 = 1 ∧ fieldOf (tG.rd 2) 63 16 = 0) ∧
    (fieldOf (tG.rd 4) 7 0 = 2 ∧ fieldOf (tG.rd 4) 15 8 = 1 ∧ fieldOf (tG.rd 4) 31 16 = 2 ∧ fieldOf (tG.rd 4) 63 32 = 0) ∧
    tilesStay sG [(1, 2, 2)] ∧ tilesStay sG [(1, 2, 2), (2, 2, 1)] ∧ tilesStay sG [(1, 2, 2), (3, 2, 1), (2, 2, 1)] ∧
    tilesStay sG [(descAt 0 0, 2, 2), (descAt 0 1, 2, 2), (descAt 0 2, 2, 1), (descAt 0 3, 2, 1), (descAt 0 4, 2, 1)] ∧
    (∀ p ∈ pivG, p < 2) ∧ tG.qr[(0 : Fin 2)].length < 15 ∧ sG.preemptedNext 0 = false ∧
    (Instr.tluf 1 8 1).wf = true ∧ (Instr.tchol 1 1).wf = true ∧ (Instr.ttrsL 1 2 2).wf = true ∧ (Instr.ttrsU 1 2 2).wf = true ∧
    (Instr.ttrsL1 1 2 2).wf = true ∧ (Instr.ttrsU1 1 2 2).wf = true ∧ (Instr.ttrsLp 1 8 2 2).wf = true ∧ (Instr.ttrsL1p 1 8 2 2).wf = true ∧
    (Instr.tres 1 2 3 2 0).wf = true ∧ (Instr.titer 0 8 4 0).wf = true :=
  ⟨inProgram_of (by decide +kernel), by decide +kernel, by decide +kernel, by decide +kernel, by decide +kernel,
    tilesStay_of (by decide +kernel), tilesStay_of (by decide +kernel), tilesStay_of (by decide +kernel), tilesStay_of (by decide +kernel),
    by decide +kernel⟩

/-- A block of one stream in and one out over three FP32 elements, adding q0's stream to itself: two headers of one dimension, one word. -/
def tSb : Strand := { tV with hart := { tV.hart with g := regs [0, 0, 0, 0, 0x10000, 0x10100, 3, 4] } }
def wordSb : Nat := encode (.vadd 1 0 0 0 false)
def sSb : State :=
  { stateWith tSb with
    mem := laid codePage 0x104 [(4, 4 * 2 ^ 27), (4, 6 * 2 ^ 27 + 7 * 2 ^ 22), (4, 5 * 2 ^ 27 + 2 ^ 24), (4, 6 * 2 ^ 27 + 7 * 2 ^ 22), (4, wordSb)]
      (laid dataPage 0x10000 [(4, 0x3F800000), (4, 0x40000000), (4, 0x40400000)] []) }
def vSb : VView := tSb.view (sSb.groupsOf 0)
def hbSb : List StreamWords × Word := ran ([], 0) (allStreams 0x104 2) sSb
def s1Sb : State := ranTo (allStreams 0x104 2) sSb
def readSb : M (List Nat) := (List.range (0 + 1)).mapM fun n => codeWord (0x114 + BitVec.ofNat 64 (4 * n))
def wsSb : List Nat := ran [] readSb s1Sb
def s2Sb : State := ranTo readSb s1Sb
def stSb : List BlockStream := ran [] (hbSb.1.mapM StreamWords.values) s2Sb
def opsSb : List BodyOp := wsSb.filterMap fun w => (decodeBody w).bind bodyOf
def shapesSb : List BlockStream := hbSb.1.map fun h => { base := 0, et := h.et, out := h.out, extents := [], strides := [] }
def eSb : Expansion := ran ⟨0, 0, 0, (0, 0, 0), []⟩ (expansionOf tSb.hart.pc vSb wsSb) s2Sb
def s3Sb : State := ranTo (holdExpansion eSb) s2Sb

theorem wsSb_is : wsSb = [wordSb] := by decide +kernel

theorem runs_unit {f : M Unit} {s : State} (h : runs f s = true) : f.run s = .ok () (ranTo f s) := runs_ok (d := ()) h

theorem runs_pair {α β : Type} {x : α × β} {f : M (α × β)} {s u : State} (h : f.run s = .ok x u) : f.run s = .ok (x.1, x.2) u := h

theorem witness_SirmalBlock_words :
    InProgram sSb 0 tSb ∧ tSb.hart.pc + 4 = 0x104 ∧ (allStreams 0x104 2).run sSb = .ok (hbSb.1, hbSb.2) s1Sb ∧ hbSb.2 = 0x114 ∧
    readSb.run s1Sb = .ok wsSb s2Sb ∧ (∀ w ∈ wsSb, bodyWordOk shapesSb vSb.et w = true) ∧ (Instr.sblk 2 0).wf = true ∧
    rounding tSb vSb (opsSb.any (fun o => o.rounds vSb.et) || shapesSb.any fun h => h.et != vSb.et && convRounds h.et vSb.et) = true :=
  ⟨inProgram_of (by decide +kernel), by decide +kernel, runs_pair (x := hbSb) (runs_ok (by decide +kernel)), by decide +kernel,
    runs_ok (by decide +kernel), by rw [wsSb_is]; decide +kernel⟩

theorem witness_SirmalBlock_points :
    (hbSb.1.mapM StreamWords.values).run s2Sb = .ok stSb s2Sb ∧ (∀ x ∈ stSb, x.extents = [3]) ∧ stSb.length = 2 ∧ tSb.blkpt = none ∧
    (expansionOf tSb.hart.pc vSb wsSb).run s2Sb = .ok eSb s2Sb ∧ (holdExpansion eSb).run s2Sb = .ok () s3Sb ∧
    runs ((BlockEnv.mk vSb stSb opsSb).run [3] 3 0) s3Sb = true :=
  ⟨ok_same (by decide +kernel), by decide +kernel, by decide +kernel, by decide +kernel, ok_same (by decide +kernel),
    runs_unit (by decide +kernel), by decide +kernel⟩
/-! Lanes, synchronisation, bank memory, streams and copies. -/

/-- g1 asks for 1000 elements; g2 and g3 are VTYPE images, the second with a reserved ET; g4 to g6 ask for a shape of 16 by 3 by 5. -/
def tN : Strand :=
  { tV with hart := { tV.hart with g := regs [0, 1000, 0x21, 0x1F, 16, 3, 5, 0xC, 0xD, 0, 0xFFFFFFFFFF, 0x8, 0x10003, 1, 0x10000, 9, 2 ^ 40] } }
def sN : State := { sV with strands := [(0, tN)], time := 9 }
theorem sN_program : InProgram sN 0 tN := inProgram_of (by decide +kernel)

theorem witness_LengthAndShape :
    InProgram sN 0 tN ∧ vtypeOk (tN.rd 2) = true ∧ vtypeOk (tN.rd 3) = false ∧ (tN.rd 7).toNat = 0xC ∧ 0xC < (tN.rd 8).toNat ∧
    (Instr.tshape 4).wf = true ∧
    (∃ m n k, grantShape (sN.groupsOf 0) (fieldOf tN.vtype 4 0) 16 3 5 = some (m, n, k)) ∧ (tN.rd 4 = 16 ∧ tN.rd 5 = 3 ∧ tN.rd 6 = 5) ∧
    (fieldOf ({ tN with vtype := 0xB } : Strand).vtype 4 0 = 0xB ∧ grantShape (sN.groupsOf 0) 0xB 16 3 5 = none) := by
  refine ⟨sN_program, by decide +kernel, by decide +kernel, by decide +kernel, by decide +kernel, by decide +kernel, ?_, by decide +kernel,
    by decide +kernel⟩
  have h : (grantShape (sN.groupsOf 0) (fieldOf tN.vtype 4 0) 16 3 5).isSome = true := by decide +kernel
  obtain ⟨x, hx⟩ := Option.isSome_iff_exists.mp h
  exact ⟨x.1, x.2.1, x.2.2, hx⟩

/-- Another strand of the core with forwarded work, which keeps VSPLIT waiting. -/
def tBusy : Strand := { tN with iq := [{ pc := 0x10, instr := .vadd 1 2 3 0 false, cap := tN.capture, op := none, rpl := false, before := none }] }

theorem witness_LaneSplit :
    InProgram sN 0 tN ∧ (fieldOf (tN.rd 13) 63 2 = 0 ∧ fieldOf (tN.rd 14) 63 24 = 0) ∧ sN.splitPeers (coreNum 0) 0 = [] ∧
    fieldOf (tN.rd 1) 63 2 ≠ 0 ∧
    ({ sN with strands := [(0, tN), (1, tBusy)] } : State).splitPeers (coreNum 0) 0 ≠ [] := ⟨sN_program, by decide +kernel⟩

/-- Semaphore 4 of quad 0 is taken. -/
def sQd : State := { sN with quads := [(0, { sN.quad 0 with sem := 0x10 })] }
/-- Semaphore 4 is free, and context 1 has waited for it. -/
def sQw : State := { sN with quads := [(0, { sN.quad 0 with waiting := [(1, 4)] })] }

theorem witness_QuadRegisters :
    InProgram sQd 0 tN ∧ (sQd.quad 0).sem.getLsbD 31 = false ∧ (sQd.quad 0).waiting = [] ∧ (sQd.quad 0).sem.getLsbD 4 = true ∧
    InProgram sQw 0 tN ∧ (sQw.quad 0).sem.getLsbD 4 = false ∧
    (∃ w rest, (sQw.quad 0).waiting.filter (fun w => w.2 == 4) = w :: rest ∧ w.1 ≠ (0 : Ctx)) :=
  ⟨inProgram_of (by decide +kernel), by decide +kernel, by decide +kernel, by decide +kernel, inProgram_of (by decide +kernel),
    by decide +kernel, _, _, rfl, by decide +kernel⟩

/-- Episodes of three at core scope: barrier 3 with two arrivals, one of them of context 1, which sleeps there; barrier 4 with one. -/
def tW : Strand := { tN with cond := .asleep (.bar 0 0 3) }
def sE : State :=
  { sN with
    strands := [(0, tN), (1, tW)]
    hub := { sN.hub with episodes :=
      [{ scope := 0, inst := 0, bar := 3, job := 1, count := 3, arrived := [2, 1] },
       { scope := 0, inst := 0, bar := 4, job := 1, count := 3, arrived := [1] }] } }

theorem witness_Barriers :
    InProgram sE 0 tN ∧ jobOf tN.hart.ptbase = 1 ∧ (Instr.bar 5 3 0).wf = true ∧ (Instr.bar 5 3 4).wf = true ∧
    ((tN.rd 0).toNat = 0 ∧ 8 < (tN.rd 1).toNat ∧ (tN.rd 11).toNat = 8 ∧ 134217728 < (tN.rd 16).toNat) ∧
    ((tN.rd 5).toNat = 3 ∧ (tN.rd 6).toNat ≠ 3) ∧
    (∃ e, sE.hub.episodes.find? (fun e => e.isAt 0 0 3 1) = some e ∧ e.count = 3 ∧ e.arrived = [2, 1] ∧ 3 ≤ (e.arrived ++ [(0 : Ctx)]).length) ∧
    (∃ e, sE.hub.episodes.find? (fun e => e.isAt 0 0 4 1) = some e ∧ e.count = 3 ∧ (e.arrived ++ [(0 : Ctx)]).length < 3) ∧
    sE.hub.episodes.find? (fun e => e.isAt 1 0 9 1) = none ∧
    (sE.strand? 1 = some tW ∧ tW.cond = .asleep (.bar 0 0 3) ∧ tW.fromQueue = none) :=
  ⟨inProgram_of (by decide +kernel), by decide +kernel, by decide +kernel, by decide +kernel, by decide +kernel, by decide +kernel,
    ⟨_, rfl, by decide +kernel⟩, ⟨_, rfl, by decide +kernel⟩, by decide +kernel⟩

/-- A copy outstanding on path 2; and a strand to which another module owes a reply. -/
def tCp : Strand := tN.issue 2 (.copy 0 0x10000 0x10040 8 [dataPage])
def sCp : State := { sN with strands := [(0, tCp)] }
def tAw : Strand := { tCp with awaitsBank := [5] }
def sAw : State := { sN with strands := [(0, tAw)] }

theorem witness_Fences :
    InProgram sCp 0 tCp ∧ (Instr.xfence 2 5 4).wf = true ∧ (Instr.xfence 3 6 4).wf = true ∧
    (tCp.ops.find? fun o => o.path.val == 3 && !o.complete && o.work.inScope sCp.moduleNum.val (coreNum 0) 4) = none ∧
    (tCp.ops.find? fun o => o.path.val == 2 && !o.complete && o.work.inScope sCp.moduleNum.val (coreNum 0) 4).isSome = true ∧
    (InProgram sAw 0 tAw ∧ tAw.awaitsBank ≠ [] ∧
      (tAw.ops.find? fun o => o.path.val == 5 && !o.complete && o.work.inScope sAw.moduleNum.val (coreNum 0) 4) = none) :=
  ⟨inProgram_of (by decide +kernel), by decide +kernel, by decide +kernel, by decide +kernel, by decide +kernel,
    inProgram_of (by decide +kernel), by decide +kernel⟩

/-- The same module number 1, whose DRAM page at 0x10000 is then another module's. -/
def sFar : State := { sN with moduleNum := 1 }

theorem witness_SignalsAndTime :
    InProgram sN 0 tN ∧ (tN.rd 14).toNat % 8 = 0 ∧ Resident sN .rw (tN.rd 14) 8 8 [(dataPage, 0x10000, 8)] ∧
    Resident sN .load (tN.rd 14) 8 8 [(dataPage, 0x10000, 8)] ∧
    (Instr.sigincR 14 1 4).wf = true ∧ (Instr.sigwait 5 14 1 4).wf = true ∧
    (InProgram sFar 0 tN ∧ (translate .rw (tN.rd 14)).run sFar = .ok dataPage sFar ∧ dataPage.converts = false ∧ leafMod dataPage.leaf ≠ sFar.moduleNum.val ∧
      tN.outstanding 3 < Config.maxOutstanding ∧ tN.outstanding 3 = 0) ∧
    ((tN.rd 15).toNat ≤ sN.time.toNat ∧ ¬(tN.rd 1).toNat ≤ sN.time.toNat) :=
  ⟨sN_program, by decide +kernel, resides_of (va := tN.rd 14) (by decide +kernel), resides_of (va := tN.rd 14) (by decide +kernel),
    by decide +kernel, by decide +kernel, ⟨inProgram_of (by decide +kernel), ok_same (by decide +kernel), by decide +kernel⟩,
    by decide +kernel⟩

theorem bankAt_of {s : State} {acc : Acc} {va : Word} {p : PageTr} (h : okIs ((translate acc va).run s) p s = true)
    (b : leafDead p.leaf = false ∧ p.isBank = true ∧ leafMod p.leaf = s.moduleNum.val) : BankAt s acc va p :=
  { cached := ok_same h, alive := b.1, bank := b.2.1, own := b.2.2 }

/-- Bank memory: g1 aligned to 8 and not to 64, g2 to 512, g3 misaligned; v5 holds slot indices 64, 128 and 0. -/
def tH : Strand :=
  { tV with
    vl := 0x300000003, v := tV.v.set 5 (image 32 [64, 128, 0]), returns := []
    hart := { tV.hart with g := regs [0, 0x20008, 0x20200, 0x20041, 7, 1] } }
def sH : State := { stateWith tH with mem := Cells.write [] (bankPage.cell 0x20200) 64 0x1234567812345678123456781234567812345678 }
def vH : VView := tH.view (sH.groupsOf 0)
theorem sH_program : InProgram sH 0 tH := inProgram_of (by decide +kernel)
/-- The same in a Reproducible launch. -/
def tHr : Strand := { tH with hart := { tH.hart with status := 0xC00000 } }

theorem witness_BankOperationIssue :
    InProgram sH 0 tH ∧ (tH.rd 1).toNat % 8 = 0 ∧ (tH.rd 1).toNat % 4 = 0 ∧ BankAt sH .rw (tH.rd 1) bankPage ∧
    tH.outstanding 5 < Config.maxOutstanding ∧ (tH.rd 3).toNat % 8 ≠ 0 ∧ (tH.rd 3).toNat % 4 ≠ 0 ∧ tH.hart.repro = false ∧
    (InProgram { sH with strands := [(0, tHr)] } 0 tHr ∧ tHr.hart.repro = true) :=
  ⟨sH_program, by decide +kernel, by decide +kernel, bankAt_of (by decide +kernel) (by decide +kernel), by decide +kernel, by decide +kernel,
    by decide +kernel, by decide +kernel, inProgram_of (by decide +kernel), by decide +kernel⟩

/-- A bank operation issued and not yet performed. -/
def opB (o : BankOp) : PathOp := { path := 5, n := 1, work := .bank o (bankPage.cell 0x20200) 0x92345678C0000001 7 5, complete := false, err := none }
def tBk (o : BankOp) : Strand := { tH with ops := [opB o], cpl := tH.cpl.set 5 (1, 0) }
def sBk (o : BankOp) : State := { sH with strands := [(0, tBk o)] }

theorem witness_BankOperationResult :
    ∀ o ∈ [BankOp.add, .min, .max, .minn, .maxn, .and, .or, .xor, .swap, .cas, .fadd32, .fadd64],
      (sBk o).strand? 0 = some (tBk o) ∧ (tBk o).opAt 5 1 = some (opB o) ∧ (opB o).complete = false ∧ (tBk o).blockedOp 0 (opB o) = false ∧
      (sBk o).lostAt (bankPage.cell 0x20200) o.bytes = [] := by decide +kernel

theorem witness_ExactSlots :
    InProgram sH 0 tH ∧ (tH.rd 2).toNat % 64 = 0 ∧ (tH.rd 2).toNat % 512 + 320 ≤ 512 ∧ tH.ops = [] ∧
    BankAt sH .load (tH.rd 2) bankPage ∧ BankAt sH .rw (tH.rd 2) bankPage ∧ sH.lostAt (bankPage.cell 0x20200) 320 = [] ∧
    sH.lostAt (bankPage.cell 0x20200) 64 = [] ∧
    (exaKind vH.et = some false ∧ exaKind 1 = some true ∧ (Instr.bnkexa 1 2 5 1 true).wf = true ∧ (vH.span 1).ok = true ∧
      (vH.spanOf 5 32).ok = true ∧ tH.outstanding 5 < Config.maxOutstanding) ∧
    (∃ cells, (exaCells false ((tH.selected vH (modsOf 1 true)).map fun k =>
      tH.rd 2 + BitVec.ofInt 64 (toSigned 32 (elemAt 32 (tH.image vH.regBits (vH.spanOf 5 32)) k)))).run sH = .ok cells sH) ∧
    (∃ x rest, ({ tH with returns := [((5 : GReg), (7 : Word)), (2, 9)] } : Strand).returns = (5, x) :: rest) :=
  ⟨sH_program, by decide +kernel, by decide +kernel, by decide +kernel, bankAt_of (by decide +kernel) (by decide +kernel),
    bankAt_of (by decide +kernel) (by decide +kernel), by decide +kernel, by decide +kernel, by decide +kernel, ok_stays (by decide +kernel),
    ⟨_, _, rfl⟩⟩

theorem witness_ExactSum :
    [Num.fin false 1 0, .fin true 3 (-5)].Perm [.fin true 3 (-5), .fin false 1 0] ∧
    (∀ x ∈ [((false : Bool), (1 : Nat), (0 : Int)), (true, 3, -5)], -(exaL false : Int) ≤ x.2.2) ∧
    ([((false : Bool), (1 : Nat), (0 : Int)), (true, 3, -5)].map fun x => signedSig x.1 (x.2.1 * 2 ^ (x.2.2 + (exaL false : Int)).toNat)).sum.natAbs
      < 2 ^ (exaW false - 1) := ⟨List.Perm.swap _ _ _, by decide +kernel, by decide +kernel⟩

/-- Stream descriptors (R342, R343): at g1 an affine one into the tile store, at g2 one into q5, at g3 a fibre, at g4 one that Table 3 refuses; g5 is
misaligned. -/
def tD : Strand := { tV with hart := { tV.hart with g := regs [0, 0x10000, 0x10040, 0x10080, 0x100C0, 0x10004, 0x10300, 0x20, 1] } }
def sD : State :=
  { stateWith tD with
    mem := laid dataPage 0x10000 [(8, 0x10400), (8, 0x40), (1, 0), (1, 2), (1, 1), (1, 0), (4, 0), (4, 3), (4, 4), (4, 2), (4, 64)]
      (laid dataPage 0x10040 [(8, 0x10400), (8, 2 ^ 63 + 5), (1, 0), (1, 2), (1, 0), (1, 0), (4, 2), (4, 3), (4, 4)]
      (laid dataPage 0x10080 [(8, 0x10500), (8, 0x40), (1, 1), (1, 2), (1, 0), (1, 0), (4, 0), (8, 0x10400), (8, 0x10480), (4, 1), (4, 3)]
      (laid dataPage 0x100C0 [(8, 0), (8, 0), (1, 7)] (laid dataPage 0x10500 [(4, 0), (4, 1), (4, 4)] [])))) }
theorem sD_program : InProgram sD 0 tD := inProgram_of (by decide +kernel)

/-- A descriptor, as GSTR reads it. -/
def descD (va : Word) : Nat := ran 0 (loadBytes va 64) sD
def afterD (va : Word) : State := ranTo (loadBytes va 64) sD

/-- The elements of an affine descriptor. -/
def elemsD (x : Nat) : List (Word × Nat) :=
  (List.range (((descDims x).take (le x 18 1 + 1)).foldl (fun (n : Nat) (y : Nat × Int) => n * y.1) 1)).map fun k =>
    (affineVa (le64 x 0) ((descDims x).take (le x 18 1 + 1)) k, 2 ^ le x 17 1)

theorem witness_Streams :
    InProgram sD 0 tD ∧ (tD.rd 5).toNat % 64 ≠ 0 ∧ bitOf sD.hub.fubase 0 = false ∧ tD.outstanding 0 < Config.maxOutstanding ∧
    (∀ r ∈ [(1 : GReg), 2, 3, 4], (tD.rd r).toNat % 64 = 0 ∧ runs (loadBytes (tD.rd r) 64) sD = true) ∧
    (le (descD 0x10000) 16 1 = 0 ∧ affineOk ((afterD 0x10000).groupsOf 0) (descD 0x10000) = true ∧
      destOk (le64 (descD 0x10000) 8) ((elemsD (descD 0x10000)).length * 4) = true ∧ tD.activeStream (destQueue (le64 (descD 0x10000) 8)) = false ∧
      runs (enumOp .load (elemsD (descD 0x10000)) []) (afterD 0x10000) = true) ∧
    (le (descD 0x10040) 16 1 = 0 ∧ affineOk ((afterD 0x10040).groupsOf 0) (descD 0x10040) = true ∧
      destOk (le64 (descD 0x10040) 8) ((elemsD (descD 0x10040)).length * 4) = true ∧ tD.activeStream (destQueue (le64 (descD 0x10040) 8)) = false ∧
      runs (enumOp .load (elemsD (descD 0x10040)) []) (afterD 0x10040) = true) ∧
    bitOf (le64 (descD 0x10040) 8) 63 = true ∧
    (le (descD 0x10080) 16 1 = 1 ∧ fibreOk (descD 0x10080) = true ∧ runs (gstrFibre 0x10080 (descD 0x10080)) (afterD 0x10080) = true) ∧
    (le (descD 0x100C0) 16 1 ≠ 0 ∧ le (descD 0x100C0) 16 1 ≠ 1) := by
  refine ⟨sD_program, ?_, ?_, ?_, ?_, ?_, ?_, ?_,
    ?_, ?_, ?_⟩ <;> decide +kernel

/-- A stream of six elements into q5, four to an entry, none delivered; and with q5 full. -/
def workSt : OpWork := .affine 0x10000 0x8000000000000005 4 [(3, 4), (2, 64)] 6 4 0 [dataPage]
def opSt : PathOp := { path := 0, n := 1, work := workSt, complete := false, err := none }
def tSt : Strand := tD.issue 0 workSt
def sSt : State := { sD with strands := [(0, tSt)] }
def tStFull : Strand := { tSt with qv := (Vector.replicate 2 []).set 1 (List.replicate 4 { count := 1, width := 32, bits := 0, awaits := none }) }

theorem witness_StreamDelivery :
    sSt.strand? 0 = some tSt ∧ tSt.opAt 0 1 = some opSt ∧ opSt.complete = false ∧ tSt.blockedOp 0 opSt = false ∧ opSt.work = workSt ∧
    bitOf (0x8000000000000005 : Word) 63 = true ∧ tSt.qv[destQueue 0x8000000000000005].length < 4 ∧ bitOf sSt.hub.fubase 0 = false ∧
    (match (streamRead 0 0x10000 4 [(3, 4), (2, 64)] [dataPage] 0 4).run sSt with | .ok (.ok _) _ => true | _ => false) = true ∧
    (tStFull.opAt 0 1 = some opSt ∧ tStFull.blockedOp 0 opSt = false ∧ 4 ≤ tStFull.qv[destQueue 0x8000000000000005].length) := by decide +kernel

/-- COPY from 0x10300 to g6, its tile-store forms at offset 1, and a length of 0 in g0. -/
theorem witness_CopyIssue :
    InProgram sD 0 tD ∧ tileOk (tD.rd 8) 32 = true ∧ tileOk (tD.rd 8) 0 = true ∧ tD.outstanding 2 < Config.maxOutstanding ∧
    ((tD.rd 0).toNat = 0 ∧ (tD.rd 7).toNat = 32) ∧ runs (copyPages 0 (tD.rd 6) (tD.rd 6) 32) sD = true ∧
    runs (copyPages 1 (tD.rd 8) (tD.rd 6) 32) sD = true ∧ runs (copyPages 2 (tD.rd 6) (tD.rd 8) 32) sD = true ∧
    runs (copyPages 3 (tD.rd 8) (tD.rd 8) 32) sD = true := ⟨sD_program, by decide +kernel⟩

/-- COPY.TT of five bytes onto an overlapping place. -/
def opTt : PathOp := { path := 2, n := 1, work := .copy 3 0x11 0x13 5 [], complete := false, err := none }
def tTt : Strand := tD.issue 2 (.copy 3 0x11 0x13 5 [])
def sTt : State := { sD with strands := [(0, tTt)], cores := [(0, { core0 with tile := Cells.write [] 0x11 9 0xFFEEDDCCBBAA99887766 })] }

theorem witness_CopyResult :
    sTt.strand? 0 = some tTt ∧ tTt.opAt 2 1 = some opTt ∧ opTt.work = .copy 3 0x11 0x13 5 [] ∧ opTt.complete = false ∧
    tTt.blockedOp 0 opTt = false ∧ 0 < 5 ∧ (sTt.core (tileCore 0 0x11)).lost = [] ∧ (sTt.core (tileCore 0 0x13)).lost = [] := by decide +kernel
/-! Gathers, completion, cache hints, remote stores, records and Calderas. -/

/-- GATH of elements 1, 2 and 0 of FP32 after 0x10400, to the tile store at 0x40 and to q5. -/
def tGa : Strand := { tH with v := tV.v.set 5 (image 32 [1, 2, 0]), hart := { tV.hart with g := regs [0, 0x10400, 0x40, 2 ^ 63 + 5] } }
def sGa : State := stateWith tGa
def vGa : VView := tGa.view (sGa.groupsOf 0)
def vasGa : List (Option Word) := (List.range vGa.vl).map fun k =>
  if k < vGa.n ∧ tGa.selects (modsOf 1 true) k = true then
    some (0x10400 + BitVec.ofInt 64 (toSigned 32 (elemAt 32 (tGa.image vGa.regBits (vGa.spanOf 5 32)) k) * 4))
  else none

theorem witness_GatherIssue :
    InProgram sGa 0 tGa ∧ (Instr.gath 2 1 5 1 true 0 2).wf = true ∧ (vGa.spanOf 5 32).ok = true ∧ (tGa.rd 1).toNat % 4 = 0 ∧
    destOk (tGa.rd 2) (vGa.vl * 4) = true ∧ destOk (tGa.rd 3) (vGa.vl * 4) = true ∧ vGa.vl ≠ 0 ∧ tGa.outstanding 1 < Config.maxOutstanding ∧
    runs (gatherElems sGa.moduleNum.val 4 0x10400 vasGa []) sGa = true ∧ bitOf (tGa.rd 2) 63 = false ∧ bitOf (tGa.rd 3) 63 = true ∧
    tGa.activeStream (destQueue (tGa.rd 3)) = false ∧ tGa.qv[destQueue (tGa.rd 3)].length < 4 :=
  ⟨inProgram_of (by decide +kernel), by decide +kernel⟩

/-- Ring requests of a gather of two elements, the first outstanding at home 5 for entry stack 3. -/
def elemsRg : List GatherElem := [{ src := some (dataPage, 0x10000), val := none }, { src := some (dataPage, 0x10004), val := none }]
def tRg : Strand := tGa.issue 1 (.gather 7 4 elemsRg)
def opRg (done : Bool) : PathOp := { path := 1, n := 1, work := .gather 7 4 elemsRg, complete := done, err := none }
def itemRg (home entry : Die) : RingItem :=
  { ctx := 0, op := 1, entry := entry, home := home, ascending := true, pages := [dataPage], size := 4, elems := [(0, 0x10000, 9)] }
def sRg (t : Strand) (f r : List RingItem) : State := let s := stateWith t; s.setStack 3 { s.stack 3 with ringFwd := f, ringRet := r }
def tRgDone : Strand := { tRg with ops := [opRg true] }

theorem witness_RingEvents :
    (tRg.opAt 1 1 = some (opRg false) ∧ tRgDone.opAt 1 1 = some (opRg true) ∧ (opRg false).work = .gather 7 4 elemsRg) ∧
    ((sRg tRg [itemRg 5 3] []).strand? 0 = some tRg ∧ ((sRg tRg [itemRg 5 3] []).stack 3).ringFwd = itemRg 5 3 :: [] ∧
      (itemRg 5 3).home ≠ 3) ∧
    ((sRg tRgDone [itemRg 3 3] []).strand? 0 = some tRgDone ∧ ((sRg tRgDone [itemRg 3 3] []).stack 3).ringFwd = itemRg 3 3 :: []) ∧
    (((sRg tRg [] [itemRg 5 1]).stack 3).ringRet = itemRg 5 1 :: [] ∧ (itemRg 5 1).entry ≠ 3) ∧
    (((sRg tRg [] [itemRg 5 3]).stack 3).ringRet = itemRg 5 3 :: [] ∧ (itemRg 5 3).entry = 3 ∧
      ∃ x ∈ elemsRg.zipIdx.map fun (x : GatherElem × Nat) => ((itemRg 5 3).elems.find? fun y => y.1 == x.2).elim x.1 fun y =>
        ({ x.1 with val := some y.2.2 } : GatherElem), x.val = none) := by
  refine ⟨?_, ?_, ?_, ?_, ?_, ?_,
    ⟨{ src := some (dataPage, 0x10004), val := none }, ?_, rfl⟩⟩ <;> decide +kernel

/-- Path 0 has issued three operations and passed one; g1 to g4 name operations 1 to 4, g5 a handler. -/
def tCo : Strand :=
  { tV with cpl := tV.cpl.set 0 (3, 1), hart := { tV.hart with g := regs [0, 1, 2, 3, 4, 0x200] } }
def sCo : State := stateWith tCo
/-- In a handler, and with a handler due. -/
def tUp : Strand := { tCo with hart := { tCo.hart with status := 0x600000 }, upra := 0x444 }
def tUq : Strand := { tUp with upra := 0x446 }
def tDue : Strand := { tCo with pending := [(0x2000, 3, 7), (1, 2, 3)], cond := .asleep .idle }

theorem witness_Completion :
    InProgram sCo 0 tCo ∧
    ((tCo.cpl[(0 : Fin 6)].1 - BitVec.ofNat 32 (tCo.rd 1).toNat).toNat < 2 ^ 31 ∧ (tCo.cpl[(0 : Fin 6)].2 - BitVec.ofNat 32 (tCo.rd 1).toNat).toNat < 2 ^ 31 ∧
      tCo.ede = []) ∧
    ((tCo.cpl[(0 : Fin 6)].1 - BitVec.ofNat 32 (tCo.rd 3).toNat).toNat < 2 ^ 31 ∧
      ¬(tCo.cpl[(0 : Fin 6)].2 - BitVec.ofNat 32 (tCo.rd 3).toNat).toNat < 2 ^ 31) ∧
    ¬(tCo.cpl[(0 : Fin 6)].1 - BitVec.ofNat 32 (tCo.rd 4).toNat).toNat < 2 ^ 31 ∧
    (fieldOf (tCo.rd 5) 1 0 = 0 ∧ tCo.armed.length + tCo.pending.length < 8) ∧
    (Ready (stateWith tUp) 0 tUp ∧ tUp.hart.upc = true ∧ fieldOf tUp.upra 1 0 = 0) ∧
    (Ready (stateWith tUq) 0 tUq ∧ tUq.hart.upc = true ∧ fieldOf tUq.upra 1 0 ≠ 0) ∧
    ((stateWith tDue).strand? 0 = some tDue ∧ tDue.pending = (0x2000, 3, 7) :: [(1, 2, 3)] ∧ tDue.hart.upc = false ∧ tDue.cond ≠ .stopped ∧
      tDue.ede = []) :=
  ⟨inProgram_of (by decide +kernel), by decide +kernel, by decide +kernel, by decide +kernel, by decide +kernel,
    ⟨ready_of (by decide +kernel), by decide +kernel⟩, ⟨ready_of (by decide +kernel), by decide +kernel⟩, by decide +kernel⟩

/-- The DRAM page in page tables, whole and unused: g1 its address, g2 its size; g3 and g4 chain numbers; g6 and g7 bytes of one line. -/
def tDi : Strand := { tV with hart := { tV.hart with g := regs [0, 0x10000, 0x10000, 255, 256, 0, 0x10080, 0x40] } }
def sDi : State :=
  { (((((stateWith tDi).poke 0x100000 8 0x200001).poke 0x200000 8 0x201001).poke 0x201000 8 0x202001).poke 0x202008 8 (0x31 * 2 ^ 26 + 7)) with
    strands := [(0, tDi)] }
def leafDi : Word := BitVec.ofNat 64 (0x31 * 2 ^ 26 + 7)
def pageDi : PageTr := { job := 1, vbase := 0x10000, size := 0x10000, leaf := leafDi, pte := cellOf 0 0x202008 }

theorem witness_ResidAndDemote :
    InProgram sDi 0 tDi ∧ (0 < (tDi.rd 7).toNat ∧ (tDi.rd 7).toNat ≤ 256) ∧ (translate .load (tDi.rd 6)).run sDi = .ok dataPage sDi ∧
    (leafDead dataPage.leaf = false ∧ leafMod dataPage.leaf = sDi.moduleNum.val ∧ 0x10080 + 0x40 ≤ dataPage.vbase + dataPage.size ∧
      (dataPage.linesOf 0x10080 0x40).length = 1) ∧
    ((tDi.rd 3).toNat = 255 ∧ (tDi.rd 4).toNat = 256 ∧ (tDi.rd 0).toNat = 0) :=
  ⟨inProgram_of (by decide +kernel), by decide +kernel, ok_same (by decide +kernel), by decide +kernel, by decide +kernel⟩

theorem witness_DiscardPage :
    InProgram sDi 0 tDi ∧ (tDi.rd 0).toNat = 0 ∧
    (0 < (tDi.rd 2).toNat ∧ (tDi.rd 2).toNat ≤ 0x40000000 ∧ (tDi.rd 1).toNat + (tDi.rd 2).toNat ≤ 2 ^ 56 ∧ (tDi.rd 1).toNat % (tDi.rd 2).toNat = 0) ∧
    sDi.walkPage tDi.hart.ptbase 0x10000 = .leaf leafDi 0x10000 (cellOf 0 0x202008) ∧ leafDead leafDi = false ∧
    sDi.leafSize tDi.hart.ptbase 0x10000 = some 0x10000 ∧ sDi.leafSize tDi.hart.ptbase 0x1FFFF = some 0x10000 ∧
    discardTrap sDi pageDi = none ∧ (∀ e ∈ sDi.strands, e.2.ops = [] ∧ e.2.awaitsBank = [] ∧ e.2.stores = []) ∧
    (∀ k, k < 16 → ∀ e ∈ (sDi.stack k).msc, ∀ x ∈ e.2, pageDi.holdsCell (sDi.lineCell k x.line) = true → x.dirty = false) :=
  ⟨inProgram_of (by decide +kernel), by decide +kernel⟩

/-- The same module with a frame-use table at 0x300000. -/
def sHi : State := { sDi with hub := { sDi.hub with fubase := 0x300001 } }
def frameHi : Nat := (frameIndex (leafBase dataPage.leaf)).getD 0

theorem witness_PageHint :
    InProgram sDi 0 tDi ∧ bitOf sDi.hub.fubase 0 = false ∧ InProgram sHi 0 tDi ∧ bitOf sHi.hub.fubase 0 = true ∧ 0 < (tDi.rd 7).toNat ∧
    (translate .load (tDi.rd 6)).run sHi = .ok dataPage sHi ∧
    (leafDead dataPage.leaf = false ∧ leafMod dataPage.leaf = sHi.moduleNum.val ∧
      (tDi.rd 6).toNat + (tDi.rd 7).toNat ≤ dataPage.vbase + dataPage.size) ∧
    (0 < leafStored dataPage.leaf dataPage.size ∧ leafStored dataPage.leaf dataPage.size ≤ 0x10000) ∧
    frameIndex (leafBase dataPage.leaf) = some frameHi ∧
    (dataPage.pte / 8 ≠ frameCell sHi.moduleNum.val sHi.hub.fubase frameHi / 8 ∧ dataPage.pte % 8 = 0) :=
  ⟨inProgram_of (by decide +kernel), by decide +kernel, inProgram_of (by decide +kernel), by decide +kernel, by decide +kernel,
    ok_same (by decide +kernel), by decide +kernel⟩

/-- Pages of this module and of module 1; RSTV to each, and to copies at both. -/
def farPage : PageTr := { page 0x40000 0x31 7 with leaf := BitVec.ofNat 64 (2 ^ 52 + 0x31 * 2 ^ 26 + 7) }
def tRs : Strand := { tH with v := tV.v.set 8 (image 32 [0x3F800000, 0x40000000, 0x7F812301]), hart := { tV.hart with g := regs [0, 0x40000, 0, 0x10000, 0x40, 2] } }
def sRs : State :=
  let s := stateWith tRs
  { s with cores := [(0, { core0 with tlb := core0.tlb ++ [farPage] })], hub := { s.hub with modpres := 3 } }
def vRs : VView := tRs.view (sRs.groupsOf 0)
/-- INT64 elements, for RSTV.ADD. -/
def tRi : Strand := { tRs with vtype := 0xB }
def sRi : State := { sRs with strands := [(0, tRi)] }
def vRi : VView := tRi.view (sRi.groupsOf 0)

/-- The hypotheses of a remote store that are checks, beside its trap and its pages. -/
def remoteReady (t : Strand) (v : VView) (i : Instr) (add : Bool) (link : Fin 4) (copies : Nat) : Prop :=
  i.wf = true ∧ v.formOk .other = true ∧ (v.span 8).ok = true ∧ (link.val = 0 ∨ v.et = 0 ∨ v.et = 2 ∨ v.et = 3) ∧
  (add = true → classI v.et = true ∧ v.mfmt = 0) ∧ rounding t v (v.mfmt != 0 || link.val != 0) = true ∧
  t.qr[(1 : Fin 2)].length < 16 ∧ t.outstanding 3 < Config.maxOutstanding ∧ 1 ≤ copies ∧ copies ≤ 64

/-- Whether its pages are there. -/
def remotePages (s : State) (t : Strand) (v : VView) (a : GReg) (add : Bool) (spacing : Word) (copies : Nat) : Bool :=
  runs (remoteEnum add ((remoteUnits v (t.rd a) spacing copies (t.selected v (modsOf 1 true))).map (·.2))) s

theorem witness_RemoteStoreIssue :
    InProgram sRs 0 tRs ∧ remoteReady tRs vRs (.rstv 8 1 1 true 1 2) false 2 1 ∧ remotePages sRs tRs vRs 1 false 0 1 = true ∧
    remoteReady tRs vRs (.rstvMc 8 3 4 1 true 1 0) false 0 (tRs.rd 5).toNat ∧ remotePages sRs tRs vRs 3 false (tRs.rd 4) (tRs.rd 5).toNat = true ∧
    InProgram sRi 0 tRi ∧ remoteReady tRi vRi (.rstvAdd 8 3 1 true 1) true 0 1 ∧ remotePages sRi tRi vRi 3 true 0 1 = true ∧
    (∀ sp rs, tRs.trapsAt sp rs = none) ∧ ∀ sp rs, tRi.trapsAt sp rs = none := by
  refine ⟨inProgram_of (by decide +kernel), ?_, by decide +kernel, ?_, by decide +kernel, inProgram_of (by decide +kernel), ?_, by decide +kernel,
    fun sp rs => trapsAt_off (by decide +kernel), fun sp rs => trapsAt_off (by decide +kernel)⟩
  all_goals (unfold remoteReady; decide +kernel)

/-- Writes of two copies, the second here. -/
def writesRo : List RemoteWrite :=
  [{ copy := 3, parts := [(farPage, 0x40000, 4)], va := 0x40000, len := 4, data := 7 },
   { copy := 5, parts := [(dataPage, 0x10000, 4)], va := 0x10000, len := 4, data := 7 }]
def opRo : PathOp := { path := 3, n := 1, work := .remoteStore false writesRo 1 false, complete := false, err := none }
def tRo : Strand := { tRs.issue 3 (.remoteStore false writesRo 1 false) with qr := tRs.qr.set 1 [.awaits 3 1] }
def sRo (used : Nat) : State := { sRs with strands := [(0, tRo)], hub := { sRs.hub with recvUsed := used } }

theorem witness_RemoteStoreOutcome :
    ((sRo 0).strand? 0 = some tRo ∧ tRo.opAt 3 1 = some opRo ∧ opRo.complete = false ∧ (∀ m ∈ opRo.work.modules, (sRo 0).cutOff m = none)) ∧
    ((sRo 0).hub.recvUsed + localBytes (sRo 0).moduleNum.val writesRo ≤ Config.recvBytes) ∧
    (Config.recvBytes < (sRo Config.recvBytes).hub.recvUsed + localBytes (sRo 0).moduleNum.val writesRo ∧
      (writesRo.find? fun w => w.goesTo 0).isSome = true) := by decide +kernel

/-- Records: at g1 one with room, at g4 a full one (R360); g2 and g3 positions below and at the limit. -/
def tCr : Strand := { tV with hart := { tV.hart with g := regs [0, 0x20000, 4, 5, 0x20010, 0x20200, 4 + 2 * 65536 + 2 ^ 32, 2, 0x20400, 0, 0x20201, 2 ^ 40 - 1] } }
def sCr : State := { stateWith tCr with mem := laid bankPage 0x20000 [(4, 5), (4, 3), (4, 9), (4, 0), (4, 5), (4, 5), (4, 0xFFFFFFFF)] [] }
def tCrr : Strand := { tCr with hart := { tCr.hart with status := 0xC00000 } }
theorem sCr_program : InProgram sCr 0 tCr := inProgram_of (by decide +kernel)

theorem witness_CapacityRecords :
    InProgram sCr 0 tCr ∧ ((tCr.rd 1).toNat % 16 = 0 ∧ (tCr.rd 4).toNat % 16 = 0) ∧ BankAt sCr .rw (tCr.rd 1) bankPage ∧
    BankAt sCr .rw (tCr.rd 4) bankPage ∧ (sCr.lostAt (bankPage.cell 0x20000) 16 = [] ∧ sCr.lostAt (bankPage.cell 0x20010) 16 = []) ∧
    tCr.ops = [] ∧ tCr.hart.repro = false ∧
    (sCr.mem.read (bankPage.cell 0x20004) 4 < sCr.mem.read (bankPage.cell 0x20000) 4 ∧
      sCr.mem.read (bankPage.cell 0x20010) 4 ≤ sCr.mem.read (bankPage.cell 0x20014) 4) ∧
    ((tCr.rd 2).toNat % 2 ^ 32 < sCr.mem.read (bankPage.cell 0x20000) 4 ∧ sCr.mem.read (bankPage.cell 0x20000) 4 ≤ (tCr.rd 3).toNat % 2 ^ 32) ∧
    tCrr.hart.repro = true ∧ BankAt { sCr with strands := [(0, tCrr)] } .rw (tCrr.rd 1) bankPage := by
  refine ⟨sCr_program, ?_, bankAt_of ?_ ?_, bankAt_of ?_ ?_,
    ?_, ?_, ?_, ?_, ?_, ?_,
    bankAt_of ?_ ?_⟩ <;> decide +kernel

/-- A Caldera of two slots at g5, with free slots; and with slot 0 taken. -/
def cellCa : Nat := bankPage.cell 0x20200
def wordCa : Word := BitVec.ofNat 64 (4 + 2 * 65536 + 2 ^ 32)
def oneCa (base : Nat) : Caldera := { base := base, va := 0x20200, pages := [bankPage], word := wordCa, owner := (0, 0, 0), job := 1, timedOut := [] }
def withCa (l : List Caldera) : State := sCr.setDie (dieOfCell cellCa) { sCr.die (dieOfCell cellCa) with calderas := l }
def sCa : State := withCa [oneCa cellCa]
def sCb : State := ranTo (cslotAtBank (oneCa cellCa) 4) { sCa with turn := .strand 0 }
def sCo' : State := sCa.bumpMix (sCa.ccOpen (bankPage.cell (tCr.rd 5).toNat))

theorem witness_CalderaRequests :
    InProgram sCa 0 tCr ∧ fieldOf (tCr.rd 3) 31 0 ≠ 0xFFFFFFFF ∧
    ((Instr.cslot 9 5 3).wf = true ∧ (Instr.cslotFree 9 5 3).wf = true ∧ (Instr.ctake 9 5).wf = true ∧ (Instr.cstat 9 5 5).wf = true) ∧
    ((tCr.rd 10).toNat % 512 ≠ 0 ∧ (tCr.rd 5).toNat % 512 = 0) ∧ BankAt sCa .rw (tCr.rd 5) bankPage ∧ BankAt sCr .rw (tCr.rd 5) bankPage ∧
    tCr.ops = [] ∧ sCr.calderaAt cellCa = none ∧ sCa.calderaAt cellCa = some (oneCa cellCa) ∧
    (∀ x ∈ (oneCa cellCa).cells 0 256, sCa.lostAt x.2.1 x.2.2 = []) ∧
    (runs (cslotAtBank (oneCa cellCa) 5) sCo' = true ∧ runs (freeAtBank (oneCa cellCa) 5) sCo' = true ∧ runs (ctakeAtBank (oneCa cellCa)) sCo' = true ∧
      runs (cstatAtBank (oneCa cellCa) 0) sCo' = true ∧ runs (cstatAtBank (oneCa cellCa) 5) sCo' = true) ∧
    (0 < (oneCa cellCa).slots ∧ (oneCa cellCa).stateOf sCa 0 = 0 ∧ (oneCa cellCa).stateOf sCb 0 ≠ 0) :=
  ⟨inProgram_of (by decide +kernel), by decide +kernel, by decide +kernel, by decide +kernel, bankAt_of (by decide +kernel) (by decide +kernel),
    bankAt_of (by decide +kernel) (by decide +kernel), by decide +kernel, by decide +kernel, by decide +kernel, by decide +kernel,
    by decide +kernel, by decide +kernel⟩

/-- A die with sixteen other Calderas. -/
def sFull : State := withCa ((List.range 16).map fun i => oneCa (cellCa + 512 * (i + 1)))

theorem witness_CalderaConfigure :
    InProgram sCr 0 tCr ∧ ((tCr.rd 10).toNat % 512 ≠ 0 ∧ (tCr.rd 5).toNat % 512 = 0 ∧ tCr.ops = []) ∧
    (fieldOf (tCr.rd 11) 31 16 ≠ 0 ∧ ¬(fieldOf (tCr.rd 11) 43 35 = 0 ∧ fieldOf (tCr.rd 11) 47 46 ≠ 3 ∧ fieldOf (tCr.rd 11) 15 0 ≠ 0)) ∧
    (fieldOf (tCr.rd 6) 31 16 = 2 ∧ fieldOf (tCr.rd 6) 43 35 = 0 ∧ fieldOf (tCr.rd 6) 47 46 ≠ 3 ∧ fieldOf (tCr.rd 6) 15 0 ≠ 0) ∧
    fieldOf (tCr.rd 0) 31 16 = 0 ∧
    [bankPage].find? (fun p => decide (p.vbase ≤ 0x20200) && decide (0x20200 < p.vbase + p.size)) = some bankPage ∧
    (regionPages 0x20200 256).run sCr = .ok [bankPage] sCr ∧ (regionPages 0x20200 (regionBytes (tCr.rd 6))).run sCr = .ok [bankPage] sCr ∧
    ((sCr.die (dieOfCell cellCa)).calderas.filter fun k => k.base != cellCa).length < 16 ∧
    (InProgram sFull 0 tCr ∧ (regionPages 0x20200 (regionBytes (tCr.rd 6))).run sFull = .ok [bankPage] sFull ∧
      16 ≤ ((sFull.die (dieOfCell cellCa)).calderas.filter fun k => k.base != cellCa).length) :=
  ⟨sCr_program, by decide +kernel, by decide +kernel, by decide +kernel, by decide +kernel, by decide +kernel, ok_same (by decide +kernel),
    ok_same (by decide +kernel), by decide +kernel, inProgram_of (by decide +kernel), ok_same (by decide +kernel), by decide +kernel⟩

/-- A deposit of a row of four values, with its ticket and gate in g24 and g25; then in the intake of the die. -/
def tDp : Strand := { tCr with vl := 0x400000004 }
def sDp : State := { sCb with strands := [(0, tDp)] }
def vDp : VView := tDp.view (sDp.groupsOf 0)
def rowDp : List (BitVec 16) := [0x3F80, 0x4000, 0x4040, 0x4080]
def dieDp : Die := Fin.ofNat 16 (dieOfCell cellCa)
def entryDp : Deposit := { ctx := some 0, op := 1, src := 0, addr := cellCa, ticket := 0, gate := 0, row := rowDp }
def opDp : PathOp := { path := 5, n := 1, work := .deposit cellCa 0 0 rowDp 1, complete := false, err := none }
def tDq : Strand := { tDp.issue 5 (.deposit cellCa 0 0 rowDp 1) with qr := tDp.qr.set 1 [.awaits 5 1] }
def sDq : State := { sDp.setDie dieDp.val { sDp.die dieDp.val with intake := [entryDp] } with strands := [(0, tDq)] }

theorem witness_CalderaDeposit :
    (InProgram sDp 0 tDp ∧ (Instr.cdep 1 5 12 1).wf = true ∧ vDp.et = 0 ∧ (vDp.span 1).ok = true ∧ tDp.qr[(1 : Fin 2)].length < 16 ∧
      tDp.outstanding 5 < Config.maxOutstanding ∧ (tDp.rd 5).toNat % 512 = 0 ∧ BankAt sDp .rw (tDp.rd 5) bankPage ∧
      (sDp.die (dieOfCell cellCa)).intake.length < 256 ∧ sDp.hub.recvUsed ≤ Config.recvBytes) ∧
    ((sDq.die dieDp.val).intake = entryDp :: [] ∧ entryDp.ctx = some 0 ∧ sDq.strand? 0 = some tDq ∧ tDq.opAt 5 1 = some opDp ∧
      runs (depositRun entryDp false) { sDq.setDie dieDp.val { sDq.die dieDp.val with intake := [] } with turn := .strand 0 } = true) := by
  refine ⟨⟨inProgram_of ?_, ?_, ?_, ?_, ?_, ?_,
    ?_, bankAt_of ?_ ?_, ?_, ?_⟩, ?_⟩ <;> decide +kernel

/-- A Caldera whose slots time out after 3 microseconds, its slot 0 open with some rows there, before and after; a strand with two
time-outs to take. -/
def kTm : Caldera := { oneCa cellCa with word := wordCa ||| BitVec.ofNat 64 (3 * 2 ^ 48) }
def sTm (time : Word) (rows : Nat) : State :=
  let s := withCa [kTm]
  { s with time := time, mem := s.mem.write (cellCa + kTm.slotOff 0 + 4) 4 (0x10001 + rows * 2 ^ 24) }
def tTm : Strand := { tCr with timeouts := [5, 6] }

/-- Whether a slot is open, full, and due. -/
def slotTm (time : Word) (rows slot : Nat) : Bool × Bool × Bool :=
  let s := sTm time rows
  (decide (dieOfCell cellCa = dieDp.val ∧ slot < kTm.slots ∧ kTm.stateOf s slot = 1),
    decide (kTm.bitmapOf s slot % 2 ^ kTm.positions = 2 ^ kTm.positions - 1),
    decide (kTm.tmo ≠ 0 ∧ kTm.read s (kTm.slotOff slot + 96) 8 + 1000 * kTm.tmo ≤ s.time.toNat))

theorem witness_CalderaTimeouts :
    (∀ x ∈ [(0, 0), (2999, 1), (3000, 1), (2999, 3), (3000, 3)], (sTm (BitVec.ofNat 64 x.1) x.2).calderaAt cellCa = some kTm) ∧
    slotTm 3000 1 1 = (false, false, true) ∧ slotTm 2999 1 0 = (true, false, false) ∧ slotTm 3000 1 0 = (true, false, true) ∧
    slotTm 2999 3 0 = (true, true, false) ∧ slotTm 3000 3 0 = (true, true, true) ∧
    ((stateWith tTm).strand? 0 = some tTm ∧ tTm.timeouts = 5 :: [6] ∧ tTm.cond = .runnable ∧ tTm.iq = []) := by decide +kernel

/-! System control, contexts, launches and privilege. -/

/-- A launch descriptor: its operation, its priority, its handle, its strands and the number it names. -/
def desc (op prio handle strands num : Nat) : List (Nat × Nat) :=
  [(1, op), (1, prio), (1, 3), (1, 0), (1, 0), (1, 4), (1, 3), (1, 0), (4, handle), (4, 0), (4, strands), (4, 10), (8, 7), (8, 0x1000000100000),
    (8, 0x100000), (8, 0), (4, 0), (4, 0), (4, 0), (4, 0), (8, 0), (8, 1), (8, 0x200000), (4, num), (28, 0)]
def handleLn : Handle := { num := 1, code := 0x5000, size := 64, entries := [0], resumes := [], system := false }
def launchLn : Launch := { launchOf 0 0 with number := 5 }
/-- g1, g10, g12 and g13 name descriptors, g4 none that is aligned; g2 to g5 are also numbers, contexts and lane groups. -/
def tLn : Strand :=
  { strandWith [0, 0x10000, 7, 2, 0x10050, 5, 0x10010, 0x12000, 32768, 1, 0x10080, 2 ^ 16, 0x10100, 0x10180, 2 ^ 63, 8] with vl := 0x300000003 }
def sLn : State :=
  let s := stateWith tLn
  { s with
    mem := laid dataPage 0x10180 (desc 0 3 77 4 0) (laid dataPage 0x10100 (desc 2 0 0 0 5) (laid dataPage 0x10080 (desc 1 0 0 0 5)
      (laid dataPage 0x10000 (desc 0 3 1 4 0) [])))
    hub := { s.hub with handles := [handleLn], launches := [launchLn], nextLaunch := 9 } }
theorem sLn_program : InProgram sLn 0 tLn := inProgram_of (by decide +kernel)

theorem witness_SystemControl :
    InProgram sLn 0 tLn ∧ tLn.hart.sysh = true ∧ fieldOf (tLn.rd 14) 63 3 ≠ 0 ∧
    (fieldOf (tLn.rd 9) 63 3 = 0 ∧ sLn.launch? sLn.moduleNum (BitVec.ofNat 32 (tLn.rd 2).toNat) = none) ∧
    sLn.launch? sLn.moduleNum (BitVec.ofNat 32 (tLn.rd 5).toNat) ≠ none ∧
    ((Instr.xlinv 1 11 2).wf = true ∧ fieldOf (tLn.rd 11) 63 16 ≠ 0 ∧ (Instr.xlinv 1 9 2).wf = true ∧ fieldOf (tLn.rd 9) 63 16 = 0 ∧
      ∀ e ∈ sLn.strands, e.2.ops = [] ∧ e.2.awaitsBank = [] ∧ e.2.stores = []) := ⟨sLn_program, by decide +kernel⟩

/-- A control complex core in the second of two handlers, and in none. -/
def kTr : CcCore := { (sLn.cc 3) with ccstat := 0x2B, handling := 2 }
def kTm' : CcCore := { kTr with hart := { kTr.hart with tpc := 0x442 } }
def sTr (k : CcCore) : State := { sLn with ccs := [(3, k)], turn := .cc 3 }

theorem witness_TrapReturn :
    ((sTr kTr).turn = .cc 3 ∧ bitOf ((sTr kTr).cc 3).ccstat 0 = true ∧ ((sTr kTr).cc 3).handling ≠ 0 ∧
      fieldOf ((sTr kTr).cc 3).hart.tpc 1 0 = 0) ∧
    (bitOf ((sTr kTm').cc 3).ccstat 0 = true ∧ ((sTr kTm').cc 3).handling ≠ 0 ∧ fieldOf ((sTr kTm').cc 3).hart.tpc 1 0 ≠ 0) ∧
    (bitOf ((sTr { kTr with handling := 0 }).cc 3).ccstat 0 = true ∧ ((sTr { kTr with handling := 0 }).cc 3).handling = 0) ∧
    InProgram sLn 0 tLn ∧ tLn.hart.sysh = true :=
  ⟨by decide +kernel, by decide +kernel, by decide +kernel, sLn_program, by decide +kernel⟩

/-- What a descriptor's bytes read as, and the refusal they get. -/
def readLn (va : Word) : Nat := ran 0 (loadBytes va 128) sLn
def afterLn (va : Word) : State := ranTo (loadBytes va 128) sLn

/-- A strand of launch 5 in context 4. -/
def tLm : Strand := { tLn with launchNum := 5 }
def sLm : State := { sLn with strands := [(0, tLn), (4, tLm)] }
/-- Launch 5 is not resident. -/
def sLo : State := { sLn with hub := { sLn.hub with launches := [] } }

theorem witness_Launching :
    InProgram sLn 0 tLn ∧ tLn.hart.sysh = true ∧ (tLn.rd 4).toNat % 64 ≠ 0 ∧
    ((tLn.rd 1).toNat % 64 = 0 ∧ (tLn.rd 10).toNat % 64 = 0 ∧ (tLn.rd 12).toNat % 64 = 0 ∧ (tLn.rd 13).toNat % 64 = 0 ∧
      bitOf sLn.hub.fubase 0 = false) ∧
    (runs (loadBytes 0x10000 128) sLn = true ∧ le (readLn 0x10000) 0 1 = 0 ∧ (afterLn 0x10000).launchCode (readLn 0x10000) false = 0 ∧
      (afterLn 0x10000).hub.nextLaunch ≠ 0 ∧
      (afterLn 0x10000).launch? (afterLn 0x10000).moduleNum (afterLn 0x10000).hub.nextLaunch = none) ∧
    (runs (loadBytes 0x10180 128) sLn = true ∧ le (readLn 0x10180) 0 1 = 0 ∧ (afterLn 0x10180).launchCode (readLn 0x10180) false = 2) ∧
    (runs (loadBytes 0x10100 128) sLn = true ∧ le (readLn 0x10100) 0 1 = 2) ∧
    (runs (loadBytes 0x10080 128) sLn = true ∧ le (readLn 0x10080) 0 1 = 1 ∧ le (readLn 0x10080) 100 28 = 0 ∧
      (afterLn 0x10080).launch? (afterLn 0x10080).moduleNum (BitVec.ofNat 32 (le (readLn 0x10080) 96 4)) = some launchLn ∧
      (∀ e ∈ (afterLn 0x10080).strands, e.2.ofLaunch launchLn.issuer launchLn.number = false) ∧
      (launchLn.dispatched = true → launchLn.here = true ∧ launchLn.othersLeft = 0)) ∧
    InProgram sLm 0 tLn ∧
    (runs (loadBytes 0x10080 128) sLm = true ∧ (ranTo (loadBytes 0x10080 128) sLm).launch? 0 5 = some launchLn ∧
      (4, tLm) ∈ (ranTo (loadBytes 0x10080 128) sLm).strands ∧ (ranTo (loadBytes 0x10080 128) sLm).strand? 4 = some tLm ∧
      tLm.ofLaunch launchLn.issuer launchLn.number = true ∧ tLm.cond ≠ .stopped) ∧
    InProgram sLo 0 tLn ∧ (runs (loadBytes 0x10080 128) sLo = true ∧ (ranTo (loadBytes 0x10080 128) sLo).launch? 0 5 = none) := by
  refine ⟨sLn_program, ?_, ?_, ?_, ?_, ?_, ?_,
    ?_, inProgram_of ?_, ?_, inProgram_of ?_, ?_⟩ <;> decide +kernel

/-- Contexts 1 to 3: a running strand, a stopped one, one with a fault frame; context 9 is free; the layouts are in memory. -/
def tCx (cond : Cond) (frame : Option Frame) : Strand :=
  { tLn with cond := cond, frame := frame, hart := { tLn.hart with pc := 0x500, tpc := 0x777 } }
def fiCx : Forwarded := { pc := 0x10, instr := .vadd 1 2 3 0 false, cap := tLn.capture, op := none, rpl := false, before := none }
def frCx : Frame := { head := fiCx, rest := [fiCx], cm := 5, serial := 0 }
/-- g1 to g3 and g5 name contexts, g4 none; g6 a layout of a strand without accumulators, g8 room of its own. -/
def tCc : Strand := { tLn with hart := { tLn.hart with g := regs [0, 1, 2, 3, 32768, 9, 0x11000, 0, 0x13000, 0x23000] } }
def baseCx : State :=
  let s := stateWith tCc
  { s with
    strands := [(0, tCc), (1, tCx .runnable none), (2, tCx .stopped none), (3, tCx .stopped (some frCx))]
    quads := [(0, { s.quad 0 with job := some 1 })]
    hub := { s.hub with handles := [handleLn], launches := [launchLn] } }
/-- Table 6: its version, its length, its page tables, its handle and its launch. -/
def layoutCx : Cells :=
  [(0, 2, 1), (4, 4, 0xC00), (0x198, 8, 0x0001000000100000), (0xB58, 4, 1), (0xB64, 4, 5)].foldl
    (fun (m : Cells) (x : Nat × Nat × Nat) => m.write (dataPage.cell (0x11000 + x.1)) x.2.1 x.2.2) []
def sCx : State := { baseCx with mem := layoutCx }

theorem witness_ContextOperations :
    InProgram sCx 0 tCc ∧ tCc.hart.sysh = true ∧ fieldOf (tCc.rd 4) 63 15 ≠ 0 ∧
    ((tCc.rd 1).toNat = (1 : Ctx).val ∧ (tCc.rd 2).toNat = (2 : Ctx).val ∧ (tCc.rd 3).toNat = (3 : Ctx).val ∧ (tCc.rd 5).toNat = (9 : Ctx).val ∧
      (tCc.rd 7) = 0 ∧ bitOf sCx.hub.fubase 0 = false) ∧
    (sCx.strand? 9 = none ∧ sCx.strand? 1 = some (tCx .runnable none) ∧ sCx.strand? 2 = some (tCx .stopped none) ∧
      sCx.strand? 3 = some (tCx .stopped (some frCx)) ∧ (tCx .stopped none).busy = false) ∧
    runs (readLayout (tCc.rd 6)) sCx = true ∧ runs (saveContext 2 (tCc.rd 8)) sCx = true := ⟨inProgram_of (by decide +kernel), by decide +kernel⟩

/-- The layout that CTXLOAD is given loads. -/
theorem witness_ContextOperations_load :
    (ranTo (readLayout (tCc.rd 6)) sCx).loadCode 9 (ran (0, 0) (readLayout (tCc.rd 6)) sCx).2 (ran (0, 0) (readLayout (tCc.rd 6)) sCx).1 = 0 := by
  decide +kernel

/-! Reading memory whose bytes the kernel does not evaluate: a fault frame's length is a free value. -/

theorem lostAt_mem (s : State) (m : Cells) (a n : Nat) : ({ s with mem := m } : State).lostAt a n = s.lostAt a n := rfl

theorem touch_off {s : State} {p : PageTr} {va n : Nat} {u : FrameUse} (h : bitOf s.hub.fubase 0 = false) :
    (touchFrame p va n u).run s = .ok () s := by
  unfold touchFrame
  rw [run_bind_ok (run_get s)]
  simp only [h, Bool.not_false, Bool.true_or, if_true]
  rfl

theorem lookup_bank {s : State} {p : PageTr} {cell n k : Nat} (hk : l1Core.run s = .ok (some k) s) (hp : p.inL1 = false) :
    (l1Lookup p cell n .bypass).run s = .ok none s := by
  unfold l1Lookup
  rw [run_bind_ok hk]
  simp only [hp, Bool.not_false, if_true]
  rfl

theorem missed_bank {s : State} {p : PageTr} {cell n k : Nat} (hk : l1Core.run s = .ok (some k) s)
    (ho : cellModule cell = s.moduleNum.val) : (readMissed p cell n .bypass).run s = .ok (s.mem.read cell n) s := by
  unfold readMissed
  rw [run_bind_ok hk]
  unfold pointRead
  rw [run_bind_ok (run_get s)]
  simp only [ho, if_true]
  rfl

theorem readLine_bank {s : State} {p : PageTr} {va n k : Nat} (hk : l1Core.run s = .ok (some k) s) (hc : cutsAt 64 va n = [(0, va, n)])
    (hm : ∀ a b, (mscTouch (p.cell va) n a b false false).run s = .ok () s) (hp : p.inL1 = false)
    (ho : cellModule (p.cell va) = s.moduleNum.val) : (readLine p va n .bypass false).run s = .ok (s.mem.read (p.cell va) n) s := by
  have h1 : (List.mapM (fun c => do return (c, ← l1Lookup p (p.cell c.2.1) c.2.2 .bypass)) [((0 : Nat), va, n)] : M _).run s =
      .ok [((0, va, n), none)] s := by
    simp only [List.mapM_cons, List.mapM_nil, bind_assoc, pure_bind]
    rw [run_bind_ok (lookup_bank hk hp)]
    rfl
  unfold readLine
  simp only [hc]
  rw [run_bind_ok h1]
  simp only [List.any_cons, Option.isNone_none, Bool.true_or, if_true, bind_assoc, pure_bind, List.foldlM_cons, List.foldlM_nil]
  rw [run_bind_ok (run_get s), run_bind_ok (hm _ _), run_bind_ok (missed_bank hk ho)]
  simp only [run_pure, Nat.pow_zero, Nat.mul_one, Nat.zero_add]

theorem run_foldlM_one {α β : Type} {f : β → α → M β} {b : β} {a : α} : (List.foldlM f b [a]) = f b a := by
  simp

set_option maxRecDepth 10000 in
theorem loads_frame (m : Cells) : (loadBytes 0x23000 32).run { sCx with mem := m } = .ok (m.read (bankPage.cell 0x23000) 32) { sCx with mem := m } := by
  have h1 : cutsAt 0x10000 (0x23000 : Word).toNat 32 = [(0, 0x23000, 32)] := by decide +kernel
  have h2 : (translateRange .load 0x23000 32).run { sCx with mem := m } = .ok [(bankPage, 0x23000, 32)] { sCx with mem := m } := rfl
  have h3 : bitOf sCx.hub.fubase 0 = false := by decide +kernel
  have h4 : (checkLost (bankPage.cell 0x23000) 32 .access).run { sCx with mem := m } = .ok () { sCx with mem := m } := by
    have a : ({ sCx with mem := m } : State).lostAt (bankPage.cell 0x23000) 32 = [] := by
      have b : sCx.lostAt (bankPage.cell 0x23000) 32 = [] := by decide +kernel
      exact (lostAt_mem sCx m _ _).trans b
    unfold checkLost
    rw [run_bind_ok (run_get _), a]
    rfl
  have h0 : ∀ a b, (mscTouch (bankPage.cell 0x23000) 32 a b false false).run { sCx with mem := m } = .ok () { sCx with mem := m } := by
    intro a b
    have c : cellModule (bankPage.cell 0x23000) = 0 := by decide +kernel
    have d : regionOf (cellAddr (bankPage.cell 0x23000)) = .bank 0 0x3000 := by decide +kernel
    unfold mscTouch
    rw [run_bind_ok (run_get _), c, d]
    rfl
  have h5 := readLine_bank (s := { sCx with mem := m }) (p := bankPage) (va := 0x23000) (n := 32) (k := 0) rfl (by decide +kernel) h0
    (by decide +kernel) (show cellModule (bankPage.cell 0x23000) = sCx.moduleNum.val by decide +kernel)
  have h6 : (readPage bankPage 0x23000 32 .bypass false .access).run { sCx with mem := m } = .ok (m.read (bankPage.cell 0x23000) 32) { sCx with mem := m } := by
    unfold readPage
    have a1 : leafDead bankPage.leaf = false := by decide +kernel
    have a2 : bankPage.converts = false := by decide +kernel
    have a3 : cutsAt 256 0x23000 32 = [(0, 0x23000, 32)] := by decide +kernel
    simp only [a1, a2, a3, run_foldlM_one, Bool.false_eq_true, if_false]
    have h4' : (List.forM [((0 : Nat), (0x23000 : Nat), (32 : Nat))] fun c => checkLost (bankPage.cell c.2.1) c.2.2 .access).run { sCx with mem := m } = .ok () { sCx with mem := m } := by
      change (checkLost (bankPage.cell 0x23000) 32 .access >>= fun _ => pure PUnit.unit).run _ = _
      rw [run_bind_ok h4]
      rfl
    rw [run_bind_ok h4', run_bind_ok h5]
    simp
  have h7 : ownSystem { sCx with mem := m } bankPage = false := by
    have a : bankPage.isSystem = false := by decide +kernel
    unfold ownSystem
    rw [a]
    rfl
  unfold loadBytes
  rw [h1, run_foldlM_one]
  dsimp only
  rw [show (BitVec.ofNat 64 0x23000 : Word) = 0x23000 from rfl, run_bind_ok h2]
  unfold readParts
  have h11 : (meetError .access).run { sCx with mem := m } = .ok () { sCx with mem := m } := rfl
  rw [bind_assoc, run_bind_ok h11, run_foldlM_one]
  have h8 : (readAny bankPage 0x23000 32 .bypass false .access).run { sCx with mem := m } = .ok (m.read (bankPage.cell 0x23000) 32) { sCx with mem := m } := by
    unfold readAny
    rw [run_bind_ok (run_get _), h7]
    simp only [Bool.false_eq_true, if_false]
    exact h6
  have h9 := touch_off (s := { sCx with mem := m }) (p := bankPage) (va := 0x23000) (n := 32) (u := .ordinary) h3
  have h10 : ((do
      touchFrame bankPage 0x23000 32 .ordinary
      return 0 + (← readAny bankPage 0x23000 32 .bypass false .access) * 256 ^ (0x23000 - (0x23000 : Word).toNat)) : M Nat).run { sCx with mem := m } =
      .ok (m.read (bankPage.cell 0x23000) 32) { sCx with mem := m } := by
    rw [run_bind_ok h9, run_bind_ok h8]
    simp
  exact (run_bind_ok h10).trans (by simp)

theorem frameCode_mem (s : State) (m : Cells) (c : Ctx) (h : Nat) : ({ s with mem := m } : State).frameCode c h = s.frameCode c h := rfl

theorem frameAt_mem (s : State) (m : Cells) (k : Option FrameKey) (c : Nat) : ({ s with mem := m } : State).frameAt k c = s.frameAt k c := rfl

theorem frames_mem (s : State) (m : Cells) : ({ s with mem := m } : State).frames = s.frames := rfl

set_option maxRecDepth 10000 in
theorem translates_frame (m : Cells) : (translate .load 0x23000).run { sCx with mem := m } = .ok bankPage { sCx with mem := m } := rfl

theorem header_words {g p : Nat} {a : Word} (hg : g = 8) (hp : p = 3) (ha : a.toNat = 0x23000) :
    frameHeader g p false a 3 % 256 ^ 32 = 0x380B04 + Config.frameLength.toNat * 2 ^ 64 + 0x23000 * 2 ^ 128 + 3 * 2 ^ 192 := by
  have hL : Config.frameLength.toNat < 2 ^ 21 := Config.frameLength.isLt
  unfold frameHeader
  rw [hg, hp, ha, if_neg Bool.false_ne_true]
  generalize Config.frameLength.toNat = L at hL ⊢
  omega

theorem frame_fields {L x : Nat} (h : L < 2 ^ 21) (hx : x = 0x380B04 + L * 2 ^ 64 + 0x23000 * 2 ^ 128 + 3 * 2 ^ 192) :
    le x 0 8 = 0x380B04 ∧ le x 8 8 = L ∧ le x 24 8 = 3 := by
  dsimp only [le]
  refine ⟨?_, ?_, ?_⟩ <;> omega

/-- A header read as whole fields is taken where its fields are right. -/
theorem frameCode_ok {s : State} {hdr : Nat} (h0 : le hdr 0 8 = 0x380B04) (h1 : le hdr 8 8 = Config.frameLength.toNat) (h3 : le hdr 24 8 = 3)
    (hs : (s.strand? 3).isSome = true) (hg : s.groupsOf 3 = 8) (hl : fieldOf (s.core (coreNum 3)).lgmap 41 40 = 3) : s.frameCode 3 hdr = 0 := by
  have a1 : fieldOf (BitVec.ofNat 64 0x380B04) 15 0 = 0x0B04 := by decide +kernel
  have a2 : fieldOf (BitVec.ofNat 64 0x380B04) 19 16 = 8 := by decide +kernel
  have a3 : fieldOf (BitVec.ofNat 64 0x380B04) 21 20 = 3 := by decide +kernel
  have a4 : bitOf (BitVec.ofNat 64 0x380B04) 24 = false := by decide +kernel
  have a5 : fieldOf (BitVec.ofNat 64 0x380B04) 23 22 = 0 := by decide +kernel
  have a6 : fieldOf (BitVec.ofNat 64 0x380B04) 63 25 = 0 := by decide +kernel
  have a7 : (3 : Ctx).val = 3 := rfl
  unfold State.frameCode le64
  simp [h0, h1, h3, hs, hg, hl, a1, a2, a3, a4, a5, a6, a7]

/-- A fault frame's header stands at 0x23000. -/
def sFr (h : Nat) : State := { sCx with mem := Cells.write [] (bankPage.cell 0x23000) 32 h }

set_option maxRecDepth 10000 in
theorem sFr_restores {h L : Nat} (hh : h % 256 ^ 32 = 0x380B04 + L * 2 ^ 64 + 0x23000 * 2 ^ 128 + 3 * 2 ^ 192) (hL : L < 2 ^ 21)
    (hf : L = Config.frameLength.toNat) :
    ∃ hdr s1 p s2, (loadBytes 0x23000 32).run (sFr h) = .ok hdr s1 ∧ (translate .load 0x23000).run s1 = .ok p s2 ∧ s2.frameCode 3 hdr = 0 ∧
      s2.frameAt (mapGet s2.frames (p.cell 0x23000)) (le hdr 24 8) = some (3, tCx .stopped (some frCx), frCx) := by
  obtain ⟨h0, h1, h3⟩ := frame_fields hL hh
  have hr := loads_frame (Cells.write [] (bankPage.cell 0x23000) 32 h)
  rw [Cells.read_write] at hr
  refine ⟨_, _, _, _, hr, translates_frame _, ?_, ?_⟩
  · rw [frameCode_mem]
    exact frameCode_ok h0 (h1.trans hf) h3 (by decide +kernel) (by decide +kernel) (by decide +kernel)
  · rw [frameAt_mem, frames_mem, h3]
    decide +kernel

theorem inProgram_mem {s : State} {c : Ctx} {t : Strand} (p : InProgram s c t) (m : Cells) : InProgram { s with mem := m } c t :=
  ⟨⟨p.turn, p.bound, p.direct, p.whole⟩, p.user⟩

theorem strand_mem {s : State} {m : Cells} (n : Nat) : ({ s with mem := m } : State).strand? n = s.strand? n := rfl

theorem fubase_mem {s : State} {m : Cells} : bitOf ({ s with mem := m } : State).hub.fubase 0 = bitOf s.hub.fubase 0 := rfl

/-- With the header that the machine writes. -/
theorem witness_ContextOperations_frame :
    tCc.hart.sysh = true ∧ (tCc.rd 3).toNat = (3 : Ctx).val ∧ (tCx .stopped (some frCx)).frame = some frCx ∧ tCc.rd 9 = 0x23000 ∧
    ∃ h, InProgram (sFr h) 0 tCc ∧ (sFr h).strand? 3 = some (tCx .stopped (some frCx)) ∧ bitOf (sFr h).hub.fubase 0 = false ∧
      ∃ hdr s1 p s2, (loadBytes 0x23000 32).run (sFr h) = .ok hdr s1 ∧ (translate .load 0x23000).run s1 = .ok p s2 ∧ s2.frameCode 3 hdr = 0 ∧
        s2.frameAt (mapGet s2.frames (p.cell 0x23000)) (le hdr 24 8) = some (3, tCx .stopped (some frCx), frCx) := by
  have a : sCx.strand? 3 = some (tCx .stopped (some frCx)) ∧ bitOf sCx.hub.fubase 0 = false := by decide +kernel
  have w := header_words (g := sCx.groupsOf 3) (p := fieldOf (sCx.core 0).lgmap 41 40) (a := 0x23000) (by decide +kernel) (by decide +kernel)
    (by decide +kernel)
  have r := sFr_restores w Config.frameLength.isLt rfl
  exact ⟨by decide +kernel, by decide +kernel, by decide +kernel, by decide +kernel, _, inProgram_mem (inProgram_of (by decide +kernel)) _,
    (strand_mem 3).trans a.1, fubase_mem.trans a.2, r⟩

/-- Core 1 has one live lane group left. -/
def sLg : State := sLn.setCore 1 { sLn.core 1 with lgmap := 0x30400000000 }

theorem witness_LaneRetire :
    InProgram sLn 0 tLn ∧ tLn.hart.sysh = true ∧ fieldOf (tLn.rd 8) 63 15 ≠ 0 ∧ (fieldOf (tLn.rd 0) 63 15 = 0 ∧ 8 ≤ (tLn.rd 15).toNat) ∧
    (fieldOf (tLn.rd 15) 63 15 = 0 ∧ (tLn.rd 15).toNat / 8 = 1 ∧ (tLn.rd 9).toNat = 1 ∧ (tLn.rd 3).toNat = 2) ∧
    (bitOf (sLn.core 1).lgmap 34 = true ∧ (liveGroups (sLn.core 1).lgmap).length ≠ 1 ∧
      sLn.splitBy 1 (setBit (sLn.core 1).lgmap 34 false) = []) ∧
    InProgram sLg 0 tLn ∧ bitOf (sLg.core 1).lgmap 33 = false ∧ bitOf (sLg.core 1).lgmap 34 = true ∧ (liveGroups (sLg.core 1).lgmap).length = 1 :=
  ⟨sLn_program, by decide +kernel, by decide +kernel, by decide +kernel, by decide +kernel, by decide +kernel, inProgram_of (by decide +kernel),
    by decide +kernel⟩

/-- Without the system bit; in an upcall handler; a control complex core at user privilege and at supervisor privilege. -/
def tUs : Strand := { tLn with hart := { tLn.hart with status := 0 } }
def tUh : Strand := { tLn with hart := { tLn.hart with status := 0x600000 } }

theorem witness_Privilege :
    (Ready (stateWith tUs) 0 tUs ∧ (klass .idle).system = true ∧ tUs.hart.sysh = false) ∧
    (Ready (stateWith tUh) 0 tUh ∧ (klass (.vadd 1 2 3 0 false)).side ≠ .event ∧ (klass (.vadd 1 2 3 0 false)).handler = false ∧
      tUh.hart.upc = true ∧ (Instr.vadd 1 2 3 0 false).wf = true ∧ (klass (.vadd 1 2 3 0 false)).system = false) ∧
    ((sTr { kTr with ccstat := 0 }).turn = .cc 3 ∧ bitOf ((sTr { kTr with ccstat := 0 }).cc 3).ccstat 0 = false) ∧
    (klass (.vadd 1 2 3 0 false)).cc = false :=
  ⟨⟨ready_of (by decide +kernel), by decide +kernel⟩, ⟨ready_of (by decide +kernel), by decide +kernel⟩, by decide +kernel⟩

/-! The hub, power, resets, wakes, interrupts and the other events. -/

/-- The state a step leaves, where it leaves one. -/
def after (i : Instr) (s : State) : State := match exec i s with | .next u => u | _ => s

/-- Registers of the hub before their writes. -/
def sHu : State := { stateWith tLn with time := 77 }
def withHub (f : Hub → Hub) : State := { sHu with hub := f sHu.hub }
def put (w0 : Word) : Vector Word 4 := #v[w0, 5, 6, 7]

theorem witness_HubRegisterWrites :
    ((withHub fun h => { h with tuffctl := 1 }).hub.frz = true ∧ sHu.hub.frz = false) ∧
    (0x10 ≤ fieldOf (withHub fun h => { h with tuffput := put 0x1010 }).hub.tuffput[(0 : Fin 4)] 7 0 ∧
      fieldOf (withHub fun h => { h with tuffput := put 0x1F }).hub.tuffput[(0 : Fin 4)] 7 0 ≤ 0x1F) ∧
    ((withHub fun h => { h with mext := [1, 2, 3, 4, 5, 6, 7] }).hub.mext.length = 7 ∧ sHu.hub.mext.length < 7) ∧
    bitOf sHu.hub.timectl 8 = false ∧ ((3 : Fin 4).val = 3 ∧ (1 : Fin 4).val ≠ 3) ∧ (4 < (5 : Fin 8).val ∧ (4 : Fin 8).val ≤ 4) ∧
    (withHub fun h => { h with launches := [launchLn] }).noneResident = false := by decide +kernel

/-- A control complex core whose translation cache holds the data page. -/
def pAt : PageTr := { dataPage with job := 0 }
def sAt : State := { sHu with turn := .cc 3, ccs := [(3, { ccOf 1 0 with tlb := [pAt] })] }
def sAt' : State := { sAt with hub := { sAt.hub with attest := 0x10040 } }

theorem witness_Attestation :
    sAt.turn = .cc 3 ∧ (0x10010 : Word).toNat % 64 ≠ 0 ∧ (0x10040 : Word).toNat % 64 = 0 ∧
    Resident sAt' .rw 0x10040 704 1 [(pAt, 0x10040, 704)] ∧ (translate .rw (0x10040 + 703)).run sAt' = .ok pAt sAt' := by
  have h : (translateRange .rw 0x10040 704).run sAt' = .ok [(pAt, 0x10040, 704)] sAt' := ok_same (by decide +kernel)
  have hp : pAt.plain := ⟨by decide +kernel, by decide +kernel, by decide +kernel, by decide +kernel, by decide +kernel⟩
  have hb : ¬(pAt.isBank = true) := by decide +kernel
  refine ⟨by decide +kernel, by decide +kernel, by decide +kernel, ?_, ok_same (by decide +kernel)⟩
  exact
    { translated := ⟨sAt', h⟩, cached := h, kept := by decide +kernel, untracked := by decide +kernel
      plain := by intro p hp'; simp only [List.mem_singleton] at hp'; subst hp'; exact hp
      own := by intro p hp'; simp only [List.mem_singleton] at hp'; subst hp'; decide +kernel
      bank := by rintro ⟨p, hp', hb'⟩; simp only [List.mem_singleton] at hp'; subst hp'; exact absurd hb' hb }

theorem witness_TimeAndPower :
    (sHu.hub.gmSince = none ∧ (withHub fun h => { h with gmSince := some 5 }).hub.gmSince = some 5 ∧
      (5 : Word).toNat + 1000000000 ≤ ({ withHub (fun h => { h with gmSince := some 5 }) with time := 2000000000 } : State).time.toNat) ∧
    (bitOf (withHub fun h => { h with timectl := 0x100 }).hub.timectl 8 = true ∧ bitOf sHu.hub.timectl 8 = false ∧
      (sHu.hub.diesReleased = true ∨ bitOf sHu.hub.timestat 0 = true)) ∧
    (let s := withHub fun h => { h with timeKnown := true, timestat := 0x3000000001 }
     s.hub.timeKnown = true ∧ bitOf s.hub.timectl 8 = false ∧ bitOf s.hub.timestat 0 ≠ s.hub.near) ∧
    (let s := withHub fun h => { h with timeKnown := true, timestat := 1 }
     s.hub.timeKnown = true ∧ s.hub.near = true) ∧
    (let s := withHub fun h => { h with pwrctl := 0x302 }
     bitOf s.hub.pwrctl 9 = true ∧ bitOf s.hub.pwrctl 8 = true) ∧ bitOf sHu.hub.pwrctl 8 = false ∧
    (let s := withHub fun h => { h with mgmtUp := true }
     s.boot = .running ∧ s.hub.mgmtUp = true) ∧
    (let e : TuffEntry := { seq := 0, time := 0, type := 0, sev := 0, struct := 0, count := 0, place := 0, payload := 0 }
     let s := withHub fun h => { h with mgmtUp := true, tuff := [(0, e)], tuffSeq := 1 }
     bitOf (withHub fun h => { h with tuffctl := 0 }).hub.tuffctl 1 = false ∧ bitOf s.hub.tuffctl 1 = true ∧ s.hub.mgmtUp = true ∧
      s.hub.tuffLost = 0 ∧ s.hub.unsent ≠ []) := by decide +kernel

theorem witness_InboundDma :
    bitOf sHu.hub.fubase 0 = false ∧ (sHu.dmaOk 0xC40000 5 = true ∧ ∀ i < 5, sHu.hasMemory (0xC40000 + i) = true ∧ sHu.lostAt (sHu.cellHere (0xC40000 + i)) 1 = []) ∧
    sHu.dmaOk 0xFFFFFFFFFFFFF0 5 = false := by decide +kernel

/-- A module that waits for its image; one whose strands have stopped for a warm reset.  Whether an image is signed by the root key, a free
value, is not decided here. -/
theorem witness_Resets :
    (bitOf sHu.hub.rstctl 1 = false ∧ (withHub fun h => { h with rstctl := 2, tuffctl := 1 }).hub.frz = true) ∧
    (let s : State := { withHub fun h => { h with rstctl := 2 } with strands := [(0, { tLn with cond := .stopped })] }
     bitOf s.hub.rstctl 1 = true ∧ s.hub.frz = false ∧ ∀ e ∈ s.strands, e.1 < 32768 ∧ e.2.cond = .stopped ∧ e.2.busy = false) ∧
    (sHu.boot ≠ .waitImage ∧ ({ sHu with boot := .waitImage } : State).boot = .waitImage ∧
      imageOk (Config.fusedMinimum 0) (([1, 2, 3] : List Byte).take 4096) (([1, 2, 3] : List Byte).drop 4096) = false) := by decide +kernel

/-- Strands that sleep, on each of the waits; the clock, a barrier episode and a semaphore that let them go on. -/
def tWu (r : Sleep) : Strand := { tLn with cond := .asleep r }
def sWu (t : Strand) : State :=
  let s := stateWith t
  { s with
    time := 77, mem := laid dataPage 0x10000 [(8, 0x55)] [], turn := .cc 0
    quads := [(0, { s.quad 0 with waiting := [(3, 2), (0, 4)] })]
    hub := { s.hub with episodes := [{ scope := 1, inst := 0, bar := 3, job := 1, count := 1, arrived := [0] }] } }
def tWq : Strand := { tWu (.queueEmpty 6) with qr := #v[[.value 3], []] }
def tWd : Strand :=
  { tWu (.queueEmpty 6) with iq := [{ pc := 0x10, instr := .vadd 1 2 3 1 false, cap := tLn.capture, op := none, rpl := false, before := none }] }
def tWc : Strand := { tWu (.cplw 2 4) with cpl := Vector.replicate 6 (5, 4) }
def tWi : Strand := { tWu .idle with pending := [(1, 2, 3)] }

theorem witness_WakeUps :
    ((sWu tWq).strand? 0 = some tWq ∧ tWq.fromQueue = none ∧ tWq.cond = .asleep (.queueEmpty 6) ∧ (sWu tWq).sleepOver tWq (.queueEmpty 6) = true ∧
      (sWu (tWu (.queueEmpty 7))).sleepOver (tWu (.queueEmpty 7)) (.queueEmpty 7) = false) ∧
    (tWd.accessWait = some 6 ∧ tWd.executeWait = some 4 ∧ ∃ f ∈ tWd.iq.head?, f.before = none) ∧
    (let s := sWu (tWu (.ctas 4))
     (s.quad 0).sem.getLsbD 4 = false ∧ ((s.quad 0).waiting.find? fun w => w.2 == 4) = some (0, 4)) ∧
    ((tWu (.waitt 5 70)).cond = .asleep (.waitt 5 70) ∧ (70 : Word).toNat ≤ (sWu (tWu (.waitt 5 70))).time.toNat) ∧
    (tWc.cond = .asleep (.cplw 2 4) ∧ tWc.waitOver 2 4 = true ∧ tWc.ede = []) ∧ (tWi.cond = .asleep .idle ∧ tWi.pending ≠ []) ∧
    (let s := sWu (tWu (.bar 1 0 3))
     let e : Episode := { scope := 1, inst := 0, bar := 3, job := 1, count := 1, arrived := [0] }
     (s.hub.episodes.find? fun e => e.isAt (Fin.ofNat 8 1) 0 3 1) = some e ∧ e.count ≤ e.arrived.length ∧ (0 : Ctx) ∈ e.arrived) := by
  decide +kernel

theorem witness_WakeUps_sigwait :
    (tWu (.sigwait 5 0x10000 0x50 2)).cond = .asleep (.sigwait 5 0x10000 0x50 2) ∧ (0x10000 : Word).toNat % 8 = 0 ∧
    Resident { sWu (tWu (.sigwait 5 0x10000 0x50 2)) with turn := .strand 0 } .load 0x10000 8 8 [(dataPage, (0x10000 : Word).toNat, 8)] ∧
    leafMod dataPage.leaf = (sWu (tWu (.sigwait 5 0x10000 0x50 2))).moduleNum.val ∧
    (BitVec.ofNat 64 ((sWu (tWu (.sigwait 5 0x10000 0x50 2))).mem.read (dataPage.cell 0x10000) 8) - (0x50 : Word)).toNat < 2 ^ 63 :=
  ⟨by decide +kernel, by decide +kernel, resides_of (by decide +kernel), by decide +kernel, by decide +kernel⟩

/-- Two interrupts wait at core 3, which enables them; a notice of die 4 waits for a ring that is open. -/
def kIn : CcCore := { ccOf 5 0 with irqs := [(2, 9), (1, 1)] }
def noticeIn : Notice := { w0 := 0x1122334455667788, cause := 9, tpc := 0xABCDEF, tval := 0xFFFFFFFFFFFFFFFF }
def sNt : State :=
  let s := sHu.setDie 4 { sHu.die 4 with notices := [noticeIn] }
  { s with hub := { s.hub with nqctl := 0x500301, nqptr := 0x40000003FF } }

theorem witness_InterruptsAndNotices :
    (let s : State := { sHu with ccs := [(3, kIn)] }
     (s.cc 3).irqs = (2, 9) :: [(1, 1)] ∧ (s.cc 3).held = false ∧ bitOf (s.cc 3).ccstat 2 = true) ∧
    ((sNt.die 4).notices = noticeIn :: [] ∧ sNt.hub.ringOpen = true ∧ bitOf sNt.hub.fubase 0 = false) := by decide +kernel

/-- A stack with demotions, a scrub, activations and a carve-out that waits to change; the page tables of sDi, no translation of it cached. -/
def stMs : Stack :=
  { sHu.stack 5 with
    demotes := [9, 3], scrubs := [4], acts := [(1, 2)], captured := [3], scfg := 0x803
    msc := [(mscSet 0x77, [{ line := 0x78, way := 0, dirty := false, under := 0, prio := .pinned, chain := 4, gen := 2 }])] }
def sMs : State := { sHu.setStack 5 stMs with hub := { sHu.hub with launches := [] } }
def sPw : State := { sDi with cores := [(0, { core0 with tlb := [codePage] })] }

theorem witness_MemorySideEvents :
    (sPw.strand? 0 = some tDi ∧ fieldOf (0x10000 : Word) 63 56 = 0 ∧
      (∀ p ∈ sPw.tlb (.strand 0), p.maps (jobOf tDi.hart.ptbase) (0x10000 : Word).toNat = false) ∧
      let s' := sPw.touchWalk tDi.hart.ptbase (0x10000 : Word).toNat
      s'.walkLost tDi.hart.ptbase (0x10000 : Word).toNat = none ∧
        s'.walkPage tDi.hart.ptbase (0x10000 : Word).toNat = .leaf leafDi 0x10000 (cellOf 0 0x202008)) ∧
    (0x77 < 0x18000000 ∧ ∀ l ∈ (sMs.stack 5).setLines (mscSet 0x77), l.line ≠ 0x77) ∧ ((sMs.stack 5).demotes = 9 :: [3] ∧ (9 : BitVec 8) ∉ (sMs.stack 5).scrubs) ∧
    ((4 : BitVec 8) ∈ (sMs.stack 5).scrubs ∧ (4 : BitVec 8) ≠ 0) ∧ (bitOf (sMs.stack 5).scfg 11 = true ∧ sMs.noneResident = true) ∧
    bitOf (sHu.stack 5).scfg 11 = false := by decide +kernel

/-- Launch 5 of two strands on quad 1 of die 3; a strand of launch 7, of another job, on that quad, its time used up. -/
def launchDe : Launch := { launchOf 0 0 with number := 5, strands := 2, place0 := 3, place1 := 2, prio := 4 }
def handleDe : Handle := { num := 0, code := 0x5000, size := 64, entries := [16], resumes := [], system := true }
def sDe (l : Launch) : State := { sHu with hub := { sHu.hub with launches := [l], handles := [handleDe] } }
def sDr : State := after (.launchEnterDispatch 0 5) (sDe launchDe)
def shareDe : Share := { issuer := 0, number := 5, prio := 4, age := 0, ranks := [(0, false), (1, false)], placed := none }
def tVi : Strand := { tLn with launchNum := 7, placedAt := 5 }
def shareVi : Share := { issuer := 0, number := 7, prio := 1, age := 0, ranks := [], placed := some 0 }
def sVi (victim : Bool) : State :=
  let s := sDr.setDie 3 { sDr.die 3 with shares := if victim then [shareVi, shareDe] else [shareDe] }
  { s with time := 1000000, strands := [(0, { tLn with placedAt := 5 }), (6176, tVi)], quads := [(193, { s.quad 193 with job := some 1 })] }
def candsVi (victim : Bool) : List Share := ((sVi victim).die 3).shares.filter ((sVi victim).candidate 3 4)

theorem witness_DispatchEvents :
    ((sDe launchDe).launch? 0 5 = some launchDe ∧ launchDe.dispatched = false ∧ launchDe.aborted = false ∧ launchDe.preds = [] ∧
      launchDe.predFailed = false) ∧
    ((sDr.die 4).head = none ∧ (sDr.die 3).head = some shareDe ∧ (sDr.placeShare 3 shareDe).isSome = true) ∧
    (((sVi true).die 3).head = some shareDe ∧ (sVi true).placeShare 3 shareDe = none ∧ (∀ e ∈ (sVi true).strands, e.2.stop ≠ some .dispatch) ∧
      (sVi true).victims 3 shareDe (candsVi true).length (candsVi true) [] = some [6176]) ∧
    (((sVi false).die 3).head = some shareDe ∧ (sVi false).placeShare 3 shareDe = none ∧
      (sVi false).victims 3 shareDe (candsVi false).length (candsVi false) [] = none) ∧
    ((sDe launchDe).time.toNat < tVi.placedAt.toNat + Config.quantumNs ∧ tVi.placedAt.toNat + Config.quantumNs ≤ (sVi true).time.toNat ∧
      dieNum (6176 : Ctx) = (3 : Die).val ∧ (sVi true).strand? 6176 = some tVi) ∧
    (sDe launchDe).outcomeNow launchDe = none ∧
    (let l := { launchDe with exited := 2, dispatched := true, here := true, othersLeft := 0 }
     let far := { l with othersLeft := 1 }
     (sDe l).launch? 0 5 = some l ∧ (sDe l).outcomeNow l = some 1 ∧ (0 : ModNum) = (sDe l).moduleNum ∧ (sDe far).launch? 0 5 = some far ∧
      (sDe far).outcomeNow far = some 1 ∧ far.othersLeft ≠ 0) ∧
    (launchDe.here = true ∧ (0 : ModNum) = (sDe launchDe).moduleNum ∧ launchDe.dispatched = false) := by decide +kernel

/-! Packets, read duplicates, errors, traps and translation. -/

theorem witness_MemoryPackets :
    (Config.recvBytes < (withHub fun h => { h with recvUsed := 2 ^ 40 }).hub.recvUsed + 2 ∧ sHu.hub.recvUsed + 8 ≤ Config.recvBytes) ∧
    (∀ i < 8, sHu.hasMemory (0xC40000 + i) = true ∧ sHu.lostAt (sHu.cellHere (0xC40000 + i)) 1 = []) ∧
    sHu.lostAt (sHu.cellHere 0xC40000) 8 = [] ∧ (3 : ModNum) ≠ sHu.moduleNum ∧ bitOf sHu.hub.fubase 0 = false := by decide +kernel

/-- Two reads of module 3 under way: of a word elsewhere, and of the one at 0xC40000, for the strand that sleeps on it. -/
def atFb : Nat := cellOf 3 0xC40000
def otherFb : FabricRead := { who := .strand 4, cell := atFb + 64, len := 8, data := List.replicate 8 none }
def readFb : FabricRead := { who := .strand 0, cell := atFb, len := 8, data := List.replicate 8 none }
def bytesFb : List Byte := [1, 2, 3, 4, 5, 6, 7, 8]
def sFb' : State :=
  { withHub fun h => { h with fabric := [otherFb, readFb] } with strands := [(0, { tLn with cond := .asleep (.fabric (.strand 0) atFb 8) })] }

theorem witness_MemoryPackets_read :
    (∀ r ∈ sFb'.hub.fabric, r.answeredBy (cellOf (3 : ModNum).val (0xD00000 % 2 ^ 48)) bytesFb.length = false) ∧
    sFb'.hub.fabric = [otherFb] ++ readFb :: [] ∧ (∀ x ∈ [otherFb], x.answeredBy atFb bytesFb.length = false) ∧
    readFb.answeredBy atFb bytesFb.length = true ∧ (readFb.filled atFb bytesFb).value.isSome = true ∧
    sFb'.sleepOf readFb.who = some (.fabric readFb.who readFb.cell readFb.len) := by decide +kernel

/-- A strand with a deposit at a Caldera of module 1 outstanding, and answers of its bank owed to g9 and g8. -/
def tOp : Strand := { tLn.issue 5 (.deposit (cellOf 1 0x018000000000) 1 2 [] 1) with qr := #v[[], [.awaits 5 1]], awaitsBank := [9, 8] }
def opOp : PathOp := { path := 5, n := 1, work := .deposit (cellOf 1 0x018000000000) 1 2 [] 1, complete := false, err := none }
def sOp : State := { sHu with strands := [(0, tOp)] }

theorem witness_OperationPackets :
    (sOp.strand? 0 = some tOp ∧ tOp.opAt 5 1 = some opOp ∧ opOp.complete = false ∧ cellModule (cellOf 1 0x018000000000) ≠ sOp.moduleNum.val) ∧
    ((sRo 0).strand? 0 = some tRo ∧ tRo.opAt 3 1 = some opRo ∧ opRo.complete = false ∧ opRo.work = .remoteStore false writesRo 1 false) ∧
    ((sOp.die (dieOfCell (sOp.cellHere 0x018000000200))).intake.length < 256 ∧ sOp.hub.recvUsed + rowBytes 2 ≤ Config.recvBytes) ∧
    ((regionOf (cellAddr (sOp.cellHere 0x018000000200))).isBank = true ∧
      (ran none (bankRequest 0 (sOp.cellHere 0x018000000200) 5) sOp).isSome = true ∧
      runs (bankRequest 0 (sOp.cellHere 0x018000000200) 5) sOp = true) ∧
    ((ran (some 0) (bankRequest 2 (sOp.cellHere 0x018000000200) 5) sOp).isNone = true ∧
      runs (bankRequest 2 (sOp.cellHere 0x018000000200) 5) sOp = true) ∧
    tOp.opAt 5 0 = none ∧ tOp.awaitsBank = 9 :: [8] := by decide +kernel

/-- A read-duplicate page held by modules 0, 3 and 7, its leaf of this module at 0x202008; and a leaf of 2 MiB. -/
def rdPage (st : RdState) (acks q : List ModNum) : RdPage :=
  { size := 65536, sfmt := 0, job := 1
    holders := [(0, 0x123450000, cellOf 0 0x202008), (3, 0x55550000, cellOf 3 0x300000), (7, 0x5550000, cellOf 7 0x300000)]
    state := st, acks := acks, queue := q, released := [], written := 0, late := [] }
def tablesRd (leaf : Nat) : State := (((sHu.poke 0x100000 8 0x200001).poke 0x200000 8 0x201001).poke 0x201000 8 0x202001).poke 0x202008 8 leaf
def sRd (r : RdPage) : State := let s := tablesRd (0x31 * 2 ^ 26 + 0x87); { s with hub := { s.hub with rd := [(9, r)] } }
def sRdOff (r : RdPage) : State := let s := tablesRd (0x31 * 2 ^ 26 + 0x86); { s with hub := { s.hub with rd := [(9, r)] } }
def sRdBig : State := ((sHu.poke 0x100000 8 0x200001).poke 0x200000 8 0x201001).poke 0x201000 8 (0x40 * 2 ^ 26 + 0x87)
def ptRd : Word := 0x0001000000100000

theorem witness_ReadDuplicates :
    (let r := rdPage .shared [] []
     (sRd r).hub.rdAt 9 = some (9, r) ∧ r.state = .shared ∧ ((r.holders.map (·.1)).filter fun y => y != 3) ≠ []) ∧
    (let r := rdPage (.collapsing 0) [3] [5]
     (sRd r).hub.rdAt 9 = some (9, r) ∧ r.state = .collapsing 0 ∧ r.acks = [3] ∧ r.of 0 = some (0x123450000, cellOf 0 0x202008) ∧
      cellModule (cellOf 0 0x202008) = (sRd r).moduleNum.val) ∧
    (let r := rdPage (.owned 3) [] [0, 7]
     (sRd r).hub.rdAt 9 = some (9, r) ∧ r.state = .owned 3 ∧ r.queue = 0 :: [7] ∧ (0 : ModNum) ≠ 3 ∧
      (sRdOff r).hub.rdAt 9 = some (9, r) ∧ r.of 0 = some (0x123450000, cellOf 0 0x202008) ∧
      cellModule (cellOf 0 0x202008) = (sRdOff r).moduleNum.val ∧ r.of 3 = some (0x55550000, cellOf 3 0x300000) ∧
      leafV (BitVec.ofNat 64 ((sRdOff r).mem.read (cellOf 0 0x202008) 8)) = false) ∧
    (let s := sRd (rdPage .shared [] [])
     (∀ e ∈ s.strands, e.2.ops = [] ∧ e.2.awaitsBank = [] ∧ e.2.stores = []) ∧
      s.walkPage ptRd (0x10000 : Word).toNat = .leaf (BitVec.ofNat 64 (0x31 * 2 ^ 26 + 0x87)) 0x10000 (cellOf 0 0x202008) ∧
      cellModule (cellOf 0 0x202008) = s.moduleNum.val) ∧
    ((∀ e ∈ sRdBig.strands, e.2.ops = [] ∧ e.2.awaitsBank = [] ∧ e.2.stores = []) ∧
      sRdBig.walkPage ptRd (0x10000 : Word).toNat = .leaf (BitVec.ofNat 64 (0x40 * 2 ^ 26 + 0x87)) 0x200000 (cellOf 0 0x201000) ∧
      cellModule (cellOf 0 0x201000) = sRdBig.moduleNum.val ∧ tableOk 0x500000 256 = true) := by decide +kernel

/-- An uncorrectable error of DRAM that waits for its retry; a link port with lanes lost. -/
def errorEe : ErrorEvent := { struct := 8, place := 5, addr := 0xC40000, ctx := none, elem := 0, seq := none }
def sEe : State := withHub fun h => { h with errors := [errorEe], tuff := [], tuffctl := 0, links := [(3, 300)] }

theorem witness_ErrorEvents :
    ((8 : BitVec 8) ≠ 0 ∧ (8 : BitVec 8).toNat ≤ 0x0F ∧ 0x0F < (0x12 : BitVec 8).toNat) ∧
    (sEe.hub.errors = errorEe :: [] ∧ errorEe.seq = none ∧ sEe.hub.frz = false ∧ sEe.hub.tuff = []) ∧
    (errorEe.struct = 8 ∧ errorEe.ctx = none ∧
      (∃ k < 16, (match regionOf (cellAddr (sEe.cellHere errorEe.addr / 256 * 256)) with | .dram j _ => decide (j = k) | _ => false) = true ∧
        (sEe.stack k).lost = [])) ∧
    (mapGetD sEe.hub.links (7 : BitVec 8).toNat 0 < 256 ∧ (7 : BitVec 8).toNat < 24 ∧ ∀ y ∈ sEe.strands, y.1 < 32768) ∧
    (mapGetD sEe.hub.links (27 : BitVec 8).toNat 0 < 256 ∧ 24 ≤ (27 : BitVec 8).toNat) := by decide +kernel

/-- Pages that take each trap: a dead one, a system page for a user strand, one that is not writable, a read-duplicate one, one that may. -/
def pageTc (low : Nat) : PageTr := page 0x50000 0x31 low
def sTc (p : PageTr) (t : Strand) : State := { stateWith t with cores := [(0, { core0 with tlb := [codePage, p] })] }

/-- What a page's translation depends on, beside its leaf: that it is found. -/
def foundTc (p : PageTr) (t : Strand) : Prop :=
  (sTc p t).strand? 0 = some t ∧
  ((sTc p t).tlb (.strand 0)).find? (fun p => p.maps (jobOf t.hart.ptbase) (0x50000 : Word).toNat) = some p

def leafWith (s : State) (p : PageTr) : Bool :=
  pageUnmapped (leafBase p.leaf) (leafStored p.leaf p.size) (fun k => (s.stack k).act) (leafMod p.leaf == s.moduleNum.val)

theorem witness_TranslationChecks :
    2 ^ 56 ≤ (2 ^ 56 : Word).toNat ∧ (0x50000 : Word).toNat < 2 ^ 56 ∧
    (foundTc (pageTc 0x207) tLn ∧ leafDead (pageTc 0x207).leaf = true) ∧
    (foundTc (pageTc 7) tLn ∧ leafDead (pageTc 7).leaf = false ∧ leafWith (sTc (pageTc 7) tLn) (pageTc 7) = false ∧
      leafSYS (pageTc 7).leaf = false ∧ leafRD (pageTc 7).leaf = false ∧ leafR (pageTc 7).leaf = true ∧ leafW (pageTc 7).leaf = true ∧
      leafX (pageTc 7).leaf = false) ∧
    (foundTc (pageTc 0x17) tUs ∧ leafDead (pageTc 0x17).leaf = false ∧ leafSYS (pageTc 0x17).leaf = true ∧ tUs.hart.sysh = false) ∧
    (foundTc (pageTc 0x87) tLn ∧ leafDead (pageTc 0x87).leaf = false ∧ leafRD (pageTc 0x87).leaf = true ∧ leafW (pageTc 0x87).leaf = true ∧
      leafSYS (pageTc 0x87).leaf = false ∧ leafWith (sTc (pageTc 0x87) tLn) (pageTc 0x87) = false) ∧
    ((∀ p ∈ (sTc (pageTc 7) tLn).tlb (.strand 0), p.maps (jobOf tLn.hart.ptbase) (0x60000 : Word).toNat = false) ∧
      let s' := (sTc (pageTc 7) tLn).touchWalk tLn.hart.ptbase (0x60000 : Word).toNat
      s'.walkLost tLn.hart.ptbase (0x60000 : Word).toNat = none ∧ s'.walkPage tLn.hart.ptbase (0x60000 : Word).toNat = .invalid) ∧
    (let s' := ((stateWith tLn).poke 0x100000 8 0x3).touchWalk tLn.hart.ptbase (0x60000 : Word).toNat
     s'.walkLost tLn.hart.ptbase (0x60000 : Word).toNat = none ∧ s'.walkPage tLn.hart.ptbase (0x60000 : Word).toNat = .malformed) := by
  unfold foundTc
  decide +kernel

/-- A precise trap inside a replay region; a held trap of a vector load behind another instruction; a trap of a control complex core. -/
def tPt : Strand := { tLn with ract := true, rbeg := 0x100, rend := 0x110, vresv := [(1, 2)], blkpt := some [1] }
def reqPt : TrapReq := { cause := 0x33, tval := 0xABC, acc := 2 }
def tHd : Strand := { tLn with iq := [{ pc := 0x10, instr := .vadd 1 2 3 0 false, cap := tLn.capture, op := none, rpl := false, before := none }] }
def reqHd : TrapReq := { cause := 0x05, tval := 0xABC, page := true, cm := 5 }

theorem witness_PreciseTrap :
    (stateWith tPt).strand? 0 = some tPt ∧ tPt.fromQueue = none ∧ tPt.saved = none ∧ tPt.stores = [] ∧ isHeld (.add 1 2 3) reqPt = false ∧ reqPt.cause < 256 ∧
    reqPt.acc < 4 ∧ reqPt.lost = false ∧ reqPt.blk = none := by decide +kernel

theorem witness_HeldTrap :
    (stateWith tHd).strand? 0 = some tHd ∧ tHd.fromQueue = none ∧ tHd.saved = none ∧ tHd.stores = [] ∧ isHeld (.vld 1 2 0 false) reqHd = true ∧
    tHd.forwardWait (.vld 1 2 0 false) = none ∧ reqHd.cause < 256 ∧ reqHd.acc < 4 ∧ reqHd.tpc = none := by decide +kernel

theorem witness_ControlComplexTrap :
    sC.turn = .cc 3 ∧ reqPt.cause < 256 ∧ reqPt.acc < 4 ∧ reqPt.blk = none ∧ reqPt.lost = false := by decide +kernel

/-- VADD forwarded behind the access side, its registers captured. -/
def fFi : Forwarded := { pc := 0x10, instr := .vadd 1 2 3 0 false, cap := tV.capture, op := none, rpl := false, before := none }
def tFq : Strand := { tV with iq := [fFi] }
def sFq : State := { stateWith tFq with agenda := [.execute 0 false], turn := .cc 0 }
def tFq1 : Strand := { tFq.withCaptured fFi.cap with fromQueue := some fFi, saved := some tFq.capture, cond := .runnable, iq := [], delay := false }
def sFq1 : State := { sFq with agenda := [], turn := .strand 0, strands := (sFq.setStrand 0 tFq1).strands }

theorem witness_ForwardedInstruction :
    promptly tFq = true ∧ (sFq.agenda = .execute 0 false :: [] ∧ sFq.powered = true ∧ sFq.strand? 0 = some tFq ∧ tFq.iq = fFi :: []) ∧
    goes (exec fFi.instr sFq1) (fun u => (u.strand? 0).any fun v => decide (v.cond = .runnable) && decide (v.saved = some tFq.capture)) = true := by
  decide +kernel

theorem witness_StrandStart : (sDe launchDe).handle? launchDe.handle = some handleDe := by decide +kernel
end Sys2Proof.Tests

end
end

section
/-! Settles the statement about the events of the memory side (02 R29, R41; 03 R58-R67, R74). First what fields of a word hold after a
field is written, then what each operation on a memory-side cache leaves unchanged, then the events one by one. -/

namespace Sys2Proof.Machine

/-! Fields of a word. -/

theorem bitOf_setField (w : Word) {hi lo i : Nat} (v : Nat) (hhi : hi < 64) :
    bitOf (setField w hi lo v) i = if lo ≤ i ∧ i ≤ hi then v.testBit (i - lo) else bitOf w i := by
  simp only [bitOf, setField, BitVec.getLsbD_or, BitVec.getLsbD_and, BitVec.getLsbD_not, BitVec.getLsbD_shiftLeft,
    BitVec.getLsbD_ofNat, Nat.testBit_two_pow_sub_one, Nat.testBit_mod_two_pow]
  split
  · next h =>
    have h1 : i < 64 := by omega
    have h2 : ¬ i < lo := by omega
    have h3 : i - lo < hi + 1 - lo := by omega
    have h4 : i - lo < 64 := by omega
    simp [h1, h2, h3, h4]
  · next h =>
    by_cases h1 : i < lo
    · simpa [h1] using BitVec.lt_of_getLsbD
    · have h2 : ¬ i - lo < hi + 1 - lo := by omega
      simpa [h2] using BitVec.lt_of_getLsbD

theorem testBit_fieldOf (w : Word) (hi lo j : Nat) :
    (fieldOf w hi lo).testBit j = (decide (j < hi + 1 - lo) && bitOf w (lo + j)) := by
  simp [fieldOf, bitsOf, bitOf, Nat.testBit_mod_two_pow, Nat.testBit_div_two_pow, BitVec.getLsbD, Nat.add_comm]

theorem fieldOf_setField_same (w : Word) {hi lo : Nat} (v : Nat) (hhi : hi < 64) :
    fieldOf (setField w hi lo v) hi lo = v % 2 ^ (hi + 1 - lo) := by
  refine Nat.eq_of_testBit_eq fun j => ?_
  rw [testBit_fieldOf, Nat.testBit_mod_two_pow, bitOf_setField w v hhi]
  by_cases hj : j < hi + 1 - lo
  · have : lo + j ≤ hi := by omega
    simp [this]
  · simp [hj]

theorem fieldOf_setField_other (w : Word) {hi lo hi' lo' : Nat} (v : Nat) (hhi : hi < 64) (h : hi' < lo ∨ hi < lo') :
    fieldOf (setField w hi lo v) hi' lo' = fieldOf w hi' lo' := by
  refine Nat.eq_of_testBit_eq fun j => ?_
  rw [testBit_fieldOf, testBit_fieldOf, bitOf_setField w v hhi]
  by_cases hj : j < hi' + 1 - lo'
  · have : ¬ (lo ≤ lo' + j ∧ lo' + j ≤ hi) := by omega
    simp [this]
  · simp [hj]

theorem bitOf_setBit_same (w : Word) {i : Nat} (b : Bool) (hi : i < 64) : bitOf (setBit w i b) i = b := by
  rw [setBit, bitOf_setField w _ hi]
  cases b <;> simp

theorem fieldOf_setBit_other (w : Word) {i hi lo : Nat} (b : Bool) (hi64 : i < 64) (h : hi < i ∨ i < lo) :
    fieldOf (setBit w i b) hi lo = fieldOf w hi lo := fieldOf_setField_other w _ hi64 h

theorem fieldOf_lt (w : Word) (hi lo : Nat) : fieldOf w hi lo < 2 ^ (hi + 1 - lo) := Nat.mod_lt _ (Nat.two_pow_pos _)

/-! SCFG through the operations on a memory-side cache: only a carve-out change writes it. -/

@[simp] theorem Stack.withSet_scfg (k : Stack) (set : Nat) (l : List MscLine) : (k.withSet set l).scfg = k.scfg := rfl

@[simp] theorem Stack.insert_scfg (k : Stack) (n : MscLine) : (k.insert n).1.scfg = k.scfg := by
  simp only [Stack.insert]
  split <;> rfl

@[simp] theorem Stack.pin_scfg (k : Stack) (line : Nat) : (k.pin line).1.scfg = k.scfg := by
  simp only [Stack.pin]
  split
  · rfl
  · exact Stack.insert_scfg _ _

@[simp] theorem Stack.activate_scfg (k : Stack) (row fuel : Nat) : (k.activate row fuel).1.scfg = k.scfg := by
  induction fuel generalizing k row with
  | zero => rfl
  | succ fuel ih =>
    simp only [Stack.activate]
    split
    · rfl
    · split
      · refine List.foldlRecOn (motive := fun acc : Stack × List Nat => acc.1.scfg = k.scfg) _ _ rfl fun acc hacc l _ => ?_
        have hpin : (acc.1.pin l).1.scfg = k.scfg := (Stack.pin_scfg _ _).trans hacc
        split
        · exact (ih _ _).trans hpin
        · exact hpin
      · rfl

/-- A carve-out change sets ACT to CARVE and clears BUSY (R74). -/
theorem Stack.carve_scfg (k : Stack) :
    k.carve.1.scfg = setBit (setField k.scfg 10 8 (fieldOf k.scfg 2 0)) 11 false :=
  List.foldlRecOn
    (motive := fun acc : Stack × List Nat => acc.1.scfg = setBit (setField k.scfg 10 8 (fieldOf k.scfg 2 0)) 11 false) _ _ rfl
    fun acc hacc r _ => (Stack.activate_scfg acc.1 r captureDepth).trans hacc

theorem Stack.carve_act (k : Stack) : k.carve.1.act = fieldOf k.scfg 2 0 := by
  rw [Stack.act, Stack.carve_scfg, fieldOf_setBit_other _ _ (by decide) (by decide), fieldOf_setField_same _ _ (by decide)]
  exact Nat.mod_eq_of_lt (fieldOf_lt _ 2 0)

theorem Stack.carve_notBusy (k : Stack) : bitOf k.carve.1.scfg 11 = false := by
  rw [Stack.carve_scfg, bitOf_setBit_same _ _ (by decide)]

/-- A carve-out change restarts the window (R67). -/
theorem Stack.carve_acts (k : Stack) : k.carve.1.acts = [] := rfl

/-! The end of a refresh window. -/

theorem Stack.unpin_prio (k : Stack) (l : MscLine) : (k.unpin l).prio ≠ .pinned := by
  unfold Stack.unpin
  split
  · split <;> simp
  · assumption

/-- Keeping the HIGH limit pins no line. -/
theorem Stack.highLimit_prio (k : Stack) (room fuel : Nat) {ls : List MscLine} (h : ∀ l ∈ ls, l.prio ≠ .pinned) :
    ∀ l ∈ k.highLimit room fuel ls, l.prio ≠ .pinned := by
  induction fuel generalizing ls with
  | zero => exact h
  | succ fuel ih =>
    unfold Stack.highLimit
    split
    · split
      · next v _ =>
        refine ih (List.forall_mem_map.2 fun l hl => ?_)
        split
        · simp
        · exact h l hl
      · exact h
    · exact h

/-- No line is PINNED after a window (R67). -/
theorem Stack.endWindow_prio (k : Stack) : ∀ e ∈ k.endWindow.msc, ∀ l ∈ e.2, l.prio ≠ .pinned :=
  List.forall_mem_map.2 fun _ _ => k.highLimit_prio 0 16 (List.forall_mem_map.2 fun l _ => k.unpin_prio l)

/-! The end of a scrub. -/

theorem Stack.scrub_scrubs (k : Stack) (c : BitVec 8) : c ∉ (k.scrub c).scrubs := by
  simp [Stack.scrub]

/-- After a scrub, a line that still carries the chain is of its current generation: a stale one carries chain 0 (R62). -/
theorem Stack.scrub_gen (k : Stack) {c : BitVec 8} (hc : c ≠ 0) :
    ∀ e ∈ (k.scrub c).msc, ∀ l ∈ e.2, l.chain = c → l.gen = k.gens[c.toNat] := by
  refine List.forall_mem_map.2 fun e _ => List.forall_mem_map.2 fun l _ => ?_
  split
  · exact fun h => absurd h.symm hc
  · next hs => exact fun h => Decidable.byContradiction fun hg => hs ⟨h, hg⟩

/-! Running the events. -/

theorem run_modStack (n : Nat) (f : Stack → Stack) (s : State) :
    (modStack n f).run s = .ok () (s.setStack n (f (s.stack n))) := rfl

/-- Recording the overflows of hot rows changes the hub and nothing else (R66). -/
theorem run_hotRowEvents (k : Nat) (rows : List Nat) (s : State) :
    ∃ h, (hotRowEvents k rows).run s = .ok () { s with hub := h } := by
  induction rows generalizing s with
  | nil => exact ⟨s.hub, rfl⟩
  | cons r rest ih =>
    obtain ⟨h, hh⟩ := ih { s with hub := s.hub.tuffAdd s.time tHotRow 0 0x09 k (BitVec.ofNat 64 (rowPayload r)) }
    exact ⟨h, hh⟩

/-- A change of the carve-out by the base die: of the rest of the state, only resident bytes and the hub change. -/
theorem run_carveChange (n : Nat) (s : State) :
    ∃ u, (carveChange n).run s = .ok () u ∧ u.strands = s.strands ∧ u.stack n = (s.stack n).carve.1 := by
  obtain ⟨h, hh⟩ := run_hotRowEvents n (s.stack n).carve.2 (State.setStack { s with mem := _ } n (s.stack n).carve.1)
  exact ⟨_, hh, rfl, State.stack_setStack _ _ _⟩

/-- A walk that finds a leaf, for an address that no cached entry maps, installs it (R29, R41). -/
theorem exec_pageWalk {s : State} {c : Ctx} {t : Strand} {va l : Word} {size pte : Nat} (ht : s.strand? c.val = some t)
    (hva : fieldOf va 63 56 = 0) (hmiss : ∀ p ∈ s.tlb (.strand c), p.maps (jobOf t.hart.ptbase) va.toNat = false)
    (hlost : (s.touchWalk t.hart.ptbase va.toNat).walkLost t.hart.ptbase va.toNat = none)
    (hleaf : (s.touchWalk t.hart.ptbase va.toNat).walkPage t.hart.ptbase va.toNat = .leaf l size pte) :
    exec (.pageWalk c va) s = .next ((s.touchWalk t.hart.ptbase va.toNat).tlbAdd (.strand c)
      { job := jobOf t.hart.ptbase, vbase := va.toNat / size * size, size := size, leaf := l, pte := pte }) := by
  have hnot : ¬ (fieldOf va 63 56 ≠ 0 ∨ (s.tlb (.strand c)).any (fun p => p.maps (jobOf t.hart.ptbase) va.toNat) = true) := by
    simpa [hva] using hmiss
  refine occur_next ?_
  rw [pageWalkM, run_bind_ok (run_get s)]
  simp only [ht, if_neg hnot, hlost, hleaf]
  rfl

/-- A line that the cache does not hold is filled (R58). -/
theorem exec_mscFill {s : State} {k : Die} {line : Nat} (chain : BitVec 8) (uo : Bool) (hline : line < 0x18000000)
    (hmiss : ∀ l ∈ (s.stack k.val).setLines (mscSet line), l.line ≠ line) :
    ∃ u, exec (.mscFill k line chain uo) s = .next u ∧ u.mem = s.mem ∧ u.strands = s.strands ∧
      u.stack k.val = ((s.stack k.val).fill line chain uo none).1 := by
  have hnot : ¬ (0x18000000 ≤ line ∨ ((s.stack k.val).setLines (mscSet line)).any (fun l => l.line == line) = true) := by
    simpa [hline] using hmiss
  obtain ⟨h, hh⟩ := run_hotRowEvents k.val ((s.stack k.val).fill line chain uo none).2
    (s.setStack k.val ((s.stack k.val).fill line chain uo none).1)
  have hrun : (mscFillM k.val line chain uo).run s =
      .ok () { s.setStack k.val ((s.stack k.val).fill line chain uo none).1 with hub := h } := by
    rw [mscFillM, run_bind_ok (run_get s)]
    simp only [if_neg hnot]
    exact hh
  exact ⟨_, occur_next hrun, rfl, rfl, State.stack_setStack s k.val _⟩

/-- The oldest DEMOTE takes effect where no scrub of its chain runs (R61, R62). -/
theorem exec_demoteApply {s : State} {k : Die} {c : BitVec 8} {r : List (BitVec 8)} (hd : (s.stack k.val).demotes = c :: r)
    (hc : c ∉ (s.stack k.val).scrubs) :
    exec (.demoteApply k) s = .next (s.setStack k.val ({ s.stack k.val with demotes := r }.demote c)) := by
  refine (occur_next (m := demoteApplyM k.val) (run_modStack k.val _ s)).trans ?_
  simp [hd, hc]

theorem exec_demoteScrubEnd {s : State} {k : Die} {c : BitVec 8} (hc : c ∈ (s.stack k.val).scrubs) :
    exec (.demoteScrubEnd k c) s = .next (s.setStack k.val ((s.stack k.val).scrub c)) := by
  refine (occur_next (m := scrubEndM k.val c) (run_modStack k.val _ s)).trans ?_
  simp [hc]

theorem exec_refreshWindowEnd (s : State) (k : Die) :
    exec (.refreshWindowEnd k) s = .next (s.setStack k.val (s.stack k.val).endWindow) := rfl

/-- A requested change is carried out while no launch is resident (R22, R74). -/
theorem exec_carveChange {s : State} {k : Die} (hbusy : bitOf (s.stack k.val).scfg 11 = true) (hres : s.noneResident = true) :
    ∃ u, exec (.carveChange k) s = .next u ∧ u.strands = s.strands ∧ u.stack k.val = (s.stack k.val).carve.1 := by
  obtain ⟨u, hrun, hu⟩ := run_carveChange k.val s
  refine ⟨u, occur_next ?_, hu⟩
  rw [carveChangeM, run_bind_ok (run_get s)]
  simpa only [hbusy, hres, Bool.and_self, if_true] using hrun

/-- Without a request, or while a launch is resident, the carve-out stays as it is. -/
theorem exec_carveChange_none {s : State} {k : Die} (h : bitOf (s.stack k.val).scfg 11 = false ∨ s.noneResident = false) :
    exec (.carveChange k) s = .next s := by
  have hnot : (bitOf (s.stack k.val).scfg 11 && s.noneResident) = false := Bool.and_eq_false_iff.2 h
  refine occur_next ?_
  rw [carveChangeM, run_bind_ok (run_get s), hnot]
  rfl

/-- Settles O58: each event is run by its own lemma, and what it then leaves is read off the operations on the stack. -/
theorem memorySideEvents : Obligations.MemorySideEvents := by
  intro s k line chain uo st on
  refine ⟨?walk, ?fill, ?window, ?demote, ?scrub, ?carve, exec_carveChange_none⟩
  case walk => exact fun c t va l size pte ht hva hmiss hlost hleaf => exec_pageWalk ht hva hmiss hlost hleaf
  case fill => exact fun hline hmiss => exec_mscFill chain uo hline hmiss
  case window => exact ⟨_, exec_refreshWindowEnd s k, rfl, rfl, st.endWindow_prio⟩
  case demote => exact fun c r hd hc => exec_demoteApply hd hc
  case scrub =>
    exact fun hrun hchain => ⟨_, exec_demoteScrubEnd hrun, st.scrub_scrubs chain, st.scrub_gen hchain⟩
  case carve =>
    intro hbusy hres
    obtain ⟨u, he, hstrands, hstack⟩ := exec_carveChange hbusy hres
    refine ⟨u, he, hstrands, ?_⟩
    rw [hstack]
    exact ⟨ st.carve_act, st.carve_notBusy, st.carve_acts⟩

end Sys2Proof.Machine
end

section
/-! Settles the statement about exact-accumulate slots (05 R126). A slot is read as its SUM and its flags; ExaAdd is then one equation, an
addition modulo 2^W to the SUM and a union to the flags, so that two adds commute, and the SUM after any adds is their total modulo 2^W. -/

namespace Sys2Proof.Machine

/-! A slot as its SUM and its three flags. -/

/-- The SUM of a slot: its low W bits. -/
def exaSum (f64 : Bool) (slot : Nat) : Nat := slot % 2 ^ exaW f64

/-- The flags of a slot, above RSVD: 4 NAN, 2 PINF, 1 NINF. -/
def exaFlags (f64 : Bool) (slot : Nat) : Nat := slot / 2 ^ (exaW f64 + 1) % 8

/-- The slot with a SUM, taken modulo 2^W, and flags; RSVD is 0. -/
def exaPack (f64 : Bool) (sum : Int) (flags : Nat) : Nat :=
  (sum % (2 ^ exaW f64 : Nat)).toNat + 2 ^ (exaW f64 + 1) * flags

theorem two_pow_cast_pos (w : Nat) : (0 : Int) < (2 ^ w : Nat) := Int.natCast_pos.2 (Nat.two_pow_pos w)

theorem emod_two_pow_nonneg (t : Int) (w : Nat) : 0 ≤ t % (2 ^ w : Nat) :=
  Int.emod_nonneg t (Int.ne_of_gt (two_pow_cast_pos w))

theorem toNat_emod_two_pow_lt (t : Int) (w : Nat) : (t % (2 ^ w : Nat)).toNat < 2 ^ w :=
  (Int.toNat_lt (emod_two_pow_nonneg t w)).2 (Int.emod_lt_of_pos t (two_pow_cast_pos w))

@[simp] theorem exaSum_exaPack (f64 : Bool) (sum : Int) (flags : Nat) :
    exaSum f64 (exaPack f64 sum flags) = (sum % (2 ^ exaW f64 : Nat)).toNat := by
  rw [exaSum, exaPack, Nat.pow_succ, Nat.mul_assoc, Nat.add_mul_mod_self_left, Nat.mod_eq_of_lt (toNat_emod_two_pow_lt _ _)]

@[simp] theorem exaFlags_exaPack (f64 : Bool) (sum : Int) {flags : Nat} (h : flags < 8) :
    exaFlags f64 (exaPack f64 sum flags) = flags := by
  have hsum : (sum % (2 ^ exaW f64 : Nat)).toNat < 2 ^ (exaW f64 + 1) :=
    Nat.lt_trans (toNat_emod_two_pow_lt _ _) (Nat.pow_lt_pow_succ (by decide))
  rw [exaFlags, exaPack, Nat.add_mul_div_left _ _ (Nat.two_pow_pos _), Nat.div_eq_of_lt hsum, Nat.zero_add, Nat.mod_eq_of_lt h]

theorem exaFlags_lt (f64 : Bool) (slot : Nat) : exaFlags f64 slot < 8 := Nat.mod_lt _ (by decide)

/-! ExaAdd as an addition and a union. -/

/-- What a value adds to the SUM, in units of 2^(-L): nothing unless it is finite. -/
def Num.exaUnits (f64 : Bool) : Num → Int
  | .fin neg sig e => signedSig neg (sig * 2 ^ (e + exaL f64).toNat)
  | _ => 0

/-- The flag that a value raises: none where it is finite. -/
def Num.exaFlag : Num → Nat
  | .nan _ => 4
  | .inf false => 2
  | .inf true => 1
  | .fin _ _ _ => 0

theorem Num.exaFlag_lt (x : Num) : x.exaFlag < 8 := by
  unfold Num.exaFlag
  split <;> decide

/-- Raising one flag, as ExaAdd writes it. -/
theorem raiseFlag_eq_or : ∀ fl < 8, ∀ b ∈ [1, 2, 4], (if fl / b % 2 = 1 then fl else fl + b) = fl ||| b := by decide

theorem exaAdd_eq (f64 : Bool) (slot : Nat) (x : Num) :
    exaAdd f64 slot x = exaPack f64 (exaSum f64 slot + x.exaUnits f64) (exaFlags f64 slot ||| x.exaFlag) := by
  have hkeep : ((exaSum f64 slot + 0 : Int) % (2 ^ exaW f64 : Nat)).toNat = exaSum f64 slot := by
    rw [Int.add_zero, ← Int.natCast_emod, Int.toNat_natCast, exaSum, Nat.mod_mod]
  have hraise (b : Nat) (hb : b ∈ [1, 2, 4]) :
      exaSum f64 slot + 2 ^ (exaW f64 + 1) *
          (if exaFlags f64 slot / b % 2 = 1 then exaFlags f64 slot else exaFlags f64 slot + b) =
        exaPack f64 (exaSum f64 slot + 0) (exaFlags f64 slot ||| b) := by
    rw [exaPack, hkeep, raiseFlag_eq_or _ (exaFlags_lt f64 slot) b hb]
  match x with
  | .nan _ => exact hraise 4 (by decide)
  | .inf false => exact hraise 2 (by decide)
  | .inf true => exact hraise 1 (by decide)
  | .fin _ _ _ => rw [Num.exaFlag, Nat.or_zero]; rfl

theorem exaSum_exaAdd (f64 : Bool) (slot : Nat) (x : Num) :
    (exaSum f64 (exaAdd f64 slot x) : Int) = (exaSum f64 slot + x.exaUnits f64) % (2 ^ exaW f64 : Nat) := by
  rw [exaAdd_eq, exaSum_exaPack, Int.toNat_of_nonneg (emod_two_pow_nonneg _ _)]

theorem exaFlags_exaAdd (f64 : Bool) (slot : Nat) (x : Num) :
    exaFlags f64 (exaAdd f64 slot x) = exaFlags f64 slot ||| x.exaFlag := by
  rw [exaAdd_eq, exaFlags_exaPack f64 _ (Nat.or_lt_two_pow (n := 3) (exaFlags_lt f64 slot) x.exaFlag_lt)]

/-- Packing takes the SUM modulo 2^W, so what is added may be reduced first. -/
theorem exaPack_emod_add (f64 : Bool) (a b : Int) (flags : Nat) :
    exaPack f64 (a % (2 ^ exaW f64 : Nat) + b) flags = exaPack f64 (a + b) flags := by
  rw [exaPack, exaPack, Int.emod_add_emod]

/-- Two adds leave the same slot in either order: integer addition commutes, and so does the union of flags. -/
theorem exaAdd_right_comm (f64 : Bool) (slot : Nat) (x y : Num) :
    exaAdd f64 (exaAdd f64 slot x) y = exaAdd f64 (exaAdd f64 slot y) x := by
  rw [exaAdd_eq f64 (exaAdd f64 slot x) y, exaAdd_eq f64 (exaAdd f64 slot y) x]
  simp only [exaSum_exaAdd, exaFlags_exaAdd, exaPack_emod_add]
  rw [Int.add_right_comm, Nat.or_assoc, Nat.or_comm x.exaFlag, ← Nat.or_assoc]

/-! Adds of finite values, one after the other. -/

/-- A finite value's sign, significand and exponent, as a value. -/
def finNum (x : Bool × Nat × Int) : Num := .fin x.1 x.2.1 x.2.2

/-- The SUM after adds is the total added, modulo 2^W. -/
theorem exaSum_foldl_exaAdd (f64 : Bool) (l : List Num) (slot : Nat) :
    (exaSum f64 (l.foldl (exaAdd f64) slot) : Int) = (exaSum f64 slot + (l.map (Num.exaUnits f64)).sum) % (2 ^ exaW f64 : Nat) := by
  induction l generalizing slot with
  | nil => rw [List.foldl_nil, List.map_nil, List.sum_nil, Int.add_zero, ← Int.natCast_emod, exaSum, Nat.mod_mod]
  | cons x rest ih => rw [List.foldl_cons, ih, exaSum_exaAdd, Int.emod_add_emod, List.map_cons, List.sum_cons, Int.add_assoc]

/-- Values that raise no flag leave the flags. -/
theorem exaFlags_foldl_exaAdd (f64 : Bool) {l : List Num} (h : ∀ x ∈ l, x.exaFlag = 0) (slot : Nat) :
    exaFlags f64 (l.foldl (exaAdd f64) slot) = exaFlags f64 slot := by
  induction l generalizing slot with
  | nil => rfl
  | cons x rest ih =>
    rw [List.foldl_cons, ih fun y hy => h y (List.mem_cons_of_mem x hy), exaFlags_exaAdd, h x List.mem_cons_self, Nat.or_zero]

/-! ExaRead of a slot without flags. -/

/-- An integer within W bits is read back from its code. -/
theorem toSigned_of_eq_emod {w v : Nat} {t : Int} (hw : 0 < w) (hv : (v : Int) = t % (2 ^ w : Nat)) (ht : t.natAbs < 2 ^ (w - 1)) :
    toSigned w v = t := by
  have hdouble : 2 ^ w = 2 * 2 ^ (w - 1) := by rw [← Nat.pow_succ', Nat.succ_eq_add_one, Nat.sub_add_cancel hw]
  rw [toSigned]
  rw [hdouble] at hv ⊢
  generalize 2 ^ (w - 1) = m at hv ht ⊢
  by_cases hneg : t < 0
  · have hval : t % (2 * m : Nat) = t + (2 * m : Nat) := by
      rw [← Int.add_emod_right, Int.emod_eq_of_lt (by omega) (by omega)]
    have hsign : v / m = 1 := Nat.div_eq_of_lt_le (by omega) (by omega)
    rw [hsign, if_pos rfl, Nat.mod_eq_of_lt (by omega)]
    omega
  · have hval : t % (2 * m : Nat) = t := Int.emod_eq_of_lt (by omega) (by omega)
    have hsign : v / m = 0 := Nat.div_eq_of_lt (by omega)
    rw [hsign, if_neg (by decide), Nat.mod_eq_of_lt (by omega)]
    omega

theorem exaRead_of_noFlags {f64 : Bool} {slot : Nat} (h : exaFlags f64 slot = 0) (fmt : FFmt) :
    exaRead f64 slot fmt =
      let v := toSigned (exaW f64) (exaSum f64 slot)
      if v = 0 then 0 else (fmt.round .rne (.fin (decide (v < 0)) v.natAbs (-(exaL f64 : Int)))).bits := by
  rw [exaFlags] at h
  unfold exaRead
  dsimp only
  rw [h, if_neg (by decide), if_neg (by decide), if_neg (by decide)]
  rfl

/-- Adds of finite values to an empty slot read back as their total, rounded once, where it is within the slot. -/
theorem exaRead_foldl_exaAdd {f64 : Bool} {l : List Num} {total : Int} (hflag : ∀ x ∈ l, x.exaFlag = 0)
    (htotal : (l.map (Num.exaUnits f64)).sum = total) (hfit : total.natAbs < 2 ^ (exaW f64 - 1)) (fmt : FFmt) :
    exaRead f64 (l.foldl (exaAdd f64) 0) fmt =
      if total = 0 then 0 else (fmt.round .rne (.fin (decide (total < 0)) total.natAbs (-(exaL f64 : Int)))).bits := by
  have hflags : exaFlags f64 (l.foldl (exaAdd f64) 0) = 0 := by
    rw [exaFlags_foldl_exaAdd f64 hflag, exaFlags, Nat.zero_div, Nat.zero_mod]
  have hsum : (exaSum f64 (l.foldl (exaAdd f64) 0) : Int) = total % (2 ^ exaW f64 : Nat) := by
    rw [exaSum_foldl_exaAdd, htotal, exaSum, Nat.zero_mod, Int.natCast_zero, Int.zero_add]
  have hpos : 0 < exaW f64 := by cases f64 <;> decide
  simp only [exaRead_of_noFlags hflags, toSigned_of_eq_emod hpos hsum hfit]

/-- Settles O40: two adds commute, so every order of a list of adds leaves the same slot; finite adds raise no flag and leave their
total modulo 2^W in the SUM, which is the total itself where it is within the slot. -/
theorem exactSum : Obligations.ExactSum := by
  refine ⟨fun f64 slot l l' hperm => hperm.foldl_eq' (fun x _ y _ s => exaAdd_right_comm f64 s x y) slot, ?_⟩
  intro f64 fmt l _ total hfit
  have htotal : ((l.map finNum).map (Num.exaUnits f64)).sum = total := by rw [List.map_map]; rfl
  have hflag : ∀ x ∈ l.map finNum, x.exaFlag = 0 := List.forall_mem_map.2 fun _ _ => rfl
  have hread := exaRead_foldl_exaAdd hflag htotal hfit fmt
  rwa [List.foldl_map] at hread

end Sys2Proof.Machine
end

section
/-! Settles the statements about the decoder and the encoder (08 R184-R196). The round trip of each form is a lemma of its own, so that
the statement over all instructions is a case split. A word written out from the tables is the one that `encode` writes. -/

namespace Sys2Proof.Laws.Roundtrip

/-- The round trip of every instruction: the lemmas of the forms, in the order of the constructors. -/
theorem holds (i : Instr) : Statement i :=
  i.casesOn
    add sub mul mulh mulhn div divn rem remn and or xor shl shr sra slt sltn min max clz ctz popc ldl stc addi andi ori xori
    shli shri srai slti lui addpc ldB ldH ldW ldD ldBN ldHN ldWN stB stH stW stD srd swr beq bne blt bge bltn bgen jal jalr loop
    vrep yield sexit scall brk qw qr qpeek qstat vadd vsub vmul vdiv vmin vmax vand vor vxor vshl vshr vsra vwmul vwadd vfma
    vfms vfnma vsqrt vrcp vabs vneg vmov vclass viota vsplat vmovQ vnarrow vaddS vsubS vmulS vdivS vminS vmaxS vandS vorS vxorS
    vshlS vshrS vsraS vwmulS vwaddS vfmaS vfmsS vfnmaS vcvt vqnt vdqnt vsat vcmp vcmpS vsel vmerge vld vlds vldx vldxD vldq vldl
    vldlD vldz vpf vst vsts vstx vstxD vstc vscc vsccD vsetl vsetmf vsplit vfuse mpopv mand mor mxor mnot mset mclr mfromfm mcnt
    many mfirst vslideup vslidedn vshuf vrev vcompress vexpand vscan vscanMin vscanMax vredsum vredsumF vredmax vredmin vredsumQ
    vredsumFQ vredmaxQ vredminQ vfold vfoldFin vfoldClr vfoldFinQ vconflict fld fst fldlv fscat fintA fintB fintAdd fintMul
    fintMin fintMax funiA funiB funiAdd funiMul funiMin funiMax fmrg fsort fsortA fsortB fsortAdd fsortMul fsortMin fsortMax
    fcpt fcptZ fexp ffromv fcrd fval fcnt mmaT mmaM mmaxT mmaxM mmasT mmasM tshape accz accld accst accrd accwr acccvt accred
    accrdD accwrD tluf tchol ttrsL ttrsU ttrsL1 ttrsU1 ttrsLp ttrsL1p tres titer rstv rstvMc rstvAdd bnkexa cdep ctas cclr crd
    cwr bar fenceAv fenceVa fenceVv fenceAll xfence siginc sigincR sigwait timerd waitt bnkopAdd bnkopMin bnkopMax bnkopMinn
    bnkopMaxn bnkopAnd bnkopOr bnkopXor bnkopSwap bnkopCas bnkopFadd32 bnkopFadd64 bnkrdF32 bnkrdBf16 bnkrdF64 bnkrdF32Z
    bnkrdBf16Z bnkrdF64Z gstr gstop copy copyMt copyTm copyTt cplw oncpl upret resid demote discard pghint gath ccfg cap capP
    cslot cslotFree ctake cstat fadd fsub fmul ffma fdiv fsqrt fcmp fcvt mfs mts tret launch launchAbort preempt ctxsave ctxload
    frestore xlinv idle setpri lgretire sblk ccInterruptEntry trapNoticeDeliver nqptrConsWrite nqctlWrite pageWalk mscFill
    refreshWindowEnd demoteApply demoteScrubEnd scfgCarveWrite carveChange hrctlWrite fumaroleForwardReceive
    fumaroleReturnReceive geyserEntryDeliver pathOperationComplete upcallEntry queueWake queueDeadlock semaphoreGrant
    sigwaitWake barrierEpisodeComplete waittWake cplwWake idleWake rstvOutcome remoteStorePacket remoteAddPacket signalPacket
    tokenRowPacket ackPacket remoteReadPacket readDataPacket remoteBankRequest remoteBankReply rdWriteFaultReport rdSplitReceive
    rdInvReceive rdAckReceive rdReleasedRetired rdFormerHolderFault calderaDeposit calderaTimeoutRelease calderaTimeoutTrap
    launchEnterDispatch dispatchPlace dispatchPreempt quantumExpiry launchRetire uncorrectableError errorRetryResult
    linkCrcResend linkRetrain tuffStreamSend tuffctlFrzSet tuffctlFrzClear tuffctlStreamWrite tuffputCommit mextExtend
    attestRequest moduleReset tftpImageReceive rstctlWarmWrite warmReset timectlGmWrite timectlRelWrite gmReleaseTimeout
    timeEventMessage timeLockChange pwrctlReqWrite powerModeChangeEnd thermalThrottle thermalUnthrottle thermalPowerOff
    pcieInboundDma registerWrite powerLoss managementPortLinkChange managementPortReceive bankResultReturn

end Sys2Proof.Laws.Roundtrip

namespace Sys2Proof.Machine

/-- Settles O3: each form reads back from its own word. -/
theorem encodingRoundTrip : Obligations.EncodingRoundTrip := Laws.Roundtrip.holds

/-- A word decodes to the instruction that the encoder writes it for. -/
theorem decodeWord_of_encode {i : Instr} {w : Nat} (hword : hasOwnWord i = true) (hwf : i.wf = true) (hw : encode i = w) :
    decodeWord w = .ok i := hw ▸ encodingRoundTrip i hword hwf

/-- Settles O2: the words of instructions are those that the encoder writes, and the four other words name no form. -/
theorem decodingRight : Obligations.DecodingRight :=
  ⟨decodeWord_of_encode rfl rfl rfl, decodeWord_of_encode rfl rfl rfl, decodeWord_of_encode rfl rfl rfl,
    decodeWord_of_encode rfl rfl rfl, decodeWord_of_encode rfl rfl rfl, decodeWord_of_encode rfl rfl rfl,
    decodeWord_of_encode rfl rfl rfl, decodeWord_of_encode rfl rfl rfl, decodeWord_of_encode rfl rfl rfl,
    decodeWord_of_encode rfl rfl rfl, rfl, rfl, rfl, rfl⟩

end Sys2Proof.Machine
end

section
/-! Settles the statement about the special registers (08 R193, R194; 09 R229). A read of a register and a write of one are each run
once, over whatever the register's number names; then the tables of numbers are compared entry by entry. -/

namespace Sys2Proof.Machine

variable {s : State} {c : Ctx} {t : Strand} {i : Instr} {d a : GReg} {n : Fin 1024}

/-! A meaning that reads or writes a register, run as an instruction. -/

/-- Outside an upcall handler whatever is no system instruction may be executed, and the rest with the system bit. -/
theorem InProgram.may (h : InProgram s c t) (hsys : (klass i).system = true → t.hart.sysh = true) : t.may i :=
  ⟨hsys, fun hupc => absurd (h.user.symm.trans hupc) (by decide)⟩

theorem klass_srd_system (d : GReg) (n : Fin 1024) : (klass (.srd d n)).system = false := by
  show (if resyncReg n then kCommonSync else kCommon).system = false
  split <;> rfl

theorem klass_swr_system (a : GReg) (n : Fin 1024) : (klass (.swr a n)).system = false := by
  show (if resyncReg n then kCommonSync else kCommon).system = false
  split <;> rfl

/-- An instruction whose meaning traps in a program takes the trap on its strand. -/
theorem InProgram.perform_trap (h : InProgram s c t) {m : M Unit} {cause : Nat} {tval : Word} (hw : i.wf = true)
    (hsys : (klass i).system = true → t.hart.sysh = true) (hm : m.run s = .error (.trap { cause := cause, tval := tval }) s) :
    perform i m s = .next (takeStrandTrap c i { cause := cause, tval := tval } s) := by
  rw [h.toReady.perform_trap hw (h.may hsys) hm, takeTrap, h.turn]

/-- SRD and SWR reach the numbers below 0x100; the others are the system's, and take the privilege trap (R194). -/
theorem InProgram.perform_low (h : InProgram s c t) {m rest : M Unit} {answer : Host.Outcome State Fault Refusal} (hw : i.wf = true)
    (hsys : (klass i).system = true → t.hart.sysh = true)
    (hm : m.run s = (do require (decide (n.val < 0x100)) cPrivilege (wordOf i); rest : M Unit).run s)
    (hrest : m.run s = rest.run s → perform i m s = answer) :
    perform i m s =
      if 0x100 ≤ n.val then .next (takeStrandTrap c i { cause := cPrivilege, tval := wordOf i } s) else answer := by
  split
  next hn => exact h.perform_trap hw hsys (hm.trans (run_bind_error (run_require_not _ _ (by simpa using hn) s)))
  next hn => exact hrest (hm.trans (run_bind_ok (run_require _ _ (by simpa using hn) s)))

/-- What reading a register answers: its value in gd, or the illegal-instruction trap for a number that names none (R194). -/
def readAnswer (s : State) (c : Ctx) (t : Strand) (i : Instr) (d : GReg) (v : Option Word) : Host.Outcome State Fault Refusal :=
  match v with
  | some w => wroteG s c t d w
  | none => .next (takeStrandTrap c i { cause := cIllegal, tval := wordOf i } s)

/-- A meaning that reads a register into gd. -/
theorem InProgram.perform_readInto (h : InProgram s c t) {m : M Unit} {v : Option Word} (hw : i.wf = true)
    (hsys : (klass i).system = true → t.hart.sysh = true) (hm : m.run s = (readInto i d v).run s) :
    perform i m s = readAnswer s c t i d v := by
  cases v with
  | some w => exact h.toReady.perform_next hw (h.may hsys) (hm.trans (h.toReady.run_gW_advance d w))
  | none => exact h.perform_trap hw hsys hm

/-- The meaning ends normally and has changed the strand to `u`, which stands at the same place of its program. -/
structure ChangesTo (s : State) (c : Ctx) (t : Strand) (m : M Unit) (u : Strand) : Prop where
  run : m.run s = .ok () (s.setStrand c.val u)
  direct : u.fromQueue = t.fromQueue
  whole : u.saved = t.saved
  pc : u.hart.pc = t.hart.pc

theorem Ready.changes_modStrand (h : Ready s c t) (f : Strand → Strand) (hq : (f t).fromQueue = t.fromQueue)
    (hs : (f t).saved = t.saved) (hpc : (f t).hart.pc = t.hart.pc) : ChangesTo s c t (modStrand f) (f t) :=
  ⟨h.run_modStrand f, hq, hs, hpc⟩

theorem Ready.changes_modHart (h : Ready s c t) (f : Hart → Hart) (hpc : (f t.hart).pc = t.hart.pc) :
    ChangesTo s c t (modHart f) { t with hart := f t.hart } :=
  ⟨h.run_modHart f, rfl, rfl, hpc⟩

/-- What writing a register answers: the changed strand goes on, or the illegal-instruction trap for a number that may not be
written (R194). -/
def writeAnswer (s : State) (c : Ctx) (t : Strand) (i : Instr) (r : Option Strand) : Host.Outcome State Fault Refusal :=
  match r with
  | some u => .next (s.setStrand c.val (t.past u))
  | none => .next (takeStrandTrap c i { cause := cIllegal, tval := wordOf i } s)

/-- A meaning that writes a register. -/
theorem InProgram.perform_writeFrom (h : InProgram s c t) {m : M Unit} {w : Option (M Unit)} {r : Option Strand} (hw : i.wf = true)
    (hsys : (klass i).system = true → t.hart.sysh = true) (hm : m.run s = (writeFrom i w).run s)
    (hr : Option.Rel (ChangesTo s c t) w r) :
    perform i m s = writeAnswer s c t i r := by
  cases hr with
  | none => exact h.perform_trap hw hsys hm
  | some hc =>
    refine h.toReady.perform_next hw (h.may hsys) (hm.trans ?_)
    have hready := h.toReady.mod hc.direct hc.whole
    rw [writeFrom, run_bind_ok hc.run, hready.run_advance, State.setStrand_setStrand, hc.pc]
    rfl

/-! The four instructions. -/

/-- What MFS reads on a strand (R193, Table 5, R229): the strand's registers, the trap registers, PTBASE and UPRA. -/
def mfsReg (s : State) (c : Ctx) (t : Strand) (k : Nat) : Option Word :=
  if k < 0x100 then strandReg s c t k else if k = 0x105 then some t.upra else trapReg t.hart k

theorem InProgram.exec_srd (h : InProgram s c t) (d : GReg) (n : Fin 1024) :
    exec (.srd d n) s =
      if 0x100 ≤ n.val then .next (takeStrandTrap c (.srd d n) { cause := cPrivilege, tval := wordOf (.srd d n) } s)
      else readAnswer s c t (.srd d n) d (strandReg s c t n.val) := by
  have hsys : (klass (.srd d n)).system = true → t.hart.sysh = true := by simp [klass_srd_system]
  refine h.perform_low (m := srdM d n) (rest := do readInto (.srd d n) d (strandReg s c (← strand) n.val)) rfl hsys ?_
    fun hm => h.perform_readInto rfl hsys (hm.trans (run_bind_ok h.toReady.run_strand))
  rw [srdM, run_bind_ok (run_get s), h.turn]

theorem InProgram.exec_mfs (h : InProgram s c t) (hsysh : t.hart.sysh = true) (d : GReg) (n : Fin 1024) :
    exec (.mfs d n) s = readAnswer s c t (.mfs d n) d (mfsReg s c t n.val) := by
  refine h.perform_readInto (m := mfsM d n) rfl (fun _ => hsysh) ?_
  rw [mfsM, run_bind_ok (run_get s), run_bind_ok h.toReady.run_hart, h.turn]
  exact run_bind_ok h.toReady.run_strand

theorem InProgram.exec_swr (h : InProgram s c t) {r : Option Strand}
    (hr : Option.Rel (ChangesTo s c t) (strandRegWrite n.val (t.rd a)) r) :
    exec (.swr a n) s =
      if 0x100 ≤ n.val then .next (takeStrandTrap c (.swr a n) { cause := cPrivilege, tval := wordOf (.swr a n) } s)
      else writeAnswer s c t (.swr a n) r := by
  have hsys : (klass (.swr a n)).system = true → t.hart.sysh = true := by simp [klass_swr_system]
  refine h.perform_low (m := swrM a n) rfl hsys ?_ fun hm => h.perform_writeFrom rfl hsys hm hr
  rw [swrM, run_bind_ok (h.toReady.run_gR a), run_bind_ok (run_get s), h.turn]

/-- What MTS writes on a strand (R229): what SWR may write, ACCWIN, the trap registers, PTBASE and UPRA. -/
def mtsRegWrite (k : Nat) (v : Word) : Option (M Unit) :=
  if k = 0x010 then some (modStrand fun t => { t with accwin := v &&& 0x7FFF00007FFF })
  else if k < 0x100 then strandRegWrite k v
  else if k = 0x105 then some (modStrand fun t => { t with upra := v }) else trapRegWrite k v

theorem InProgram.exec_mts (h : InProgram s c t) (hsysh : t.hart.sysh = true) {r : Option Strand}
    (hr : Option.Rel (ChangesTo s c t) (mtsRegWrite n.val (t.rd a)) r) :
    exec (.mts a n) s = writeAnswer s c t (.mts a n) r := by
  refine h.perform_writeFrom (m := mtsM a n) rfl (fun _ => hsysh) ?_ hr
  rw [mtsM, run_bind_ok (h.toReady.run_gR a), run_bind_ok (run_get s), h.turn]
  rfl

/-! The numbers, one by one. -/

/-- The registers of Tables 5 and 10 under SWR and MTS. -/
theorem specialWrite : Claims.SpecialWrite := by
  intro s c t h a n v low high ends
  have hr := h.toReady
  have hlow : Option.Rel (ChangesTo s c t) (strandRegWrite n.val v) low := by
    simp only [low]
    split
    case h_6 hn => rw [hn]; exact .some (hr.changes_modHart _ rfl)
    case h_7 => simp_all [strandRegWrite]
    all_goals next hn => rw [hn]; exact .some (hr.changes_modStrand _ rfl rfl rfl)
  have hhigh : Option.Rel (ChangesTo s c t)
      (if n.val = 0x105 then some (modStrand fun t => { t with upra := v }) else trapRegWrite n.val v) high := by
    simp only [high]
    by_cases hupra : n.val = 0x105
    · rw [if_pos hupra, hupra]
      exact .some (hr.changes_modStrand _ rfl rfl rfl)
    · rw [if_neg hupra]
      split
      case h_6 hn => exact absurd hn hupra
      case h_7 => simp_all [trapRegWrite]
      all_goals next hn => rw [hn]; exact .some (hr.changes_modHart _ rfl)
  have hmts : Option.Rel (ChangesTo s c t) (mtsRegWrite n.val v)
      (if n.val = 0x010 then some { t with accwin := v &&& 0x7FFF00007FFF } else if n.val < 0x100 then low else high) := by
    unfold mtsRegWrite
    split
    · exact .some (hr.changes_modStrand _ rfl rfl rfl)
    split
    · exact hlow
    · exact hhigh
  exact ⟨h.exec_swr hlow, fun hs => h.exec_mts hs hmts⟩

/-- CPLCNT is ISSUED in its upper and DONE in its lower half (R130, Table 7). -/
theorem cplWord_eq_append (x : BitVec 32 × BitVec 32) : cplWord x = x.1 ++ x.2 := by
  have h1 := x.1.isLt
  have h2 := x.2.isLt
  refine BitVec.eq_of_toNat_eq ?_
  rw [cplWord, BitVec.toNat_ofNat, BitVec.toNat_append, ← Nat.shiftLeft_add_eq_or_of_lt h2, Nat.shiftLeft_eq]
  omega

/-- The registers of Table 5 under SRD and MFS. -/
theorem specialRead : Claims.SpecialRead := by
  intro s c t h d n reg
  have hreg : reg = mfsReg s c t n.val := by
    simp only [reg, mfsReg]
    -- each number of the table, and last those that it does not list
    split <;> simp_all [strandReg, trapReg, coreNum, cplWord_eq_append]
  rw [hreg]
  refine ⟨(h.exec_srd d n).trans ?_, fun hsysh => h.exec_mfs hsysh d n⟩
  split
  · rfl
  next hn => rw [mfsReg, if_pos (by omega)]; rfl

/-- Settles O16: each of the four instructions is run by its own lemma, and the numbers are those of the tables. -/
theorem specialRegisters : Obligations.SpecialRegisters := ⟨specialRead, specialWrite⟩

end Sys2Proof.Machine
end

section
/-! Settles the statement about privilege (08 R189, 09 R228, 05 R134, 18 R422; 02 R26, R30-R33, R46). Every instruction runs behind the
checks of its entry, so that what they refuse is said once for all instructions. A page is checked in the order of R189 row 7. -/

namespace Sys2Proof.Machine

section
variable {s : State} {c : Ctx} {t : Strand} {n : Fin 32} {i : Instr}

/-! Who may execute an instruction. -/

/-- Every instruction runs behind the checks of its entry; only events do without. -/
theorem exec_eq_perform (hi : klass i ≠ kEvent) (s : State) : ∃ m, exec i s = perform i m s := by
  cases i
  case
    ccInterruptEntry | trapNoticeDeliver | nqptrConsWrite | nqctlWrite | pageWalk | mscFill | refreshWindowEnd | demoteApply
    | demoteScrubEnd | scfgCarveWrite | carveChange | hrctlWrite | fumaroleForwardReceive | fumaroleReturnReceive |
    geyserEntryDeliver | pathOperationComplete | upcallEntry | queueWake | queueDeadlock | semaphoreGrant | sigwaitWake |
    barrierEpisodeComplete | waittWake | cplwWake | idleWake | rstvOutcome | remoteStorePacket | remoteAddPacket |
    signalPacket | tokenRowPacket | ackPacket | remoteReadPacket | readDataPacket | remoteBankRequest | remoteBankReply |
    rdWriteFaultReport | rdSplitReceive | rdInvReceive | rdAckReceive | rdReleasedRetired | rdFormerHolderFault |
    calderaDeposit | calderaTimeoutRelease | calderaTimeoutTrap | launchEnterDispatch | dispatchPlace | dispatchPreempt |
    quantumExpiry | launchRetire | uncorrectableError | errorRetryResult | linkCrcResend | linkRetrain | tuffStreamSend |
    tuffctlFrzSet | tuffctlFrzClear | tuffctlStreamWrite | tuffputCommit | mextExtend | attestRequest | moduleReset |
    tftpImageReceive | rstctlWarmWrite | warmReset | timectlGmWrite | timectlRelWrite | gmReleaseTimeout | timeEventMessage
    | timeLockChange | pwrctlReqWrite | powerModeChangeEnd | thermalThrottle | thermalUnthrottle | thermalPowerOff |
    pcieInboundDma | registerWrite | powerLoss | managementPortLinkChange | managementPortReceive | bankResultReturn =>
    exact absurd rfl hi
  all_goals exact ⟨_, rfl⟩

/-- An instruction that a check of its entry refuses takes that trap, and has had no effect. -/
theorem exec_of_refused (hi : klass i ≠ kEvent) (hr : (entryChecks i).run s = .error (.trap r) s) :
    exec i s = .next (takeTrap i r s) := by
  obtain ⟨m, hm⟩ := exec_eq_perform hi s
  rw [hm, perform, run_bind_error hr]
  rfl

/-- The checks of an instruction's entry on a strand. -/
theorem Ready.run_entryChecks (h : Ready s c t) (i : Instr) :
    (entryChecks i).run s = (do
      require (!(klass i).system || t.hart.sysh) cPrivilege (wordOf i)
      require i.wf cIllegal (wordOf i)
      require (!t.hart.upc || (klass i).handler) cIllegal (wordOf i) : M Unit).run s := by
  rw [entryChecks, run_bind_ok (run_get s), h.turn]
  refine (run_bind_ok (run_strandAt h.bound)).trans ?_
  rw [h.direct]
  rfl

/-- The checks of an instruction's entry on a control complex core. -/
theorem run_entryChecks_cc (h : s.turn = .cc n) (i : Instr) :
    (entryChecks i).run s = (do
      require (!(klass i).system || bitOf (s.cc n.val).ccstat 0) cPrivilege (wordOf i)
      require (i.wf && (klass i).cc) cIllegal (wordOf i) : M Unit).run s := by
  rw [entryChecks, run_bind_ok (run_get s), h]
  exact run_bind_ok (run_get s)

theorem ne_kEvent_of_system (h : (klass i).system = true) : klass i ≠ kEvent := by
  intro he
  rw [he] at h
  cases h

theorem ne_kEvent_of_side (h : (klass i).side ≠ .event) : klass i ≠ kEvent := fun he => h (congrArg Klass.side he)

/-- Without the system bit a system instruction takes the privilege trap (R189 row 3, R228). -/
theorem Ready.exec_system_refused (h : Ready s c t) (hsys : (klass i).system = true) (huser : t.hart.sysh = false) :
    exec i s = .next (takeStrandTrap c i { cause := cPrivilege, tval := wordOf i } s) := by
  rw [exec_of_refused (ne_kEvent_of_system hsys) (r := { cause := cPrivilege, tval := wordOf i }), takeTrap, h.turn]
  rw [h.run_entryChecks, run_bind_error (run_require_not _ _ (by simp [hsys, huser]) s)]

/-- In an upcall handler an instruction that R134 does not allow is illegal. -/
theorem Ready.exec_handler_refused (h : Ready s c t) (hi : (klass i).side ≠ .event) (hh : (klass i).handler = false)
    (hupc : t.hart.upc = true) (hwf : i.wf = true) (hsys : (klass i).system = true → t.hart.sysh = true) :
    exec i s = .next (takeStrandTrap c i { cause := cIllegal, tval := wordOf i } s) := by
  have hpriv : (!(klass i).system || t.hart.sysh) = true := by
    cases hs : (klass i).system
    · rfl
    · exact hsys hs
  rw [exec_of_refused (ne_kEvent_of_side hi) (r := { cause := cIllegal, tval := wordOf i }), takeTrap, h.turn]
  rw [h.run_entryChecks, run_bind_ok (run_require _ _ hpriv s), run_bind_ok (run_require _ _ hwf s),
    run_require_not _ _ (by simp [hh, hupc])]

/-- At user privilege a control complex core takes the privilege trap for a system instruction (R422). -/
theorem exec_system_refused_cc (h : s.turn = .cc n) (hsys : (klass i).system = true)
    (huser : bitOf (s.cc n.val).ccstat 0 = false) :
    exec i s = .next (takeCcTrap n.val { cause := cPrivilege, tval := wordOf i } s) := by
  rw [exec_of_refused (ne_kEvent_of_system hsys) (r := { cause := cPrivilege, tval := wordOf i }), takeTrap, h]
  rw [run_entryChecks_cc h, run_bind_error (run_require_not _ _ (by simp [hsys, huser]) s)]

/-- What a control complex core does not execute is illegal there (R422, log 24). -/
theorem exec_illegal_cc (h : s.turn = .cc n) (hi : (klass i).side ≠ .event) (hsys : (klass i).system = false)
    (hcc : (klass i).cc = false) :
    exec i s = .next (takeCcTrap n.val { cause := cIllegal, tval := wordOf i } s) := by
  rw [exec_of_refused (ne_kEvent_of_side hi) (r := { cause := cIllegal, tval := wordOf i }), takeTrap, h]
  rw [run_entryChecks_cc h, run_bind_ok (run_require _ _ (by simp [hsys]) s), run_require_not _ _ (by simp [hcc])]

/-- What an instruction's entry refuses, on a strand and on a control complex core. -/
theorem entryPrivilege : Claims.Privilege :=
  ⟨fun _ _ _ h _ => ⟨h.exec_system_refused, h.exec_handler_refused⟩,
    fun _ _ h _ => ⟨exec_system_refused_cc h, exec_illegal_cc h⟩⟩

end

section
variable {s : State} {c : Ctx} {t : Strand} {a : Agent} {acc : Acc} {p : PageTr} {ptbase va : Word} {cause : Nat}

/-! The checks of a translated page, in their order (R189 row 7). -/

/-- The bits of a word above a 56-bit address are clear exactly below 2^56 (R23). -/
theorem fieldOf_63_56_eq_zero_iff (w : Word) : fieldOf w 63 56 = 0 ↔ w.toNat < 2 ^ 56 := by
  have := w.isLt
  simp only [fieldOf, bitsOf]
  omega

/-- SYS pages are open to a strand whose code carries the system bit, but not to its upcall handlers (R33, R133, log 23). -/
theorem State.reachesSys_strand (h : s.strand? c.val = some t) : s.reachesSys (.strand c) = (t.hart.sysh && !t.hart.upc) := by
  rw [State.reachesSys, h]

/-- What the protection checks refuse (R26, R30-R33): a page whose memory is not there, a SYS page, a missing permission. -/
def State.keepsOut (s : State) (a : Agent) (acc : Acc) (p : PageTr) : Prop :=
  pageUnmapped (leafBase p.leaf) (leafStored p.leaf p.size) (fun k => (s.stack k).act) (leafMod p.leaf == s.moduleNum.val) = true ∨
    (leafSYS p.leaf && !s.reachesSys a) = true ∨ acc.permitted p.leaf = false

theorem State.checkPage_dead (hd : leafDead p.leaf = true) (hacc : acc ≠ .load) : s.checkPage a acc p = some cTranslation := by
  simp [State.checkPage, hd, hacc]

theorem State.checkPage_protection (hd : leafDead p.leaf = false) (h : s.keepsOut a acc p) :
    s.checkPage a acc p = some cProtection := by
  unfold State.checkPage
  rw [if_neg (by simp [hd])]
  split
  · rfl
  split
  · rfl
  split
  · rfl
  next h1 h2 h3 =>
    rcases h with h | h | h
    · exact absurd (by simp [hd, h]) h1
    · exact absurd h h2
    · exact absurd (by simp [h]) h3

/-- Beyond the protection checks only a write of a read-duplicate page traps (R46). -/
theorem State.checkPage_admitted (hd : leafDead p.leaf = false) (h : ¬ s.keepsOut a acc p) :
    s.checkPage a acc p = if leafRD p.leaf && acc.writes then some cWriteProtect else none := by
  obtain ⟨h1, h2, h3⟩ : _ ∧ _ ∧ _ := by simpa only [State.keepsOut, not_or] using h
  rw [State.checkPage, if_neg (by simp [hd]), if_neg (by simp [h1]), if_neg h2, if_neg (by simpa using h3)]

/-! Translating one address. -/

theorem State.translate_high (h : 2 ^ 56 ≤ va.toNat) : s.translate a ptbase acc va = (.error cProtection, s) := by
  rw [State.translate, if_pos (by rw [ne_eq, fieldOf_63_56_eq_zero_iff]; omega)]

section
variable (hva : va.toNat < 2 ^ 56)
include hva

theorem State.translate_refused (hp : (s.tlb a).find? (fun p => p.maps (jobOf ptbase) va.toNat) = some p)
    (hc : s.checkPage a acc p = some cause) : s.translate a ptbase acc va = (.error cause, s) := by
  rw [State.translate, if_neg (not_not_intro ((fieldOf_63_56_eq_zero_iff va).2 hva))]
  simp only [hp, hc]

theorem State.translate_admitted (hp : (s.tlb a).find? (fun p => p.maps (jobOf ptbase) va.toNat) = some p)
    (hc : s.checkPage a acc p = none) : s.translate a ptbase acc va = (.ok p, s) := by
  rw [State.translate, if_neg (not_not_intro ((fieldOf_63_56_eq_zero_iff va).2 hva))]
  simp only [hp, hc]

/-- An address that no cached entry maps is walked; an entry of the tables that is not valid is a translation trap, and a malformed
one a protection trap (R26, R29, R31). -/
theorem State.translate_walk_fails (hmiss : ∀ p ∈ s.tlb a, p.maps (jobOf ptbase) va.toNat = false)
    (hlost : (s.touchWalk ptbase va.toNat).walkLost ptbase va.toNat = none) :
    ((s.touchWalk ptbase va.toNat).walkPage ptbase va.toNat = .invalid →
      s.translate a ptbase acc va = (.error cTranslation, s.touchWalk ptbase va.toNat)) ∧
    ((s.touchWalk ptbase va.toNat).walkPage ptbase va.toNat = .malformed →
      s.translate a ptbase acc va = (.error cProtection, s.touchWalk ptbase va.toNat)) := by
  have hfind : (s.tlb a).find? (fun p => p.maps (jobOf ptbase) va.toNat) = none := by simpa using hmiss
  rw [State.translate, if_neg (not_not_intro ((fieldOf_63_56_eq_zero_iff va).2 hva))]
  -- The walked state stays a name: with its definition in place of it the kernel would run the walk.
  extract_lets v job s'
  rw [show s'.walkLost ptbase v = none from hlost]
  constructor
  · intro hw
    rw [show s'.walkPage ptbase v = .invalid from hw, hfind]
    rfl
  · intro hw
    rw [show s'.walkPage ptbase v = .malformed from hw, hfind]
    rfl

end

/-- The checks of an access follow the order of R189 row 7. -/
theorem translationChecks : Claims.TranslationChecks := by
  intro s c t acc va p ht a l tr may unmapped hidden
  have hmay : may = acc.permitted l := by cases acc <;> rfl
  have hsys : hidden = (leafSYS l && !s.reachesSys a) := by rw [State.reachesSys_strand ht]
  have hout : s.keepsOut a acc p ↔ unmapped = true ∨ hidden = true ∨ may = false := by rw [hmay, hsys]; rfl
  refine ⟨State.translate_high, fun hva hp => ⟨fun hd hacc => ?dead, fun hd => ⟨fun h => ?out, fun h1 h2 h3 => ?_⟩⟩, ?walk⟩
  case dead => exact State.translate_refused hva hp (State.checkPage_dead hd hacc)
  case out => exact State.translate_refused hva hp (State.checkPage_protection hd (hout.2 h))
  case walk =>
    intro hva hmiss _ hlost
    exact State.translate_walk_fails hva hmiss hlost
  have hin : ¬ s.keepsOut a acc p := by simp [hout, h1, h2, h3]
  have hc := State.checkPage_admitted hd hin
  constructor
  · intro hrd hw
    have hwrites : acc.writes = true := by rcases hw with rfl | rfl <;> rfl
    exact State.translate_refused hva hp (hc.trans (if_pos (Bool.and_eq_true_iff.2 ⟨hrd, hwrites⟩)))
  · intro hr
    have hno : (leafRD p.leaf && acc.writes) = false := by
      rcases hr with hrd | rfl | rfl
      · exact Bool.and_eq_false_iff.2 (.inl hrd)
      · exact Bool.and_false _
      · exact Bool.and_false _
    exact State.translate_admitted hva hp (hc.trans (if_neg (Bool.eq_false_iff.1 hno)))

end

/-- Settles O52: the checks of an instruction's entry, and the checks of a page. -/
theorem privilege : Obligations.Privilege := ⟨entryPrivilege, translationChecks⟩

end Sys2Proof.Machine
end
